-- ==== Sys2Proof/Word.lean ====
section
/-! DEFINITION. The word types of the L7 and the one container of sparse data: a list of
(key, value) pairs sorted by key. Only types stand here; the operations stand under Machine. -/

namespace Sys2Proof

/-- A byte of memory. -/
abbrev Byte := BitVec 8

/-- A vector register (R46). -/
abbrev W32 := BitVec 32

/-- A uniform register, an address or an instruction word (R25, R46). -/
abbrev W64 := BitVec 64

/-- Sparse data by key: pairs with strictly rising keys. -/
abbrev SMap (α : Type) := List (Nat × α)

end Sys2Proof
end

