-- ==== Sys2Proof/Config.lean ====
section
/-! DEFINITION. What an implementation fixes and the manual leaves open: free values, each an opaque
constant applied to what it may depend on. Nothing in Lean can evaluate one or prove a value of it. -/

namespace Sys2Proof.Config

/-- The significand and exponent an implementation delivers for a special function (R75): free within the
bound of R75, to which Machine/Special.lean holds it. Arguments: opcode byte, type code, source code. -/
opaque specialCode : Nat → Nat → Nat → Nat

/-- Whether a fetch of a word that the instruction buffers hold stale sees the old word (R45), by a
counter that each such fetch advances. -/
opaque staleFetch : Nat → Bool

/-- What a register of a block holds that a CALL makes resident for the first time (R54), by a counter that each
such register advances. -/
opaque freshReg : Nat → W32

/-- Bytes of a signature or key of Locket (R364): which field, and what it is made over. -/
opaque locketBytes : Nat → List Byte → List Byte

/-- A byte of a team's pre-emption image, whose format is private to the dispatcher (R285), by a counter that each such byte
advances. -/
opaque imageByte : Nat → Byte

/-- A byte that the dispatcher reads from a page that the host or a peer serves: what stands there is no part of
the device. By a counter that each such byte advances. -/
opaque remoteByte : Nat → Byte

/-- The security version that an image carries (R363), and the bytes of a version that M3 measures: the spec gives no layout of
either. -/
opaque imageVersion : List Byte → Nat
opaque versionBytes : Nat → List Byte

/-- The number of the connection with a module (R361), which the spec does not give. -/
opaque connNumber : Nat → Nat

end Sys2Proof.Config
end

