-- ==== Sys2Proof/Syntax.lean ====
section
/-! DEFINITION. The steps of the L7: one constructor of `Instr` for each row of spec/opcode_table.json.
The instruction rows carry the fields of their format (R25-R42); the event rows carry what names the event
and what comes from outside with it. -/

namespace Sys2Proof

/-- Type codes (R30). -/
inductive Ty where
  | i8 | i16 | i32 | i64 | n8 | n16 | n32 | n64 | f16 | bf16 | f32 | m8 | h2 | bh2
  | i1 | i2 | i4 | n1 | n2 | n4
  deriving DecidableEq, Repr

/-- Rounding and saturation modes (R31). -/
inductive Mode where
  | rne | rtz | rdn | rup | rna | satRne | satRtz
  deriving DecidableEq, Repr

/-- Memory spaces (R33). `lane` is the per-strand space, code 2. -/
inductive Space where
  | global | local | lane | gang
  deriving DecidableEq, Repr

/-- The fields of a Format A word (R28) with its literal, when the long bit is 1. -/
structure FmtA where
  u : Bool
  d : BitVec 6
  a : BitVec 6
  b : BitVec 6
  c : BitVec 6
  ka : Bool
  kb : Bool
  kc : Bool
  ea : Bool
  eb : Bool
  ec : Bool
  guard : BitVec 4
  gn : Bool
  ty : Ty
  mode : Mode
  fn : BitVec 4
  lit : Option W64
  deriving DecidableEq, Repr

/-- The fields of a Format M word (R32). `na` is alloc code 01. -/
structure FmtM where
  u : Bool
  d : BitVec 6
  base : BitVec 6
  index : BitVec 6
  kbase : Bool
  ed : Bool
  size : BitVec 3
  space : Space
  order : BitVec 2
  obs : BitVec 6
  na : Bool
  prio : BitVec 2
  guard : BitVec 4
  gn : Bool
  offset : BitVec 12
  deriving DecidableEq, Repr

/-- The fields of a Format B word (R34). -/
structure FmtB where
  guard : BitVec 4
  gn : Bool
  kind : BitVec 3
  offset : BitVec 40
  deriving DecidableEq, Repr

/-- The special registers (R111). -/
inductive SReg where
  | sid | slot | gid | team | gang | nstr | nteam | role | core | exm | wbase | flags
  | gt | lclk | sig | pkr | ebase | cause | fslot | fpc | faddr | fword | step | carat | quota
  deriving DecidableEq, Repr

/-- The fields of a Format S word (R35). -/
structure FmtS where
  u : Bool
  reg : BitVec 6
  kr : Bool
  sreg : SReg
  er : Bool
  guard : BitVec 4
  gn : Bool
  deriving DecidableEq, Repr

/-- The fields of a Format E word (R37); `u` is always 1. -/
structure FmtE where
  d : BitVec 6
  zd : BitVec 3
  zs : BitVec 3
  pam1 : BitVec 3
  pbm1 : BitVec 3
  spec : BitVec 5
  vb : BitVec 6
  deriving DecidableEq, Repr

/-- Operations of the arithmetic class that Format A encodes, opcodes 0x00-0x37 in order (R27). -/
inductive AluOp where
  | nop | mov | add | sub | mul | mulh | mad | addc | subb | min | max | abs | neg | and | or | xor
  | andn | shl | shr | sar | rot | bfx | bfi | popc | clz | ctz | fnsb | brev | sel | cmp | plog | pmov
  | fadd | fsub | fmul | ffma | fmin | fmax | fcmp | fcls | rcp | rsq | sqrt | ex2 | lg2 | sinp | cosp | tanh
  | cvt | cvtef | qblk | pack | unpk | dot4 | fdot2 | blut
  deriving DecidableEq, Repr

/-- Kinds of a tree test (R39). -/
inductive TestKind where
  | regReg | regImm | bit | pred
  deriving DecidableEq, Repr

/-- Condition codes of a tree test (R39). -/
inductive Cond where
  | eq | ne | lt | le | gt | ge | bs | bc | pt | pf
  deriving DecidableEq, Repr

/-- A test word (R39). -/
structure TestNode where
  kind : TestKind
  cond : Cond
  ty : Ty
  a : BitVec 6
  b : BitVec 6
  ka : Bool
  kb : Bool
  ea : Bool
  eb : Bool
  bimm : Bool
  imm : W32
  deriving DecidableEq, Repr

/-- Kinds of a leaf (R40). -/
inductive LeafKind where
  | next | branch | exit | trap
  deriving DecidableEq, Repr

/-- A leaf (R40). -/
structure Leaf where
  kind : LeafKind
  offset : BitVec 30
  deriving DecidableEq, Repr

/-- An arc operation (R42): an arithmetic operation, its Format A fields, and BLUT's table byte (0 elsewhere). -/
structure ArcOp where
  op : AluOp
  f : FmtA
  table : Byte
  deriving DecidableEq, Repr

/-- A TREE (R38): presence bits of the seven heap slots, the fourteen arc counts, the default type, then the
test words in slot order, the leaves from left to right and the arc operations in arc order. -/
structure Tree where
  present : List Bool
  counts : List (BitVec 2)
  dtype : Ty
  tests : List TestNode
  leaves : List Leaf
  ops : List ArcOp
  deriving DecidableEq, Repr

/-- Host-class atomics (R359) and the reduce of a peer (R251). -/
inductive HostOp where
  | add | swap | cas | other
  deriving DecidableEq, Repr

/-- An address as the host names it, in an aperture of the Porsen link: device memory through the host windows (R359), or the
management space (R355). -/
inductive HostAddr where
  | data (x : Nat)
  | management (x : Nat)
  deriving DecidableEq, Repr

/-- The header of a response over the Chain fabric (R361): its connection by peer, its sequence number, the request it
answers, its status, and the clock of the home that an atomic's answer comes from (R328). -/
structure Response where
  peer : Nat
  seq : Nat
  id : Nat
  status : Nat
  home : Nat := 0
  deriving DecidableEq, Repr

/-- The operation of an atomic message (R199, R206, R361): its opcode, the ASID and %pkr of the issuing context, and the clock of
the issuing group slot (R328). -/
structure PeerOp where
  code : Nat
  asid : Nat := 0
  pkr : W64 := 0
  clk : Nat := 0
  deriving DecidableEq, Repr

/-- Every step of the machine: the rows of spec/opcode_table.json, in the table's order. -/
inductive Instr where
  | nop (f : FmtA) | mov (f : FmtA) | add (f : FmtA) | sub (f : FmtA) | mul (f : FmtA) | mulh (f : FmtA)
  | mad (f : FmtA) | addc (f : FmtA) | subb (f : FmtA) | min (f : FmtA) | max (f : FmtA) | abs (f : FmtA)
  | neg (f : FmtA) | and (f : FmtA) | or (f : FmtA) | xor (f : FmtA) | andn (f : FmtA) | shl (f : FmtA)
  | shr (f : FmtA) | sar (f : FmtA) | rot (f : FmtA) | bfx (f : FmtA) | bfi (f : FmtA) | popc (f : FmtA)
  | clz (f : FmtA) | ctz (f : FmtA) | fnsb (f : FmtA) | brev (f : FmtA) | sel (f : FmtA) | cmp (f : FmtA)
  | plog (f : FmtA) | pmov (f : FmtA) | fadd (f : FmtA) | fsub (f : FmtA) | fmul (f : FmtA) | ffma (f : FmtA)
  | fmin (f : FmtA) | fmax (f : FmtA) | fcmp (f : FmtA) | fcls (f : FmtA) | rcp (f : FmtA) | rsq (f : FmtA)
  | sqrt (f : FmtA) | ex2 (f : FmtA) | lg2 (f : FmtA) | sinp (f : FmtA) | cosp (f : FmtA) | tanh (f : FmtA)
  | cvt (f : FmtA) | cvtef (f : FmtA) | qblk (f : FmtA) | pack (f : FmtA) | unpk (f : FmtA) | dot4 (f : FmtA)
  | fdot2 (f : FmtA) | blut (f : FmtA) (table : Byte)
  | mfs (f : FmtS) | mts (f : FmtS)
  | tree (t : Tree)
  | br (f : FmtB) | bru (f : FmtB) | jmpi (f : FmtA) | call (f : FmtB) | calli (f : FmtA) | ret (f : FmtA)
  | rjn (f : FmtA) | rjnRelease (core hslot : Nat) | regroup (f : FmtA)
  | regroupRelease (core team role : Nat)
  | exit (f : FmtA) | region (klive : BitVec 56) (vlive : W64) | trap (f : FmtA) | iret (f : FmtA)
  | bkpt (f : FmtA) | sigchk (f : FmtA) | sigrst (f : FmtA)
  | xchg (f : FmtA) | xshf (f : FmtA) | scan (f : FmtA) | red (f : FmtA) | vote (f : FmtA) | bcst (f : FmtA)
  | rbal (f : FmtA) | shfx (f : FmtA)
  | stepRel (f : FmtA) | stepAbs (f : FmtA) | stepEnd (f : FmtA) | launch (f : FmtA) | trc (f : FmtA)
  | lclk (f : FmtA) | lclkMrg (f : FmtA) | haltbTeam (f : FmtA) | haltbTrel (f : FmtA) | haltbCtx (f : FmtA)
  | haltbCrel (f : FmtA) | inspKreg (f : FmtA) | inspVreg (f : FmtA) | inspGrp (f : FmtA) | inspFrag (f : FmtA)
  | inspLmem (f : FmtA) | inspLfe (f : FmtA) | inspBar (f : FmtA) | inspQueue (f : FmtA)
  | cmntInst (f : FmtA) | cmntIpkg (f : FmtA) | cmntWb (f : FmtA)
  | atlbiPage (f : FmtA) | atlbiAsid (f : FmtA) | atlbiAll (f : FmtA)
  | ld (f : FmtM) | st (f : FmtM) | ldline (f : FmtM) | stline (f : FmtM) | ldf (f : FmtM) | stf (f : FmtM)
  | pref (f : FmtM) | tagst (f : FmtM) | tagld (f : FmtM)
  | aadd (f : FmtM) | amin (f : FmtM) | amax (f : FmtM) | aand (f : FmtM) | aor (f : FmtM) | axor (f : FmtM)
  | aswp (f : FmtM) | acas (f : FmtM) | afadd (f : FmtM) | ainc (f : FmtM)
  | dqpush (f : FmtM) | dqpop (f : FmtM) | dqsteal (f : FmtM)
  | fence (f : FmtM) | waitc (f : FmtA) (n : Byte) | bar (f : FmtA) | bara (f : FmtA) | barw (f : FmtA)
  | clinit (f : FmtM) | clarr (f : FmtM) | clwait (f : FmtM) | cltry (f : FmtM) | qtry (f : FmtA)
  | cpy (f : FmtE) | cpyp (f : FmtE) | cpyg (f : FmtE) | cpys (f : FmtE) | cpyr (f : FmtE)
  | mma (f : FmtE) | mmas (f : FmtE) | msca (f : FmtE) | acz (f : FmtE) | acrd (f : FmtE) | acwr (f : FmtE)
  | registerFill (id : Nat) | issueCycle (core : Nat) | urgentPromotion (core hslot entry : Nat)
  | spillRotation (core hslot : Nat) | handlerEntry (core hslot : Nat)
  | homeFetch (id : Nat) | postedArrival (id : Nat) | storeVisible (line : Nat) | atomicArrival (id : Nat)
  | dequeAtHome (id : Nat) | leaseExpiry (level unit asid line : Nat) | privateSectorArrival (id : Nat)
  | mscWriteback (line : Nat) | atlbFill (id : Nat) | translationWalk (id : Nat) | peerLinkDown (module : Nat)
  | copyEngineStart (die : Nat) | copySourceArrival (id : Nat) | copyBeatDelivery (id : Nat)
  | claspRemoteDecrement (id : Nat) | copyComplete (id : Nat)
  | arrayFillStart (core bank : Nat) | matrixCommandComplete (core : Nat) | portCommandStart (core bank : Nat)
  | matrixSlotBoundary | knownAnswerInjection (core : Nat) (mismatch : Bool)
  | placementDecision (part : Nat) | teamStart (core team : Nat) | ringEntryAccept (part queue : Nat)
  | launchRunArrival (id : Nat) | childQueueEntry (id : Nat) | reservationTake (part queue : Nat)
  | placeStarved (part queue : Nat) | teamRetire (core team : Nat) | launchRetire (part handle : Nat)
  | noticeDelivery (part : Nat)
  | dpcmdResume (part core hslot : Nat) | dpcmdKill (part core hslot : Nat) | dpcmdSwapOut (part core hslot : Nat)
  | dpcmdPreemptHold (part handle : Nat) | dpcmdPreemptRequeue (part handle : Nat) | dpcmdRelease (part handle : Nat)
  | preemptSave (core team : Nat) | autoSwapOut (core team : Nat) | selfTestDrain (part : Nat)
  | scanSelfTest (part : Nat) (fail : Bool)
  | lqtailWrite (part queue : Nat) (v : W64) | lqctlWrite (part queue : Nat) (v : W64)
  | lqctxWrite (part queue : Nat) (v : W64) | dpcfgWrite (part : Nat) (v : W64) | dtbaseWrite (die : Nat) (v : W64)
  | gvswWrite (v : W64) | registerWrite (offset : Nat) (v : W64)
  | controlTick (domain : Nat) (temps : List Nat) (watts : Nat) | vfTransitionDone (domain : Nat)
  | quotaPeriodStart (asid : Nat) | quotaReport (cluster : Nat) | droopDetect (cluster : Nat)
  | sampleLatch (die : Nat) | cameoHoldTimeout (die : Nat)
  | errorDetected (die unit who addr : Nat) (at_ : List Nat) (corrected : Bool)
  | hostRead (x : HostAddr) (len : Nat) | hostWrite (x : HostAddr) (bytes : List Byte)
  | hostAtomic (op : HostOp) (x : HostAddr) (wide : Bool) (operand compare : W64) | hostLinkTimeout (id : Nat)
  | chainRead (peer seq clk addr len : Nat) | chainReadResponse (id : Response) (clk : Nat) (bytes : List Byte)
  | chainWrite (peer seq clk addr : Nat) (bytes : List Byte)
  | chainAtomic (peer seq clk : Nat) (op : PeerOp) (addr : Nat) (signed h2 wide : Bool) (operand compare : W64)
  | chainAtomicResponse (id : Response) (clk : Nat) (old : W64) | chainAck (peer ack : Nat) | chainNak (peer : Nat)
  | chainReduce (peer seq clk addr : Nat) (float : Bool) (elems : List W32) | chainRetransmitTimeout (peer : Nat)
  | peerLost (peer : Nat) | laneShed (port healthy : Nat) | laneRestore (port lanes : Nat)
  | linkDown (port : Nat) | linkUp (port lanes : Nat)
  | powerOnReset | bootVerify (ok : Bool) (measurements : List Byte) | powerOff
  | lkcmdReport (v : W64) | reportComplete | hostResponse (id : Nat) (bytes : List Byte)
  | portCommandComplete (core bank : Nat) | cameoReplay (die : Nat)
  deriving DecidableEq, Repr

end Sys2Proof
end

