-- ==== Sys2Proof/Machine/Legal.lean ====
section
/-! DEFINITION. Which field values each row of the table accepts (R29, R33-R37, R41, R42, R86, R131, R141,
R197, R205, R211 and the row rules of the other chapters), and which vector registers it names (R53). A
decoded word that breaks any of this raises ILLENC. -/

namespace Sys2Proof

/-- Width in bits of a type (R30). -/
def Ty.width : Ty → Nat
  | .i8 | .n8 | .m8 => 8
  | .i16 | .n16 | .f16 | .bf16 => 16
  | .i32 | .n32 | .f32 | .h2 | .bh2 => 32
  | .i64 | .n64 => 64
  | .i1 | .n1 => 1
  | .i2 | .n2 => 2
  | .i4 | .n4 => 4

/-- The two's-complement types (R62). -/
def Ty.signed : Ty → Bool
  | .i8 | .i16 | .i32 | .i64 | .i1 | .i2 | .i4 => true
  | _ => false

def Ty.is64 : Ty → Bool
  | .i64 | .n64 => true
  | _ => false

def Ty.isPair : Ty → Bool
  | .h2 | .bh2 => true
  | _ => false

def tysInt : List Ty := [.i8, .i16, .i32, .i64, .n8, .n16, .n32, .n64]
def tysWide : List Ty := [.i32, .n32, .i64, .n64]
def tysFlt : List Ty := [.f32, .f16, .bf16]
def tysPair : List Ty := [.h2, .bh2]
def tysSub : List Ty := [.i1, .i2, .i4, .n1, .n2, .n4]
def tysXch : List Ty := [.i32, .n32, .f32, .h2, .bh2]
def modesAll : List Mode := [.rne, .rtz, .rdn, .rup, .rna, .satRne, .satRtz]
def modesInt : List Mode := [.rne, .satRne]

/-- What a register field of a Format A row holds (the operand columns of R86 and R131). -/
inductive Opnd where
  | none | reg | pred | kreg | extra
  deriving DecidableEq, Repr

/-- A row of R86 or R131, or the field rule of another Format A instruction. `pd` to `pc` say which fields
are pairs in the strand form; `uForm` is whether u may be 0 and whether it may be 1. -/
structure RowA where
  d : Opnd := .none
  a : Opnd := .none
  b : Opnd := .none
  c : Opnd := .none
  tys : List Ty := [.i8]
  modes : List Mode := [.rne]
  fns : List Nat := [0]
  uForm : Bool × Bool := (true, true)
  long : Bool := false
  pd : Bool := false
  pa : Bool := false
  pb : Bool := false
  pc : Bool := false
  guarded : Bool := true

def even6 (r : BitVec 6) : Bool := r.toNat % 2 == 0

/-- The rule of R29 on one source field: register number, class bit, empty-action bit. -/
def legalSrc (u : Bool) (o : Opnd) (pair : Bool) (r : BitVec 6) (k e : Bool) : Bool :=
  match o with
  | .none => r == 0 && !k && !e
  | .pred => r.toNat < 16 && !k && !e
  | .kreg => r.toNat < 56 && k && !e
  | .extra => true
  | .reg => if u then !k else !(k && e) && (k || !pair || even6 r)

/-- The rule of R29 and R84 on the destination field. -/
def legalDst (u : Bool) (o : Opnd) (pair : Bool) (d : BitVec 6) : Bool :=
  match o with
  | .none => d == 0
  | .pred => d.toNat < 15
  | .kreg => d.toNat < 56
  | .extra => true
  | .reg => u || !pair || even6 d

/-- The literal of a long form: above the type's width it holds the extension of the value (R29). -/
def legalLit (ty : Ty) (l : W64) : Bool :=
  let w := ty.width
  if w = 64 then true
  else if ty.signed && l.getLsbD (w - 1) then l.toNat / 2 ^ w == 2 ^ (64 - w) - 1
  else l.toNat / 2 ^ w == 0

def guardFree (guard : BitVec 4) (gn : Bool) : Bool := guard == 15#4 && !gn

/-- R29 for one row. -/
def legalRow (r : RowA) (f : FmtA) : Bool :=
  (if f.u then r.uForm.2 else r.uForm.1)
  && legalDst f.u r.d r.pd f.d
  && legalSrc f.u r.a r.pa f.a f.ka f.ea
  && (match f.lit with
      | some l => r.long && f.b == 0 && !f.kb && !f.eb && legalLit f.ty l
      | none => legalSrc f.u r.b r.pb f.b f.kb f.eb)
  && legalSrc f.u r.c r.pc f.c f.kc f.ec
  && r.tys.contains f.ty && r.modes.contains f.mode && r.fns.contains f.fn.toNat
  && (r.guarded || guardFree f.guard f.gn)

/-- The type code of R30, or none when it is reserved. -/
def Ty.ofCode (n : Nat) : Option Ty :=
  match n with
  | 0x00 => some .i8 | 0x01 => some .i16 | 0x02 => some .i32 | 0x03 => some .i64
  | 0x04 => some .n8 | 0x05 => some .n16 | 0x06 => some .n32 | 0x07 => some .n64
  | 0x08 => some .f16 | 0x09 => some .bf16 | 0x0A => some .f32 | 0x0B => some .m8
  | 0x0C => some .h2 | 0x0D => some .bh2
  | 0x10 => some .i1 | 0x11 => some .i2 | 0x12 => some .i4
  | 0x14 => some .n1 | 0x15 => some .n2 | 0x16 => some .n4
  | _ => none

/-- The type's code (R30). -/
def Ty.code : Ty → Nat
  | .i8 => 0x00 | .i16 => 0x01 | .i32 => 0x02 | .i64 => 0x03
  | .n8 => 0x04 | .n16 => 0x05 | .n32 => 0x06 | .n64 => 0x07
  | .f16 => 0x08 | .bf16 => 0x09 | .f32 => 0x0A | .m8 => 0x0B | .h2 => 0x0C | .bh2 => 0x0D
  | .i1 => 0x10 | .i2 => 0x11 | .i4 => 0x12 | .n1 => 0x14 | .n2 => 0x15 | .n4 => 0x16

/-- CVT's source type stands in bits [35:31] of field c (R104). -/
def FmtA.stype (f : FmtA) : Option Ty := Ty.ofCode f.c.toNat

/-- The conversions of R73: pairs convert only to pairs, and sub-byte types do not convert. -/
def convertible (dst src : Ty) : Bool :=
  if dst.isPair || src.isPair then dst.isPair && src.isPair
  else !tysSub.contains dst && !tysSub.contains src

/-- The row of R86 for an arithmetic operation. -/
def aluRow (op : AluOp) (f : FmtA) : RowA :=
  let w := f.ty.is64
  let bin : RowA := { d := .reg, a := .reg, b := .reg, tys := tysInt, long := true, pd := w, pa := w, pb := w }
  let un : RowA := { d := .reg, a := .reg, tys := tysInt, pd := w, pa := w }
  let fbin : RowA := { d := .reg, a := .reg, b := .reg, tys := tysFlt ++ tysPair, modes := modesAll, long := true }
  let sf : RowA := { d := .reg, a := .reg, tys := tysFlt }
  match op with
  | .nop => { uForm := (true, false) }
  | .mov => { d := .reg, b := .reg, tys := tysInt ++ tysFlt ++ tysPair ++ [Ty.m8], long := true, pd := w, pb := w }
  | .add | .sub | .mul => { bin with modes := modesInt }
  | .mulh => { bin with tys := tysWide }
  | .mad => { bin with modes := modesInt, c := .reg, pc := w }
  | .addc | .subb => { bin with tys := tysWide, c := .pred }
  | .min | .max | .and | .or | .xor | .andn => bin
  | .abs | .neg =>
    { un with tys := tysInt ++ tysFlt ++ tysPair, modes := if tysInt.contains f.ty then modesInt else [.rne] }
  | .shl | .shr | .sar | .rot | .bfx => { bin with pb := false }
  | .bfi => { bin with pb := false, c := .reg, pc := w }
  | .popc | .clz | .ctz => { un with pd := false }
  | .brev => un
  | .fnsb => { bin with pb := false, pd := false, fns := [0, 1] }
  | .sel => { bin with tys := tysInt ++ tysFlt ++ tysPair ++ [Ty.m8], c := .pred }
  | .cmp => { bin with d := .pred, fns := [0, 1, 2, 3, 4, 5] }
  | .plog => { d := .pred, a := .pred, b := .pred, fns := List.range 16 }
  | .pmov =>
    match f.fn.toNat with
    | 0 => { d := .pred, a := .reg }
    | 1 => { d := .reg, a := .pred, fns := [1] }
    | 2 => { d := .reg, fns := [2] }
    | _ => { a := .reg, fns := [3] }
  | .fadd | .fsub | .fmul => fbin
  | .ffma => { fbin with c := .reg }
  | .fmin | .fmax => { fbin with modes := [.rne] }
  | .fcmp => { fbin with d := .pred, tys := tysFlt ++ [Ty.m8], modes := [.rne], fns := List.range 8 }
  | .fcls => { sf with tys := tysFlt ++ [Ty.m8] }
  | .rcp | .rsq | .ex2 | .lg2 | .sinp | .cosp | .tanh => sf
  | .sqrt => { sf with modes := modesAll }
  | .cvt => { d := .reg, a := .reg, c := .extra, tys := tysInt ++ tysFlt ++ tysPair ++ [Ty.m8], modes := modesAll,
              pd := w, pa := (match f.stype with | some t => t.is64 | none => false) }
  | .cvtef => { d := .reg, a := .reg, b := .reg, c := .extra, tys := [.f16, .bf16, .m8],
                modes := [.rne, .rtz, .rdn, .rup, .rna], uForm := (true, false) }
  | .qblk => { d := .reg, a := .reg, b := .kreg, tys := [.i8, .i4], uForm := (true, false) }
  | .pack =>
    if f.ty.isPair then
      { d := .reg, a := .reg, b := .reg, c := .reg, tys := tysPair, fns := [0, 1], long := true,
        modes := if f.fn == 1 then modesAll else [.rne] }
    else
      { d := .reg, a := .reg, b := .reg, c := .reg, tys := tysSub ++ [.i8, .n8, .i16, .n16], modes := modesInt,
        long := true }
  | .unpk =>
    { d := .reg, a := .reg, b := .reg, tys := tysSub ++ [.i8, .n8, .i16, .n16] ++ tysPair, long := true,
      fns := if f.ty.isPair then [0, 1] else [0] }
  | .dot4 => { d := .reg, a := .reg, b := .reg, c := .reg, tys := [.i8, .n8], modes := modesInt, fns := [0, 1],
               long := true }
  | .fdot2 => { d := .reg, a := .reg, b := .reg, c := .reg, tys := tysPair, modes := modesAll, long := true }
  | .blut =>
    let p := f.fn == 1
    { d := .reg, a := .reg, b := .reg, c := .reg, fns := [0, 1], pd := p, pa := p, pb := p, pc := p }

/-- What R86's notes, R104, R105 and R106 add to the row. -/
def aluExtra (op : AluOp) (f : FmtA) : Bool :=
  match op with
  | .cvt => !f.kc && !f.ec && (match f.stype with | some t => convertible f.ty t | none => false)
  | .cvtef => !f.kb && !f.eb && !f.kc && !f.ec && f.c == 0x0A#6 && f.b != f.d
  | .qblk => !f.ka
  | _ => true

def legalAlu (op : AluOp) (f : FmtA) : Bool := legalRow (aluRow op f) f && aluExtra op f

/-- Arc operations (R42, R118): no uniform or long form, no guard, and not one of the excluded opcodes. -/
def legalArc (o : ArcOp) : Bool :=
  legalAlu o.op o.f && !o.f.u && o.f.lit.isNone && guardFree o.f.guard o.f.gn
  && (match o.op with
      | .rcp | .rsq | .sqrt | .ex2 | .lg2 | .sinp | .cosp | .tanh | .cvtef | .qblk => false
      | .blut => true
      | _ => o.table == 0)

/-- The rows of R131. -/
def crossRow : Instr → Option RowA
  | .xchg _ => some { d := .reg, a := .reg, b := .reg, c := .pred, tys := tysXch, uForm := (true, false), long := true }
  | .xshf _ => some { d := .reg, a := .reg, b := .reg, c := .pred, tys := tysXch, fns := [0, 1, 2],
                      uForm := (true, false), long := true }
  | .bcst _ => some { d := .reg, a := .reg, b := .reg, c := .pred, tys := tysXch, uForm := (true, false), long := true }
  | .shfx _ => some { d := .reg, a := .reg, b := .reg, c := .pred, tys := tysXch, fns := List.range 8,
                      uForm := (true, false) }
  | .scan f =>
    let op := f.fn.toNat % 8
    some { d := .reg, a := .reg, tys := if op < 3 then tysInt ++ tysFlt else tysInt,
           fns := [0, 1, 2, 3, 4, 5, 8, 9, 10, 11, 12, 13], uForm := (true, false), pd := f.ty.is64, pa := f.ty.is64,
           modes := if op = 0 then (if tysInt.contains f.ty then modesInt else modesAll) else [.rne] }
  | .red f =>
    let op := f.fn.toNat
    some { d := .kreg, a := .reg, tys := if op < 3 then tysInt ++ tysFlt else tysInt, fns := [0, 1, 2, 3, 4, 5],
           uForm := (true, false), pa := f.ty.is64,
           modes := if op = 0 then (if tysInt.contains f.ty then modesInt else modesAll) else [.rne] }
  | .vote _ => some { d := .kreg, a := .pred, fns := [0, 1, 2], uForm := (true, false) }
  | .rbal _ => some { d := .reg, a := .reg, c := .kreg, tys := [.n32], uForm := (true, false), pd := true }
  | _ => none

/-- The field rules of the Format A rows of the control, system and synchronisation chapters. -/
def sysRow : Instr → Option RowA
  | .jmpi _ => some { a := .reg, pa := true }
  | .calli _ => some { a := .reg, pa := true, fns := [1, 2, 3, 4, 5, 6, 7] }
  | .ret _ | .rjn _ | .regroup _ | .iret _ => some { uForm := (true, false), guarded := false }
  | .exit _ => some { uForm := (true, false) }
  | .trap _ => some { fns := List.range 16 }
  | .bkpt _ => some { fns := List.range 16, uForm := (true, false), guarded := false }
  | .sigchk _ => some { tys := [.n32], long := true, uForm := (true, false), guarded := false }
  | .sigrst f => some { tys := if f.lit.isSome then [.n32] else [.i8], long := true, uForm := (true, false),
                        guarded := false }
  | .stepRel _ => some { a := .reg, b := .reg, uForm := (false, true) }
  | .stepAbs _ => some { a := .reg, b := .reg, fns := [1], uForm := (false, true) }
  | .stepEnd _ => some { fns := [2], uForm := (false, true) }
  | .launch _ => some { d := .reg, a := .reg, uForm := (true, false), pd := true, pa := true }
  | .trc _ => some { a := .reg, fns := List.range 16 }
  | .lclk _ => some { d := .kreg, uForm := (false, true) }
  | .lclkMrg _ => some { d := .kreg, a := .reg, fns := [1], uForm := (false, true) }
  | .haltbTeam _ => some { a := .reg, uForm := (false, true) }
  | .haltbTrel _ => some { a := .reg, fns := [1], uForm := (false, true) }
  | .haltbCtx _ => some { a := .reg, fns := [2], uForm := (false, true) }
  | .haltbCrel _ => some { a := .reg, fns := [3], uForm := (false, true) }
  | .inspKreg _ => some { d := .kreg, a := .reg, b := .reg, uForm := (false, true) }
  | .inspVreg _ => some { d := .kreg, a := .reg, b := .reg, fns := [1], uForm := (false, true) }
  | .inspGrp _ => some { d := .kreg, a := .reg, b := .reg, fns := [2], uForm := (false, true) }
  | .inspFrag _ => some { d := .kreg, a := .reg, b := .reg, fns := [3], uForm := (false, true) }
  | .inspLmem _ => some { d := .kreg, a := .reg, b := .reg, fns := [4], uForm := (false, true) }
  | .inspLfe _ => some { d := .kreg, a := .reg, b := .reg, fns := [5], uForm := (false, true) }
  | .inspBar _ => some { d := .kreg, a := .reg, b := .reg, fns := [6], uForm := (false, true) }
  | .inspQueue _ => some { d := .kreg, a := .reg, b := .reg, fns := [7], uForm := (false, true) }
  | .cmntInst _ => some { uForm := (false, true) }
  | .cmntIpkg _ => some { fns := [1], uForm := (false, true) }
  | .cmntWb _ => some { a := .reg, fns := [2], uForm := (false, true) }
  | .atlbiPage _ => some { a := .reg, b := .reg, uForm := (false, true) }
  | .atlbiAsid _ => some { a := .reg, fns := [1], uForm := (false, true) }
  | .atlbiAll _ => some { fns := [2], uForm := (false, true) }
  | .waitc _ _ => some { fns := [0, 1, 2], uForm := (false, true), guarded := false }
  | .bar _ | .bara _ => some { d := .kreg, fns := List.range 16, uForm := (false, true), guarded := false }
  | .barw _ => some { d := .kreg, a := .reg, fns := List.range 16, uForm := (false, true), guarded := false }
  | .qtry _ => some { d := .kreg, fns := List.range 8, uForm := (false, true), guarded := false }
  | _ => none

/-- Fields a row of `crossRow` or `sysRow` restricts further. -/
def sysExtra : Instr → Bool
  | .bcst f => f.lit.isSome || f.kb
  | .shfx f => !f.ka
  | .sigchk f => f.lit.isSome
  | .stepRel f | .stepAbs f => f.a.toNat < 56 && f.b.toNat < 56
  | .cmntWb f | .atlbiAsid f => f.a.toNat < 56 && !f.ea
  | .atlbiPage f => f.a.toNat < 56 && f.b.toNat < 56 && !f.ea && !f.eb
  | _ => true

/-- Bytes of a size code (R33); 0 for the reserved code. -/
def sizeBytes (s : BitVec 3) : Nat :=
  match s.toNat with
  | 0 => 1 | 1 => 2 | 2 => 4 | 3 => 8 | 4 => 16 | 5 => 32 | 6 => 256 | _ => 0

/-- A row of R141, R197, R205, R211 or R219. `dlen` gives the v registers and the k registers that the row
uses from d onward, with the alignment of d in each form. -/
structure RowM where
  sizes : List Nat
  spaces : List Space
  orders : List Nat
  /-- the orders with which an observer mask is accepted -/
  obsOrders : List Nat := []
  hints : Bool := false
  uForm : Bool × Bool := (true, true)
  usesIndex : Bool := true
  usesEd : Bool := false
  vlen : Nat := 0
  valign : Nat := 1
  klen : Nat := 0
  kalign : Nat := 1
  prios : List Nat := [0]
  guarded : Bool := true

/-- The row of a Format M instruction. -/
def rowM : Instr → Option RowM
  | .ld f =>
    let n := sizeBytes f.size
    some { sizes := if f.space = .lane then [0, 1, 2, 3] else [0, 1, 2, 3, 4, 5], spaces := [.global, .local, .lane, .gang],
           orders := [0, 1], hints := f.space = .global || f.space = .lane, vlen := max 1 (n / 4), valign := max 1 (n / 4),
           klen := max 1 ((n + 7) / 8), kalign := max 1 ((n + 7) / 8) }
  | .st f =>
    let n := sizeBytes f.size
    some { sizes := if f.space = .lane then [0, 1, 2, 3] else [0, 1, 2, 3, 4, 5], spaces := [.global, .local, .lane, .gang],
           orders := [0, 2], obsOrders := [2], hints := f.space = .global || f.space = .lane, usesEd := true,
           vlen := max 1 (n / 4), valign := max 1 (n / 4), klen := max 1 ((n + 7) / 8), kalign := max 1 ((n + 7) / 8) }
  | .ldline f => some { sizes := [6], spaces := [.global, .local, .gang], orders := [0, 1], hints := f.space = .global,
                        uForm := (true, false), vlen := 2, valign := 2 }
  | .stline f => some { sizes := [6], spaces := [.global, .local, .gang], orders := [0, 2], obsOrders := [2],
                        hints := f.space = .global, uForm := (true, false), usesEd := true, vlen := 2, valign := 2 }
  | .ldf f =>
    let n := sizeBytes f.size
    some { sizes := [0, 1, 2, 3, 4, 5], spaces := [.local, .gang], orders := [0, 1], prios := [0, 1],
           vlen := max 1 (n / 4), valign := max 1 (n / 4), klen := max 1 ((n + 7) / 8), kalign := max 1 ((n + 7) / 8) }
  | .stf f =>
    let n := sizeBytes f.size
    some { sizes := [0, 1, 2, 3, 4, 5], spaces := [.local, .gang], orders := [0, 2], obsOrders := [2], usesEd := true,
           vlen := max 1 (n / 4), valign := max 1 (n / 4), klen := max 1 ((n + 7) / 8), kalign := max 1 ((n + 7) / 8) }
  | .pref _ => some { sizes := [6], spaces := [.global], orders := [0], hints := true }
  | .tagst _ => some { sizes := [5], spaces := [.global], orders := [0] }
  | .tagld _ => some { sizes := [5], spaces := [.global], orders := [0], vlen := 1, klen := 1 }
  | .aadd f | .aand f | .aor f | .axor f | .aswp f | .ainc f =>
    let n := sizeBytes f.size / 4
    some { sizes := [2, 3], spaces := [.global, .local, .gang], orders := [0, 1, 2, 3], obsOrders := [2, 3],
           usesEd := true, vlen := n, valign := n, klen := 1, prios := [0, 1] }
  | .amin f | .amax f =>
    let n := sizeBytes f.size / 4
    some { sizes := [2, 3], spaces := [.global, .local, .gang], orders := [0, 1, 2, 3], obsOrders := [2, 3],
           usesEd := true, vlen := n, valign := n, klen := 1, prios := [0, 1, 2, 3] }
  | .afadd _ => some { sizes := [2], spaces := [.global, .local, .gang], orders := [0, 1, 2, 3], obsOrders := [2, 3],
                       usesEd := true, vlen := 1, klen := 1, prios := [0, 1, 2, 3] }
  | .acas f =>
    let n := sizeBytes f.size / 4
    some { sizes := [2, 3], spaces := [.global, .local, .gang], orders := [0, 1, 2, 3], obsOrders := [2, 3],
           usesEd := true, vlen := 2 * n, valign := 2 * n, klen := 2, prios := [0, 1] }
  | .dqpush _ => some { sizes := [3], spaces := [.global], orders := [0, 1, 2, 3], obsOrders := [2, 3],
                        usesEd := true, usesIndex := false, vlen := 3, valign := 2, klen := 2 }
  | .dqpop _ | .dqsteal _ => some { sizes := [3], spaces := [.global], orders := [0, 1, 2, 3], obsOrders := [2, 3],
                                    usesIndex := false, vlen := 3, valign := 2, klen := 2 }
  | .clinit _ => some { sizes := [4], spaces := [.local, .gang], orders := [0], usesEd := true, usesIndex := false,
                        vlen := 1, klen := 1 }
  | .clarr _ => some { sizes := [4], spaces := [.local, .gang], orders := [0, 2], obsOrders := [2], usesEd := true,
                       usesIndex := false, vlen := 1, klen := 1 }
  | .clwait _ | .cltry _ => some { sizes := [4], spaces := [.local, .gang], orders := [0, 1], usesEd := true,
                                   usesIndex := false, vlen := 1, klen := 1 }
  | _ => none

/-- The rules of R33, R137, R141 and R197 for one row. -/
def legalM (r : RowM) (f : FmtM) : Bool :=
  (if f.u then r.uForm.2 && !f.kbase && f.base.toNat < 56 && f.index.toNat < 56
   else r.uForm.1 && (!f.kbase || f.base.toNat < 56)
        && (f.kbase || f.space != .global || even6 f.base))
  && r.sizes.contains f.size.toNat && r.spaces.contains f.space && r.orders.contains f.order.toNat
  && (f.obs == 0 || r.obsOrders.contains f.order.toNat)
  && (if r.hints then !(f.na && f.prio != 0) else !f.na && r.prios.contains f.prio.toNat)
  && (r.usesIndex || f.index == 0) && (r.usesEd || !f.ed)
  && (if f.u then (if r.klen = 0 then f.d == 0 else f.d.toNat % r.kalign == 0 && f.d.toNat + r.klen ≤ 56)
      else (if r.vlen = 0 then f.d == 0 else f.d.toNat % r.valign == 0))
  && (r.guarded || guardFree f.guard f.gn)

/-- The rules of R197 on the signed and h2 forms, and of R219 on FENCE. -/
def legalFence (f : FmtM) : Bool :=
  f.u && f.d == 0 && f.base == 0 && f.index == 0 && !f.kbase && !f.ed && f.size == 0 && f.space = .global
  && !f.na && f.prio == 0 && f.offset == 0 && guardFree f.guard f.gn
  && ((f.order == 1#2 && f.obs == 0) || (f.order == 2#2 && f.obs != 0) || (f.order == 3#2 && f.obs != 0))

/-- BR, BRU and CALL (R34). -/
def legalB : Instr → Option Bool
  | .br f => some (f.kind == 0)
  | .bru f => some (f.kind.toNat ≤ 3 && (f.kind != 0 || guardFree f.guard f.gn))
  | .call f => some (f.kind != 0)
  | _ => none

/-- Special registers of 64 bits (R111). -/
def SReg.is64 : SReg → Bool
  | .nteam | .flags | .gt | .lclk | .pkr | .ebase | .fpc | .faddr | .fword | .step | .carat | .quota => true
  | _ => false

/-- Special registers that MTS may write (R111). -/
def SReg.writable : SReg → Bool
  | .exm | .flags | .pkr | .fpc => true
  | _ => false

/-- MFS and MTS (R35). A strand form of MTS with kr = 1, and every uniform form, names a k register. -/
def legalS (mts : Bool) (f : FmtS) : Bool :=
  (!mts || f.sreg.writable) && (mts || (!f.kr && !f.er)) && !(f.u && f.kr) && !(!f.u && f.kr && f.er)
  && (f.u || f.kr || !f.sreg.is64 || even6 f.reg)

/-- The fields of the engine commands (R37). -/
def legalE : Instr → Option Bool
  | .cpy f | .cpyp f | .cpys f =>
    some (f.zd == 0 && f.zs == 0 && f.pam1 == 0 && f.pbm1 == 0 && f.spec == 0 && f.vb == 0 && f.d.toNat + 8 ≤ 56)
  | .cpyg f =>
    some (f.zd == 0 && f.zs == 0 && f.pam1 == 0 && f.pbm1 == 0 && f.spec == 0 && f.vb == 0 && f.d.toNat + 10 ≤ 56)
  | .cpyr f =>
    some (f.zd == 0 && f.zs == 0 && f.pam1 == 0 && f.pbm1 == 0 && (f.spec == 0x02#5 || f.spec == 0x0A#5)
      && f.vb == 0 && f.d.toNat + 8 ≤ 56)
  | .mma f => some (f.zs == 0 && f.spec.toNat % 8 == 0 && f.vb == 0 && f.d.toNat + 2 ≤ 56)
  | .mmas f => some (f.zs == 0 && f.spec.toNat % 8 == 0 && f.vb == 0 && f.d.toNat + 3 ≤ 56)
  | .msca f => some (f.zs != f.zd && f.pam1 == 0 && f.pbm1 == 0 && f.spec == 0 && f.vb == 0 && f.d.toNat + 1 ≤ 56)
  | .acz f => some (f.zs == 0 && f.pam1 == 0 && f.pbm1 == 0 && (f.spec == 0x02#5 || f.spec == 0x0A#5) && f.vb == 0
      && f.d == 0)
  | .acrd f | .acwr f => some (f.zs == 0 && f.pam1 == 0 && f.pbm1 == 0 && f.spec == 0 && f.d.toNat + 1 ≤ 56)
  | _ => none

/-- Number of present nodes of a tree. -/
def Tree.nodes (t : Tree) : Nat := (t.present.filter id).length

def Tree.has (t : Tree) (i : Nat) : Bool := t.present.getD i false

def Tree.count (t : Tree) (j : Nat) : Nat := (t.counts.getD j 0).toNat

/-- Words of a tree (R25): 1 + N + ⌈L / 2⌉ + A. -/
def Tree.len (t : Tree) : Nat := 1 + t.tests.length + (t.leaves.length + 1) / 2 + t.ops.length

/-- The header rules of R41, cases 2 and 3. -/
def Tree.headerOk (t : Tree) : Bool :=
  t.present.length == 7 && t.counts.length == 14
  && (List.range 7).all (fun i => i == 0 || !t.has i || t.has ((i - 1) / 2))
  && (List.range 7).all (fun i => t.has i || (t.count (2 * i) == 0 && t.count (2 * i + 1) == 0))
  && ((t.counts.map BitVec.toNat).sum ≤ 12)

def Cond.okFor (c : Cond) : TestKind → Bool
  | .regReg | .regImm => match c with | .eq | .ne | .lt | .le | .gt | .ge => true | _ => false
  | .bit => match c with | .bs | .bc => true | _ => false
  | .pred => match c with | .pt | .pf => true | _ => false

/-- imm32 above the type's width holds the extension of the value (R41, case 5). -/
def immOk (ty : Ty) (imm : W32) : Bool :=
  let w := ty.width
  if 32 ≤ w then true
  else if ty.signed && imm.getLsbD (w - 1) then imm.toNat / 2 ^ w == 2 ^ (32 - w) - 1
  else imm.toNat / 2 ^ w == 0

/-- R41, cases 4 to 6, for one test word. The single register b of a bit test has no parity rule (R119, log entry 43). -/
def legalTest (n : TestNode) : Bool :=
  n.cond.okFor n.kind
  && !(n.ka && n.ea) && !(n.kb && n.eb)
  && match n.kind with
     | .regReg => !n.bimm && n.imm == 0 && (tysInt ++ tysFlt ++ [Ty.m8]).contains n.ty
         && (!n.ty.is64 || ((n.ka || even6 n.a) && (n.kb || even6 n.b)))
     | .regImm => n.bimm && n.b == 0 && !n.kb && !n.eb && immOk n.ty n.imm
         && (tysInt ++ tysFlt ++ [Ty.m8]).contains n.ty && (!n.ty.is64 || n.ka || even6 n.a)
     | .bit => (if n.bimm then n.b == 0 && !n.kb && !n.eb && n.imm.toNat < n.ty.width else n.imm == 0)
         && tysInt.contains n.ty && (!n.ty.is64 || n.ka || even6 n.a)
     | .pred => n.a.toNat < 16 && n.b == 0 && !n.ka && !n.kb && !n.ea && !n.eb && !n.bimm && n.imm == 0

/-- R41, cases 7 and 8, for one leaf of a tree of `len` words. -/
def legalLeaf (len : Nat) (l : Leaf) : Bool :=
  match l.kind with
  | .branch => !(1 ≤ l.offset.toNat && l.offset.toNat ≤ len - 1)
  | _ => l.offset == 0

/-- A well-formed tree (R41, R42, R118). -/
def legalTree (t : Tree) : Bool :=
  t.headerOk && t.tests.length == t.nodes && t.leaves.length == t.nodes + 1
  && t.ops.length == (t.counts.map BitVec.toNat).sum
  && t.tests.all legalTest && t.leaves.all (legalLeaf t.len) && t.ops.all legalArc

/-- The arithmetic operation an instruction row encodes, with its fields and table byte. -/
def Instr.alu? : Instr → Option (AluOp × FmtA × Byte)
  | .nop f => some (.nop, f, 0) | .mov f => some (.mov, f, 0) | .add f => some (.add, f, 0)
  | .sub f => some (.sub, f, 0) | .mul f => some (.mul, f, 0) | .mulh f => some (.mulh, f, 0)
  | .mad f => some (.mad, f, 0) | .addc f => some (.addc, f, 0) | .subb f => some (.subb, f, 0)
  | .min f => some (.min, f, 0) | .max f => some (.max, f, 0) | .abs f => some (.abs, f, 0)
  | .neg f => some (.neg, f, 0) | .and f => some (.and, f, 0) | .or f => some (.or, f, 0)
  | .xor f => some (.xor, f, 0) | .andn f => some (.andn, f, 0) | .shl f => some (.shl, f, 0)
  | .shr f => some (.shr, f, 0) | .sar f => some (.sar, f, 0) | .rot f => some (.rot, f, 0)
  | .bfx f => some (.bfx, f, 0) | .bfi f => some (.bfi, f, 0) | .popc f => some (.popc, f, 0)
  | .clz f => some (.clz, f, 0) | .ctz f => some (.ctz, f, 0) | .fnsb f => some (.fnsb, f, 0)
  | .brev f => some (.brev, f, 0) | .sel f => some (.sel, f, 0) | .cmp f => some (.cmp, f, 0)
  | .plog f => some (.plog, f, 0) | .pmov f => some (.pmov, f, 0) | .fadd f => some (.fadd, f, 0)
  | .fsub f => some (.fsub, f, 0) | .fmul f => some (.fmul, f, 0) | .ffma f => some (.ffma, f, 0)
  | .fmin f => some (.fmin, f, 0) | .fmax f => some (.fmax, f, 0) | .fcmp f => some (.fcmp, f, 0)
  | .fcls f => some (.fcls, f, 0) | .rcp f => some (.rcp, f, 0) | .rsq f => some (.rsq, f, 0)
  | .sqrt f => some (.sqrt, f, 0) | .ex2 f => some (.ex2, f, 0) | .lg2 f => some (.lg2, f, 0)
  | .sinp f => some (.sinp, f, 0) | .cosp f => some (.cosp, f, 0) | .tanh f => some (.tanh, f, 0)
  | .cvt f => some (.cvt, f, 0) | .cvtef f => some (.cvtef, f, 0) | .qblk f => some (.qblk, f, 0)
  | .pack f => some (.pack, f, 0) | .unpk f => some (.unpk, f, 0) | .dot4 f => some (.dot4, f, 0)
  | .fdot2 f => some (.fdot2, f, 0) | .blut f t => some (.blut, f, t)
  | _ => none

/-- Whether an instruction's fields are among those its description accepts. Events carry no fields of an
encoding and are accepted. -/
def legal (i : Instr) : Bool :=
  match i.alu? with
  | some (op, f, _) => legalAlu op f
  | none =>
    match i with
    | .mfs f => legalS false f
    | .mts f => legalS true f
    | .tree t => legalTree t
    | .fence f => legalFence f
    | .xchg f | .xshf f | .scan f | .red f | .vote f | .bcst f | .rbal f | .shfx f
    | .jmpi f | .calli f | .ret f | .rjn f | .regroup f | .exit f | .trap f | .iret f | .bkpt f | .sigchk f
    | .sigrst f | .stepRel f | .stepAbs f | .stepEnd f | .launch f | .trc f | .lclk f | .lclkMrg f
    | .haltbTeam f | .haltbTrel f | .haltbCtx f | .haltbCrel f | .inspKreg f | .inspVreg f | .inspGrp f
    | .inspFrag f | .inspLmem f | .inspLfe f | .inspBar f | .inspQueue f | .cmntInst f | .cmntIpkg f | .cmntWb f
    | .atlbiPage f | .atlbiAsid f | .atlbiAll f | .waitc f _ | .bar f | .bara f | .barw f | .qtry f =>
      (match crossRow i with
       | some r => legalRow r f
       | none => match sysRow i with | some r => legalRow r f | none => false) && sysExtra i
    | .ld f | .st f | .ldline f | .stline f | .ldf f | .stf f | .pref f | .tagst f | .tagld f
    | .aadd f | .amin f | .amax f | .aand f | .aor f | .axor f | .aswp f | .acas f | .afadd f | .ainc f
    | .dqpush f | .dqpop f | .dqsteal f | .clinit f | .clarr f | .clwait f | .cltry f =>
      (match rowM i with | some r => legalM r f | none => false)
    | _ =>
      match legalB i with
      | some b => b
      | none => match legalE i with | some b => b | none => true

/-- The highest v register a source field names, plus 1; 0 when it names none. -/
def srcTop (u : Bool) (o : Opnd) (pair : Bool) (r : BitVec 6) (k : Bool) : Nat :=
  match o with
  | .reg => if u || k then 0 else r.toNat + (if pair then 2 else 1)
  | _ => 0

def rowTop (r : RowA) (f : FmtA) : Nat :=
  Nat.max (srcTop f.u r.d r.pd f.d false)
    (Nat.max (srcTop f.u r.a r.pa f.a f.ka)
      (Nat.max (if f.lit.isSome then 0 else srcTop f.u r.b r.pb f.b f.kb) (srcTop f.u r.c r.pc f.c f.kc)))

/-- The highest v register an arithmetic operation names, plus 1 (R53, R106). -/
def aluTop (op : AluOp) (f : FmtA) : Nat :=
  if op = .qblk then Nat.max (f.a.toNat + 4) (rowTop (aluRow op f) f) else rowTop (aluRow op f) f

def testTop (n : TestNode) : Nat :=
  let wa := if n.ty.is64 && n.kind != .pred then 2 else 1
  let wb := if n.ty.is64 && n.kind = .regReg then 2 else 1
  Nat.max (if n.ka || n.kind = .pred then 0 else n.a.toNat + wa)
    (if n.kb || n.bimm || n.kind = .pred then 0 else n.b.toNat + wb)

/-- The highest v register an instruction names, plus 1 (R53). REGION names those of vlive (R166). -/
def Instr.vTop (i : Instr) : Nat :=
  match i.alu? with
  | some (op, f, _) => aluTop op f
  | none =>
    match i with
    | .mfs f | .mts f => if f.u || f.kr then 0 else f.reg.toNat + (if f.sreg.is64 then 2 else 1)
    | .tree t => Nat.max ((t.tests.map testTop).foldl Nat.max 0) ((t.ops.map (fun o => aluTop o.op o.f)).foldl Nat.max 0)
    | .region _ v => ((List.range 64).filter v.getLsbD).foldl (fun m i => Nat.max m (i + 1)) 0
    | .shfx f => Nat.max (f.a.toNat + f.fn.toNat + 1) (match crossRow i with | some r => rowTop r f | none => 0)
    | .acrd f | .acwr f => f.vb.toNat + 1
    | .xchg f | .xshf f | .scan f | .red f | .vote f | .bcst f | .rbal f
    | .jmpi f | .calli f | .launch f | .trc f =>
      (match crossRow i with
       | some r => rowTop r f
       | none => match sysRow i with | some r => rowTop r f | none => 0)
    | .ld f | .st f | .ldline f | .stline f | .ldf f | .stf f | .pref f | .tagst f | .tagld f
    | .aadd f | .amin f | .amax f | .aand f | .aor f | .axor f | .aswp f | .acas f | .afadd f | .ainc f
    | .dqpush f | .dqpop f | .dqsteal f | .clinit f | .clarr f | .clwait f | .cltry f =>
      (match rowM i with
       | some r =>
         if f.u then 0
         else Nat.max (if r.vlen = 0 then 0 else f.d.toNat + r.vlen)
           (Nat.max (if f.kbase then 0 else f.base.toNat + (if f.space = .global then 2 else 1))
             (if r.usesIndex then f.index.toNat + 1 else 0))
       | none => 0)
    | _ => 0

/-- R53: every v register an instruction names lies below the window size. -/
def windowOk (w : Nat) (i : Instr) : Bool := i.vTop ≤ w

/-- Words of an instruction (R25). -/
def Instr.len : Instr → Nat
  | .tree t => t.len
  | .region _ _ => 2
  | .sigchk f | .sigrst f | .xchg f | .xshf f | .bcst f => if f.lit.isSome then 2 else 1
  | i => match i.alu? with
    | some (_, f, _) => if f.lit.isSome then 2 else 1
    | none => 1

/-- The rows that are events of the engines, with no encoding. -/
def Instr.isEvent : Instr → Bool
  | .rjnRelease .. | .regroupRelease .. | .registerFill .. | .issueCycle .. | .urgentPromotion ..
  | .spillRotation .. | .handlerEntry .. | .homeFetch .. | .postedArrival .. | .storeVisible ..
  | .atomicArrival .. | .dequeAtHome .. | .leaseExpiry .. | .privateSectorArrival .. | .mscWriteback ..
  | .atlbFill .. | .translationWalk .. | .peerLinkDown .. | .copyEngineStart .. | .copySourceArrival ..
  | .copyBeatDelivery .. | .claspRemoteDecrement .. | .copyComplete .. | .arrayFillStart ..
  | .matrixCommandComplete .. | .portCommandStart .. | .matrixSlotBoundary | .knownAnswerInjection ..
  | .placementDecision .. | .teamStart .. | .ringEntryAccept .. | .launchRunArrival .. | .childQueueEntry ..
  | .reservationTake .. | .placeStarved .. | .teamRetire .. | .launchRetire .. | .noticeDelivery ..
  | .dpcmdResume .. | .dpcmdKill .. | .dpcmdSwapOut .. | .dpcmdPreemptHold .. | .dpcmdPreemptRequeue ..
  | .dpcmdRelease .. | .preemptSave .. | .autoSwapOut .. | .selfTestDrain .. | .scanSelfTest ..
  | .lqtailWrite .. | .lqctlWrite .. | .lqctxWrite .. | .dpcfgWrite .. | .dtbaseWrite .. | .gvswWrite ..
  | .registerWrite .. | .controlTick .. | .vfTransitionDone .. | .quotaPeriodStart .. | .quotaReport ..
  | .droopDetect .. | .sampleLatch .. | .cameoHoldTimeout .. | .errorDetected .. | .hostRead .. | .hostWrite ..
  | .hostAtomic .. | .hostLinkTimeout .. | .chainRead .. | .chainReadResponse .. | .chainWrite ..
  | .chainAtomic .. | .chainAtomicResponse .. | .chainAck .. | .chainNak .. | .chainReduce ..
  | .chainRetransmitTimeout .. | .peerLost .. | .laneShed .. | .laneRestore .. | .linkDown .. | .linkUp ..
  | .powerOnReset | .bootVerify .. | .powerOff | .lkcmdReport .. | .reportComplete | .hostResponse ..
  | .portCommandComplete .. | .cameoReplay .. => true
  | _ => false

end Sys2Proof
end

