-- ==== Sys2Proof/Machine/Num.lean ====
section
/-! DEFINITION. Number formats and exact arithmetic (R62-R74, R77): integers of every width, binary floating
point as exact fractions rounded once, M8, the sticky flags, and conversion between the types. -/

namespace Sys2Proof.Num

/-- The sticky flags in the places of %flags (R69): nv, dz, of, uf, sat from bit 0. -/
abbrev Flags := BitVec 5

def nv : Flags := 1#5
def dz : Flags := 2#5
def ov : Flags := 4#5
def uf : Flags := 8#5
def sat : Flags := 16#5

def flagIf (c : Bool) (f : Flags) : Flags := if c then f else 0#5

/-- Largest and smallest value of an integer type (R62). -/
def intMax (t : Ty) : Int := if t.signed then 2 ^ (t.width - 1) - 1 else 2 ^ t.width - 1
def intMin (t : Ty) : Int := if t.signed then -(2 ^ (t.width - 1)) else 0

/-- The value an integer type gives the low bits of a register (R62). -/
def intOf (t : Ty) (x : W64) : Int :=
  let n : Nat := x.toNat % 2 ^ t.width
  if t.signed && 2 ^ (t.width - 1) ≤ n then (n : Int) - 2 ^ t.width else n

/-- The register image of an integer: wrapped to the width, then extended to 64 bits (R62, R64). -/
def intImage (t : Ty) (x : Int) : W64 :=
  let n : Nat := (x % (2 ^ t.width : Nat)).toNat
  if t.signed && 2 ^ (t.width - 1) ≤ n then .ofInt 64 ((n : Int) - 2 ^ t.width) else .ofNat 64 n

/-- Clamp to the range of a type (R64). -/
def intClamp (t : Ty) (x : Int) : Int :=
  if x < intMin t then intMin t else if intMax t < x then intMax t else x

def Mode.saturates (m : Mode) : Bool := m == .satRne || m == .satRtz

/-- Delivery of an exact integer result (R64, R83). -/
def deliverInt (t : Ty) (m : Mode) (x : Int) : W64 × Flags :=
  if Mode.saturates m then (intImage t (intClamp t x), flagIf (intClamp t x != x) sat) else (intImage t x, 0)

/-- Rounding modes without the saturation (R31). -/
inductive Rnd where
  | ne | tz | dn | up | na
  deriving DecidableEq, Repr

def Mode.rnd : Mode → Rnd
  | .rne | .satRne => .ne | .rtz | .satRtz => .tz | .rdn => .dn | .rup => .up | .rna => .na

/-- The non-negative fraction n / d rounded to a natural number, as the magnitude of a number of the given
sign. -/
def roundNat (r : Rnd) (neg : Bool) (n d : Nat) : Nat :=
  let q := n / d
  let rem := n % d
  if rem = 0 then q
  else match r with
    | .tz => q
    | .dn => if neg then q + 1 else q
    | .up => if neg then q else q + 1
    | .na => if d ≤ 2 * rem then q + 1 else q
    | .ne => if d < 2 * rem || (d = 2 * rem && q % 2 = 1) then q + 1 else q

/-- An exact value: NaN, an infinity, or a signed fraction whose zero keeps its sign. -/
inductive FVal where
  | nan
  | inf (neg : Bool)
  | fin (neg : Bool) (n d : Nat)
  deriving DecidableEq, Repr

/-- Parameters of a binary format (R65): significand bits and exponent bits. -/
structure FloatFmt where
  p : Nat
  ebits : Nat
  deriving DecidableEq, Repr

def FloatFmt.bias (f : FloatFmt) : Nat := 2 ^ (f.ebits - 1) - 1
def FloatFmt.emin (f : FloatFmt) : Int := 1 - (f.bias : Int)
def FloatFmt.infCode (f : FloatFmt) : Nat := (2 ^ f.ebits - 1) * 2 ^ (f.p - 1)
def FloatFmt.maxCode (f : FloatFmt) : Nat := f.infCode - 1
def FloatFmt.nanCode (f : FloatFmt) : Nat := f.infCode + 2 ^ (f.p - 2)
def FloatFmt.signBit (f : FloatFmt) : Nat := 2 ^ (f.p - 1 + f.ebits)
def FloatFmt.signed (f : FloatFmt) (neg : Bool) (c : Nat) : Nat := if neg then f.signBit + c else c

def f32 : FloatFmt := ⟨24, 8⟩
def f16 : FloatFmt := ⟨11, 5⟩
def bf16 : FloatFmt := ⟨8, 8⟩

/-- The binary format of a type; pairs answer the format of their elements. -/
def fmt (t : Ty) : FloatFmt :=
  match t with
  | .f16 | .h2 => f16
  | .bf16 | .bh2 => bf16
  | _ => f32

/-- 2 ^ e as a fraction. -/
def pow2 (e : Int) : Nat × Nat := if 0 ≤ e then (2 ^ e.toNat, 1) else (1, 2 ^ (-e).toNat)

/-- m × 2 ^ e as an exact value. -/
def scaled (neg : Bool) (m : Nat) (e : Int) : FVal :=
  if 0 ≤ e then .fin neg (m * 2 ^ e.toNat) 1 else .fin neg m (2 ^ (-e).toNat)

/-- ⌊log2 (n / d)⌋ for positive n and d. -/
def floorLog2 (n d : Nat) : Int :=
  let e : Int := (n.log2 : Int) - (d.log2 : Int)
  let (a, b) := pow2 e
  if n * b < a * d then e - 1 else e

/-- The value of a code (R65). -/
def decodeBin (f : FloatFmt) (code : Nat) : FVal :=
  let neg := f.signBit ≤ code % (2 * f.signBit)
  let mag := code % f.signBit
  let frac := mag % 2 ^ (f.p - 1)
  let e := mag / 2 ^ (f.p - 1)
  if e = 2 ^ f.ebits - 1 then (if frac = 0 then .inf neg else .nan)
  else if e = 0 then scaled neg frac (f.emin - ((f.p : Int) - 1))
  else scaled neg (2 ^ (f.p - 1) + frac) ((e : Int) - (f.bias : Int) - ((f.p : Int) - 1))

/-- n / d rounded with `p` significand bits and the quantum's exponent `q`: an integer multiple of 2 ^ q. -/
def roundQ (r : Rnd) (neg : Bool) (n d : Nat) (q : Int) : Nat :=
  let (a, b) := pow2 q
  roundNat r neg (n * b) (d * a)

/-- A finite non-zero n / d rounded into a binary format (R66-R68). -/
def encodeFin (f : FloatFmt) (m : Mode) (neg : Bool) (n d : Nat) : Nat × Flags :=
  let r := Mode.rnd m
  let e := floorLog2 n d
  let qu := e - ((f.p : Int) - 1)
  let mu := roundQ r neg n d qu
  let eu := if mu = 2 ^ f.p then e + 1 else e
  if (f.bias : Int) < eu then
    if Mode.saturates m then (f.signed neg f.maxCode, sat)
    else
      let big := match r with
        | .ne | .na => true
        | .tz => false
        | .dn => neg
        | .up => !neg
      (f.signed neg (if big then f.infCode else f.maxCode), ov)
  else
    let e' := if e < f.emin then f.emin else e
    let q := e' - ((f.p : Int) - 1)
    let k := roundQ r neg n d q
    let code := (e' - f.emin).toNat * 2 ^ (f.p - 1) + k
    let (a, b) := pow2 q
    let inexact := n * b != k * (d * a)
    (f.signed neg code, flagIf (eu < f.emin && inexact) uf)

/-- Delivery of an exact value into a binary format (R66, R67). -/
def encodeBin (f : FloatFmt) (m : Mode) (v : FVal) : Nat × Flags :=
  match v with
  | .nan => (f.nanCode, 0)
  | .inf neg => if Mode.saturates m then (f.signed neg f.maxCode, sat) else (f.signed neg f.infCode, 0)
  | .fin neg n d => if n = 0 then (f.signed neg 0, 0) else encodeFin f m neg n d

/-- The magnitude of an M8 code below 0x7F, in units of 2 ^ -11 (R70). -/
def m8Units (code : Nat) : Nat :=
  let d := code / 64 % 2
  let rest := code % 64
  if d = 0 && rest = 0 then 0
  else
    let look := if d = 1 then 63 - rest else rest
    let z := 5 - look.log2
    let m := 5 - z
    let x := if m = 0 then (if d = 1 then 0 else 1) else rest / 2 ^ (m - 1) % 2
    let e : Int := if d = 1 then (2 * z + x : Nat) else -((2 * z + 2 : Nat) - (x : Int))
    let fb := m - 1
    let f := rest % 2 ^ fb
    let s := e + 11
    (2 ^ fb + f) * 2 ^ s.toNat / 2 ^ fb

def decodeM8 (code : Nat) : FVal :=
  let c := code % 128
  let neg := 128 ≤ code % 256
  if c = 0x7F then .nan else .fin neg (m8Units c) 2048

/-- The codes at or below a magnitude of n / d units: the largest is their number. -/
def m8Floor (n d : Nat) : Nat := ((List.range 0x7E).filter (fun k => m8Units (k + 1) * d ≤ n)).length

/-- Conversion into M8 (R72). -/
def encodeM8 (m : Mode) (v : FVal) : Nat × Flags :=
  match v with
  | .nan => (0x7F, 0)
  | .inf neg => ((if neg then 0xFE else 0x7E), ov)
  | .fin neg n d =>
    let sign := if neg then 0x80 else 0
    if n = 0 then (sign, 0)
    else if 1024 * d < n then (sign + 0x7E, ov)
    else
      let nu := n * 2048
      let c := m8Floor nu d
      let lo := m8Units c
      let flags := flagIf (nu < d) uf
      if lo * d = nu then (sign + c, flags)
      else
        let hi := m8Units (c + 1)
        let below := nu - lo * d
        let above := hi * d - nu
        let up := match Mode.rnd m with
          | .tz => false
          | .dn => neg
          | .up => !neg
          | .na => above ≤ below
          | .ne => above < below || (above = below && c % 2 = 1)
        (sign + (if up then c + 1 else c), flags)

/-- The exact value of a floating or M8 register (the low bits of the type are read). -/
def fval (t : Ty) (x : Nat) : FVal :=
  match t with
  | .m8 => decodeM8 (x % 256)
  | .f32 => decodeBin f32 (x % 2 ^ 32)
  | _ => decodeBin (fmt t) (x % 2 ^ 16)

/-- Delivery of an exact value into a floating type or M8. -/
def deliverF (t : Ty) (m : Mode) (v : FVal) : Nat × Flags :=
  match t with
  | .m8 => encodeM8 m v
  | _ => encodeBin (fmt t) m v

def FVal.isNan : FVal → Bool
  | .nan => true
  | _ => false

def FVal.negate : FVal → FVal
  | .nan => .nan
  | .inf s => .inf (!s)
  | .fin s n d => .fin (!s) n d

/-- An exact product, and whether it is 0 × ∞ (R66, R68). -/
def mulX (a b : FVal) : FVal × Bool :=
  match a, b with
  | .nan, _ | _, .nan => (.nan, false)
  | .inf s, .inf t => (.inf (s != t), false)
  | .inf s, .fin t n _ | .fin t n _, .inf s => if n = 0 then (.nan, true) else (.inf (s != t), false)
  | .fin s n d, .fin t n' d' => (.fin (s != t) (n * n') (d * d'), false)

/-- The sum of finite terms as an integer over a common denominator. -/
def sumFin : List FVal → Int × Nat
  | [] => (0, 1)
  | .fin s n d :: r =>
    let (a, b) := sumFin r
    ((if s then -(n : Int) else n) * b + a * d, b * d)
  | _ :: r => sumFin r

def isPosInf : FVal → Bool
  | .inf false => true
  | _ => false

def isNegInf : FVal → Bool
  | .inf true => true
  | _ => false

def signOf : FVal → Bool
  | .nan => false
  | .inf s => s
  | .fin s _ _ => s

def isZero : FVal → Bool
  | .fin _ n _ => n == 0
  | _ => false

/-- An exact sum (R66): its value, and whether infinities of opposite sign meet. The sign of an exact zero is
that of the terms when all are zeros of one sign, and otherwise + except under rdn. -/
def sumX (m : Mode) (ts : List FVal) : FVal × Bool :=
  let clash := ts.any isPosInf && ts.any isNegInf
  if ts.any FVal.isNan || clash then (.nan, clash)
  else if ts.any isPosInf then (.inf false, false)
  else if ts.any isNegInf then (.inf true, false)
  else
    let (a, b) := sumFin ts
    if a = 0 then
      let allNeg := ts.all (fun t => isZero t && signOf t)
      let allPos := ts.all (fun t => isZero t && !signOf t)
      (.fin (if allNeg then true else if allPos then false else m == .rdn) 0 1, false)
    else (.fin (a < 0) a.natAbs b, false)

/-- The comparison of two ordered values; none when either is NaN. Zeros are equal (R96). -/
def cmpF (a b : FVal) : Option Ordering :=
  match a, b with
  | .nan, _ | _, .nan => none
  | .inf s, .inf t => some (if s = t then .eq else if s then .lt else .gt)
  | .inf s, .fin .. => some (if s then .lt else .gt)
  | .fin .., .inf t => some (if t then .gt else .lt)
  | .fin s n d, .fin t n' d' =>
    let x : Int := (if s then -(n : Int) else n) * d'
    let y : Int := (if t then -(n' : Int) else n') * d
    some (if x < y then .lt else if x = y then .eq else .gt)

/-- A floating value converted to an integer type (R74). -/
def toInt (t : Ty) (m : Mode) (v : FVal) : W64 × Flags :=
  let out := if Mode.saturates m then sat else nv
  match v with
  | .nan => (0, nv)
  | .inf neg => (intImage t (if neg then intMin t else intMax t), out)
  | .fin neg n d =>
    let k := roundNat (Mode.rnd m) neg n d
    let x : Int := if neg then -(k : Int) else k
    if intMin t ≤ x && x ≤ intMax t then (intImage t x, 0)
    else (intImage t (if neg then intMin t else intMax t), out)

def ofInt (x : Int) : FVal := .fin (x < 0) x.natAbs 1

def isIntTy (t : Ty) : Bool := tysInt.contains t

/-- Element type of a packed pair (R63). -/
def elemTy (t : Ty) : Ty :=
  match t with
  | .h2 => .f16
  | .bh2 => .bf16
  | _ => t

/-- Whether a conversion between float types is exact by R73: the destination is wider in exponent and fraction, or a
pair goes to its own type. -/
def exactCvt (dst src : Ty) : Bool :=
  (dst == .f32 && (src == .f16 || src == .bf16)) || (dst.isPair && dst == src)

/-- Delivery of a conversion between float types: an exact one keeps an infinity in every mode, the others follow R67
(R73). -/
def deliverCvt (dst src : Ty) (m : Mode) (v : FVal) : Nat × Flags :=
  deliverF (if dst.isPair then elemTy dst else dst) (if exactCvt dst src then .rne else m) v

/-- CVT between single types (R73, R104). -/
def convert1 (dst src : Ty) (m : Mode) (x : W64) : W64 × Flags :=
  if isIntTy src then
    let v := intOf src x
    if isIntTy dst then deliverInt dst m v
    else
      let (c, f) := deliverF dst m (ofInt v)
      (.ofNat 64 c, f)
  else
    let v := fval src x.toNat
    if isIntTy dst then toInt dst m v
    else
      match dst, src with
      | .m8, .m8 => (.ofNat 64 (if v.isNan then 0x7F else x.toNat % 256), 0)
      | _, _ => let (c, f) := deliverCvt dst src m v; (.ofNat 64 c, f)

/-- Apply an operation on elements to packed pairs (R63); a single type is its own element. -/
def lift1 (t : Ty) (f : Nat → Nat × Flags) (x : Nat) : W64 × Flags :=
  if t.isPair then
    let (r0, g0) := f (x % 2 ^ 16)
    let (r1, g1) := f (x / 2 ^ 16 % 2 ^ 16)
    (.ofNat 64 (r0 + r1 * 2 ^ 16), g0 ||| g1)
  else let (r, g) := f x; (.ofNat 64 r, g)

def lift2 (t : Ty) (f : Nat → Nat → Nat × Flags) (x y : Nat) : W64 × Flags :=
  if t.isPair then
    let (r0, g0) := f (x % 2 ^ 16) (y % 2 ^ 16)
    let (r1, g1) := f (x / 2 ^ 16 % 2 ^ 16) (y / 2 ^ 16 % 2 ^ 16)
    (.ofNat 64 (r0 + r1 * 2 ^ 16), g0 ||| g1)
  else let (r, g) := f x y; (.ofNat 64 r, g)

def lift3 (t : Ty) (f : Nat → Nat → Nat → Nat × Flags) (x y z : Nat) : W64 × Flags :=
  if t.isPair then
    let (r0, g0) := f (x % 2 ^ 16) (y % 2 ^ 16) (z % 2 ^ 16)
    let (r1, g1) := f (x / 2 ^ 16 % 2 ^ 16) (y / 2 ^ 16 % 2 ^ 16) (z / 2 ^ 16 % 2 ^ 16)
    (.ofNat 64 (r0 + r1 * 2 ^ 16), g0 ||| g1)
  else let (r, g) := f x y z; (.ofNat 64 r, g)

/-- CVT, pairs element by element (R73). -/
def convert (dst src : Ty) (m : Mode) (x : W64) : W64 × Flags :=
  if dst.isPair then
    lift1 dst (fun c => deliverCvt dst src m (fval (elemTy src) c)) x.toNat
  else convert1 dst src m x

/-- a × b + c rounded once (R100). -/
def ffma1 (t : Ty) (m : Mode) (a b c : Nat) : Nat × Flags :=
  let (p, bad) := mulX (fval t a) (fval t b)
  let (v, clash) := sumX m [p, fval t c]
  let (r, f) := deliverF t m v
  (r, f ||| flagIf (bad || clash) nv)

def fadd1 (t : Ty) (m : Mode) (a b : Nat) : Nat × Flags :=
  let (v, clash) := sumX m [fval t a, fval t b]
  let (r, f) := deliverF t m v
  (r, f ||| flagIf clash nv)

/-- a − b: the exact sum of a and −b, whose signs the rule of signed zeros looks at (R66, log entry 36). -/
def fsub1 (t : Ty) (m : Mode) (a b : Nat) : Nat × Flags :=
  let (v, clash) := sumX m [fval t a, (fval t b).negate]
  let (r, f) := deliverF t m v
  (r, f ||| flagIf clash nv)

def fmul1 (t : Ty) (m : Mode) (a b : Nat) : Nat × Flags :=
  let (v, bad) := mulX (fval t a) (fval t b)
  let (r, f) := deliverF t m v
  (r, f ||| flagIf bad nv)

/-- Whether a value counts as smaller: −0 lies below +0 (R101). -/
def fltLe (a b : FVal) : Bool :=
  match cmpF a b with
  | some .lt => true
  | some .eq => signOf a || !signOf b
  | _ => false

/-- FMIN and FMAX on codes (R101). -/
def fminmax1 (t : Ty) (takeMax : Bool) (a b : Nat) : Nat × Flags :=
  let w := if t = .f32 then 2 ^ 32 else 2 ^ 16
  let x := fval t a
  let y := fval t b
  let r := if x.isNan && y.isNan then (fmt t).nanCode
    else if x.isNan then b % w
    else if y.isNan then a % w
    else if fltLe x y != takeMax then a % w else b % w
  (r, 0)

/-- The class mask of FCLS (R102). -/
def fclass (t : Ty) (x : Nat) : Nat :=
  match fval t x with
  | .nan => 2 ^ 8
  | .inf neg => if neg then 1 else 2 ^ 7
  | .fin neg n d =>
    if n = 0 then (if neg then 2 ^ 3 else 2 ^ 4)
    else
      let sub := t != .m8 && floorLog2 n d < (fmt t).emin
      if sub then (if neg then 2 ^ 2 else 2 ^ 5) else (if neg then 2 ^ 1 else 2 ^ 6)

/-- FDOT2 (R77, R109): a0 × b0 + a1 × b1 + c rounded once to f32. -/
def fdot2 (t : Ty) (m : Mode) (a b c : Nat) : Nat × Flags :=
  let e := elemTy t
  let (p0, bad0) := mulX (fval e (a % 2 ^ 16)) (fval e (b % 2 ^ 16))
  let (p1, bad1) := mulX (fval e (a / 2 ^ 16 % 2 ^ 16)) (fval e (b / 2 ^ 16 % 2 ^ 16))
  let (v, clash) := sumX m [p0, p1, fval .f32 c]
  let (r, f) := deliverF .f32 m v
  (r, f ||| flagIf (bad0 || bad1 || clash) nv)

/-- One element of MSCA (R80): zf + zi × sa × sb, rounded once to f32 under rne. The product is grouped from the left
where one factor is NaN and two others are 0 and ∞ (log entry 38). -/
def msca1 (zf : Nat) (zi : Int) (sa sb : Nat) : Nat × Flags :=
  let (p0, bad0) := mulX (ofInt zi) (fval .f16 sa)
  let (p1, bad1) := mulX p0 (fval .f16 sb)
  let (v, clash) := sumX .rne [fval .f32 zf, p1]
  let (r, f) := deliverF .f32 .rne v
  (r, f ||| flagIf (bad0 || bad1 || clash) nv)

/-- CVTEF (R105): the narrowed code, the f32 residual and the flags. -/
def cvtef (t : Ty) (m : Mode) (x : Nat) : Nat × Nat × Flags :=
  let largest (neg : Bool) : Nat :=
    if t = .m8 then (if neg then 0xFE else 0x7E) else (fmt t).signed neg (fmt t).maxCode
  match fval .f32 x with
  | .nan => (if t = .m8 then 0x7F else (fmt t).nanCode, 0x7FC00000, 0)
  | .inf neg => (largest neg, x % 2 ^ 32, sat)
  | .fin neg n d =>
    let (y, f) := deliverF t m (.fin neg n d)
    let above := f &&& ov != 0
    let y' := if above then largest neg else y
    let (r, _) := sumX .rne [.fin neg n d, (fval t y').negate]
    (y', (deliverF .f32 .rne r).1, if above then sat else f)

end Sys2Proof.Num
end

