-- ==== Sys2Proof/Machine/Flags.lean ====
section
/-! DEFINITION. %flags (R68, R69): the five sticky flags as software reads and writes them, and the comparisons
that set predicates (R96, R119). -/

namespace Sys2Proof.Machine

open Sys2Proof.Num

/-- %flags as MFS reads it: reserved bits are 0. -/
def flagsWord (f : BitVec 5) : W64 := f.zeroExtend 64

/-- The flags that MTS %flags leaves: reserved bits are ignored. -/
def flagsOf (w : W64) : BitVec 5 := w.truncate 5

/-- The six integer conditions by fn (R96). -/
def intCond (fn : Nat) (a b : Int) : Bool :=
  match fn with
  | 0 => a == b
  | 1 => a != b
  | 2 => decide (a < b)
  | 3 => decide (a ≤ b)
  | 4 => decide (b < a)
  | _ => decide (b ≤ a)

/-- The eight floating conditions by fn (R96). -/
def floatCond (fn : Nat) (a b : FVal) : Bool :=
  match fn, cmpF a b with
  | 0, some .eq => true
  | 1, some .eq => false
  | 1, _ => true
  | 2, some .lt => true
  | 3, some .lt => true
  | 3, some .eq => true
  | 4, some .gt => true
  | 5, some .gt => true
  | 5, some .eq => true
  | 6, none => true
  | 7, some _ => true
  | _, _ => false

/-- A condition on two register values of a type. -/
def typeCond (t : Ty) (fn : Nat) (a b : W64) : Bool :=
  if isIntTy t then intCond fn (intOf t a) (intOf t b) else floatCond fn (fval t a.toNat) (fval t b.toNat)

end Sys2Proof.Machine
end

