-- ==== Sys2Proof/Machine/SMap.lean ====
section
/-! DEFINITION. Sparse data by key: lists of (key, value) pairs with strictly rising keys. `set` keeps an
entry for every key written; `put` removes an entry that equals the default, so that equal contents are equal
lists. -/

namespace Sys2Proof

/-- The value at a key, or the default. -/
def SMap.get {α : Type} (d : α) : SMap α → Nat → α
  | [], _ => d
  | (k, v) :: r, i => if k = i then v else if i < k then d else SMap.get d r i

/-- The value at a key, if listed. -/
def SMap.find? {α : Type} : SMap α → Nat → Option α
  | [], _ => none
  | (k, v) :: r, i => if k = i then some v else if i < k then none else SMap.find? r i

/-- List a value at a key. -/
def SMap.set {α : Type} (m : SMap α) (i : Nat) (x : α) : SMap α :=
  match m with
  | [] => [(i, x)]
  | (k, v) :: r => if i < k then (i, x) :: (k, v) :: r else if k = i then (i, x) :: r else (k, v) :: SMap.set r i x

/-- Remove the entry of a key. -/
def SMap.erase {α : Type} (m : SMap α) (i : Nat) : SMap α :=
  match m with
  | [] => []
  | (k, v) :: r => if i < k then (k, v) :: r else if k = i then r else (k, v) :: SMap.erase r i

/-- Write a value, keeping no entry that equals the default. -/
def SMap.put {α : Type} [DecidableEq α] (d : α) (m : SMap α) (i : Nat) (x : α) : SMap α :=
  if x = d then m.erase i else m.set i x

/-- Change the value at a key. -/
def SMap.update {α : Type} (d : α) (m : SMap α) (i : Nat) (f : α → α) : SMap α := m.set i (f (m.get d i))

/-- The values in key order. -/
def SMap.vals {α : Type} (m : SMap α) : List α := m.map Prod.snd

/-- The keys in order. -/
def SMap.keys {α : Type} (m : SMap α) : List Nat := m.map Prod.fst

/-- Keys strictly rise from above a bound. -/
def SMap.sortedFrom {α : Type} : Nat → SMap α → Bool
  | _, [] => true
  | b, (k, _) :: r => b ≤ k && SMap.sortedFrom (k + 1) r

/-- The canonical form: keys strictly rise and no entry equals the default. -/
def SMap.wf {α : Type} [DecidableEq α] (d : α) (m : SMap α) : Bool :=
  m.sortedFrom 0 && m.all (fun p => p.2 != d)

end Sys2Proof
end

