-- ==== Sys2Proof/Machine/State.lean ====
section
/-! DEFINITION. The state of the L7: everything the spec gives the machine, as plain data. Names follow the
spec; the chapter's rule stands beside each record. Sparse maps list what differs from a default. -/

namespace Sys2Proof.Machine

/-! ## Strands, groups and fragments -/

/-- A vector register: value, full/empty bit, poison (R46, R343). -/
structure VReg where
  val : W32 := 0
  full : Bool := true
  poison : Bool := false
  deriving DecidableEq, Repr

/-- A uniform register: value, full/empty bit, poison (R46, R343). -/
structure KReg where
  val : W64 := 0
  full : Bool := true
  poison : Bool := false
  deriving DecidableEq, Repr

/-- A strand (R46): its register stack of 512 positions, predicates q0-q14, resident blocks (R53), and the blocks
that lie in the save area (R54); `ops` counts its atomic and deque operations at homes (R339). -/
structure Strand where
  regs : SMap VReg := []
  preds : BitVec 15 := 0
  resident : List Nat := []
  saved : List Nat := []
  live : Bool := true
  ops : Nat := 0
  deriving DecidableEq, Repr

/-- What a strand access does (R143-R147, R199, R204). -/
inductive AccKind where
  | load | line | tagld
  | store | sline | tagst
  | atomic (op : Nat) (signed h2 nr : Bool)
  | dqpush | dqpop | dqsteal
  deriving DecidableEq, Repr

/-- One strand access beyond the core (R156): what the operand log records of it. An 8-byte private access is
two parts of one access (R140), so the record's own address, size, data and position stand in `ea` to `epos`;
`aid` is common to the parts. `after` names the strand's own earlier accesses to the line that a read waits for (R152);
`tagDone` says that the tag comparison was made at issue (R190), `poison` that the data is poisoned (R343), `dead` that what
it would fill is discarded (R130, R173), `win` that it moves a word of a register window (R54). `own` holds the bytes of the
strand's own stores that were still to come when a copy's bytes were taken for it (R223 S3), and `due` is the core cycle in which
a local access fills (R226). -/
structure Acc where
  kind : AccKind
  core : Nat
  hslot : Nat
  sid : Nat
  slot : Nat
  uni : Bool
  addr : W64
  pc : W64
  word : W64
  size : Nat
  pos : Nat
  data : Nat := 0
  asid : Nat
  team : Nat := 0
  part : Nat := 0
  after : List Nat := []
  poison : Bool := false
  dead : Bool := false
  win : Bool := false
  tagDone : Bool := false
  noalloc : Bool := false
  prio : Nat := 0
  aid : Nat := 0
  lane : Bool := false
  ea : W64 := 0
  esize : Nat := 0
  edata : Nat := 0
  epos : Nat := 0
  own : SMap (BitVec 8) := []
  due : Nat := 0
  deriving DecidableEq, Repr

/-- A record of the operand log (R156); `more` holds the other part of a private access in two parts. -/
structure LogRec where
  acc : Acc
  cause : Nat
  more : List Acc := []
  deriving DecidableEq, Repr

/-- Why a fragment is not an issue candidate (R55, R59, R115, R336); `ready` says it is. Whether a wait is
over is computed from the state when the core looks for candidates. -/
inductive Wait where
  | ready
  /-- parked until registers fill: stack positions of a strand and k registers (R55) -/
  | regs (sid : Nat) (vs ks : List Nat)
  /-- parked for the attribute TLB (R148 step 3) -/
  | tlb (asid va : Nat)
  /-- parked for a word of the instruction that the host or a peer serves (R43, R181) -/
  | ifetch (asid line : Nat)
  /-- parked for a miss-status entry (R151) -/
  | missEntry
  /-- parked at 255 outstanding accesses (R156) -/
  | outstanding
  /-- parked for full granules of a team's local memory (R145) -/
  | granules (core team : Nat) (grans : List Nat)
  /-- parked for entries of a team queue (R216): queue and entries needed -/
  | pops (need : List (Nat × Nat))
  /-- parked for space in a team queue (R216) -/
  | push (queue : Nat)
  /-- parked for a command queue: copy, matrix array or matrix port (R238, R264) -/
  | commandQueue (which : Nat)
  /-- parked for an engine counter that stands at 255 (R220) -/
  | counterFull (cls : Nat)
  /-- blocked at RJN (R128) -/
  | rjn
  /-- blocked at REGROUP (R129) -/
  | regroup
  /-- blocked at BAR until the phase of the barrier differs; the k register takes the status (R209) -/
  | bar (b : Nat) (phase : Bool) (kd : Nat)
  /-- blocked at BARW (R209) -/
  | barw (b : Nat) (phase : Bool) (kd : Nat)
  /-- parked or blocked at CLWAIT (R212) -/
  | clasp (core team off : Nat) (phase : Bool) (uni : Bool)
  /-- blocked at WAITC: class and bound (R221) -/
  | waitc (cls n : Nat)
  /-- blocked at a FENCE or before a release (R219, R229): acquire, observers, whether it ends the instruction, and the
  identity below which an access is an earlier one -/
  | fence (acq : Bool) (obs : Option (BitVec 6)) (done : Bool) (upto : Nat)
  /-- blocked until acquire accesses fill (R230) -/
  | acquire
  /-- blocked at ATLBI or CMNT until every listed access is over (R194, R196) -/
  | maintenance (ids : List Nat)
  /-- in its pass, on its lane, until what its strand does at another core's part of the gang-local view has performed, as
  `done` then says (R145) -/
  | remote (done : Bool)
  /-- blocked at a HALTB until the group slots it halts have stopped (R334): their cores and numbers -/
  | halt (groups : List (Nat × Nat))
  deriving DecidableEq, Repr

/-- The successor of a strand (R113). -/
inductive Succ where
  | go (pc : W64) (wbase : Nat)
  | exit
  | trap
  deriving DecidableEq, Repr

/-- A fragment's region (R166, R169): one opening, with the entry E and the predicate snapshot by %sid. -/
structure Region where
  opening : Nat := 0
  pc : W64 := 0
  base : Nat := 0
  vlive : W64 := 0
  klive : BitVec 56 := 0
  entryE : List Nat := []
  snap : SMap (BitVec 15) := []
  deriving DecidableEq, Repr

/-- Values a pass keeps across a park (R132, R144, R273): the traversal, an address, a running value and words
by slot; `opened` lists the open request of the pass (R150), `seen` the granules whose tags were compared when the
address was checked (R190), `stale` says that the page of the address has been removed since (R194), `held` that the strand at
the resume slot has performed at another core's part of the gang-local view (R145). -/
structure Kept where
  traversal : Nat := 0
  addr : Option W64 := none
  acc : Option Int := none
  words : SMap (List W64) := []
  done : SMap Nat := []
  opened : List Nat := []
  seen : List Nat := []
  stale : Bool := false
  held : Bool := false
  deriving DecidableEq, Repr

/-- A fragment entry (R47), with the state of its pass (R49, R55) and its place in the issue order (R59). `instr`
and `follow` are the instruction of the pass and the REGION after it; `xpc` and `xword` name the CALL, CALLI or RET whose
transfers its window needs (R54);
`faulted` says that its pass has stopped at a fault (R155), `delay` is the stall reason it has until the cycle `since` (R336). -/
structure Frag where
  pc : W64 := 0
  m : W32 := 0
  e : W32 := 0
  wbase : Nat := 0
  wait : Wait := .ready
  resume : Nat := 0
  kept : Kept := {}
  succs : SMap Succ := []
  region : Region := {}
  acquires : List Nat := []
  since : Nat := 0
  lastStart : Nat := 0
  lane : Option Nat := none
  run : Nat := 0
  urgent : Bool := false
  mid : Bool := false
  released : Bool := false
  switched : Bool := false
  ireg : Option Region := none
  skip : Option Nat := none
  instr : Option Instr := none
  follow : Option (BitVec 56 × W64) := none
  xpc : W64 := 0
  xword : W64 := 0
  faulted : Bool := false
  delay : Nat := 0
  deriving DecidableEq, Repr

/-- A spilled piece (R48): its record, its region, and the core cycle it was written in (R116). -/
structure SpillRec where
  pc : W64
  m : W32
  e : W32
  wbase : Nat
  region : Region
  wait : Wait := .ready
  acquires : List Nat := []
  xpc : W64 := 0
  xword : W64 := 0
  since : Nat
  deriving DecidableEq, Repr

/-- The recorded fault of a group slot (R155, R158): the fragment, its held E and resume point, the fault
registers still to be set, and where it went. `eng` says that it is an engine fault or notice; `away` that its team
has been off the core since (R172). -/
structure FaultRec where
  entry : Nat
  cause : Nat
  fslot : Nat
  fpc : W64
  faddr : W64
  fword : W64
  heldE : W32
  pc : W64
  slot : Nat
  entered : Bool := false
  keep : Frag := {}
  supervisor : Bool := false
  eng : Option Bool := none
  away : Bool := false
  deriving DecidableEq, Repr

/-- An engine fault or notice not yet delivered (R155). -/
structure EngFault where
  cause : Nat
  slot : Nat
  faddr : W64
  fword : W64
  notice : Bool := false
  deriving DecidableEq, Repr

/-- The step of a group slot as the governor holds it (R308-R310, R313, R314): `cycle` is that of its STEP, whose own charges
are not the step's; `tick` and `phase` are the control tick before the present period, and the time at which it began. -/
structure StepRec where
  opened : Bool := false
  risk : Bool := false
  count : Nat := 0
  deadline : Nat := 0
  work : Nat := 0
  charged : Nat := 0
  slot : Nat := 0
  rho : Nat := 0
  rhoDen : Nat := 1
  periodCarat : Nat := 0
  periodCycle : Nat := 0
  atRisk : Bool := false
  cycle : Nat := 0
  tick : Nat := 0
  phase : Nat := 0
  deriving DecidableEq, Repr

/-- What a pass of a group slot has brought about that is seen later (R56, R69, R112, R307), with the members `m` of the
fragment that did it: every fragment that holds one of them has it among its own earlier passes. A write of k register `n`
(64 stands for %pkr, 65 for %fpc, 66 for %exm), whose old value other fragments read before cycle `at_`; flags set, in effect
from `at_` on; a write of %flags in a cycle; carats, read from `at_` on. -/
inductive Late where
  | kreg (n : Nat) (old : W64) (m : W32) (at_ : Nat)
  | fset (bits : BitVec 5) (m : W32) (at_ : Nat)
  | fput (v : BitVec 5) (m : W32) (cycle : Nat)
  | carat (n at_ : Nat)
  deriving DecidableEq, Repr

/-- A group slot (R46). `flags0` are the flags before the sets and writes that `late` notes; `heldTraps` the traps that were
raised while another fault stood recorded, each with the address of its instruction (R155); `killed` says that the group has
been killed (R173). -/
structure GroupSlot where
  alloc : Bool := false
  team : Nat := 0
  gid : Nat := 0
  role : Nat := 0
  sids : SMap Nat := []
  frags : SMap Frag := []
  spill : List SpillRec := []
  k : SMap KReg := []
  flags : BitVec 5 := 0
  cy : Nat := 0
  cm : Nat := 0
  cx : Nat := 0
  yq : List (Nat × Option Nat) := []
  mq : List (Nat × Option Nat) := []
  xq : List (Nat × Option Nat) := []
  marks : SMap Nat := []
  sig : SMap W32 := []
  pkr : W64 := 0
  cause : Nat := 0
  fslot : Nat := 0
  fpc : W64 := 0
  faddr : W64 := 0
  fword : W64 := 0
  fault : Option FaultRec := none
  inHandler : Bool := false
  heldSig : SMap W32 := []
  heldEng : List EngFault := []
  log : List LogRec := []
  logGt : Nat := 0
  step : StepRec := {}
  carat : Nat := 0
  lclk : Nat := 0
  halted : Bool := false
  supSince : Nat := 0
  late : List Late := []
  flags0 : BitVec 5 := 0
  heldTraps : List (W64 × FaultRec) := []
  killed : Bool := false
  deriving DecidableEq, Repr

/-! ## Teams -/

/-- An entry of a team queue (R215, R216, R328): its value, its pusher's clock, and the core cycle from which it can be
popped. -/
structure QEntry where
  val : W64
  clk : Nat
  at_ : Nat := 0
  deriving DecidableEq, Repr

/-- A team barrier (R208). -/
structure Barrier where
  arrived : List Nat := []
  phase : Bool := false
  abandoned : Bool := false
  status : Bool := false
  clk : Nat := 0
  relClk : Nat := 0
  deriving DecidableEq, Repr

/-- The fields of a context record that a placed team carries (R284). -/
structure Context where
  asid : Nat := 0
  sys : Bool := false
  root : Nat := 0
  enable : W64 := 0
  ebase : W64 := 0
  pkr : W64 := 0
  arena : W64 := 0
  ssz : Nat := 0
  nstripe : Nat := 0
  quota : Nat := 0
  addr : Nat := 0
  deriving DecidableEq, Repr

/-- A team resident on a core (R46, R54, R140, R157, R208, R215, R255). `pops` lists the entries that passes under way pop in
cycles still to come: the queue, the cycle of the push and that of the pop (R217). -/
structure Team where
  launch : Nat := 0
  part : Nat := 0
  index : Nat := 0
  gang : Nat := 0
  nstr : Nat := 0
  nteam : Nat := 0
  gangSize : Nat := 1
  gangPos : Nat := 0
  members : List (Nat × Nat) := []
  ctx : Context := {}
  lsize : Nat := 0
  laneWords : Nat := 0
  budgets : SMap Nat := []
  dclass : Nat := 0
  fuse : Bool := false
  stripe : Nat := 0
  sbase : W64 := 0
  pbase : W64 := 0
  farea : W64 := 0
  mem : SMap Byte := []
  full : List Nat := []
  lpoison : List Nat := []
  claspClk : SMap Nat := []
  bars : SMap Barrier := []
  queues : SMap (List QEntry) := []
  pops : List (Nat × Nat × Nat) := []
  bank : Option Nat := none
  strands : SMap Strand := []
  args : List W64 := []
  roles : List Nat := []
  entry : W64 := 0
  h0 : Nat := 0
  started : Bool := false
  restart : Bool := false
  startCycle : Nat := 0
  preempting : Nat := 0
  locUnits : Nat := 0
  regWords : Nat := 0
  charged : Nat := 0
  deriving DecidableEq, Repr

/-- What an access does at another core's part of the gang-local view (R145, R212, R226): it reads, writes (and may set the
granules full), combines, tests full granules and reads, or initialises, arrives at, tests or waits for a clasp; a STLINE clears
the poison of the granules that it has covered whole (R343). -/
inductive GangWhat where
  | read
  | write (fill : Bool)
  | atomic
  | ldf (clr : Bool)
  | clinit
  | clarr
  | cltry
  | clwait
  | clean (grans : List Nat)
  deriving DecidableEq, Repr

/-- An access to another core's part of the gang-local view that has not performed yet (R226): its place, the cycle of its own
core in which it performs, its group's clock, and its fragment's entry and members. -/
structure GangAcc where
  acc : Acc
  core : Nat
  team : Nat
  off : Nat
  at_ : Nat
  what : GangWhat
  clk : Nat := 0
  entry : Nat := 0
  m : W32 := 0
  deriving DecidableEq, Repr

/-! ## The home -/

/-- A leaf entry of a page table (R185). -/
structure PageLeaf where
  attr : Nat := 0
  pwin : Nat := 0
  reach : Nat := 0
  frame : Nat := 0
  key : Nat := 0
  tagc : Bool := false
  x : Bool := false
  w : Bool := false
  rd : Bool := false
  deriving DecidableEq, Repr

/-- An entry of an attribute TLB (R187): the page's first address and log2 of its size; no leaf for an absent
page. -/
structure TlbEntry where
  asid : Nat
  va : Nat
  bits : Nat
  leaf : Option PageLeaf
  deriving DecidableEq, Repr

/-- A translation held by a slice (R188). -/
structure SliceEntry where
  asid : Nat
  va : Nat
  bits : Nat
  leaf : PageLeaf
  deriving DecidableEq, Repr

/-- A pointer entry held by a slice (R188): the level it was read at, the VA prefix and the next table. -/
structure PtrEntry where
  asid : Nat
  level : Nat
  pfx : Nat
  next : Nat
  deriving DecidableEq, Repr

/-- A line of an L1 or L2 (R179, R180): sectors present, bytes, granule tags, lease expiry, priority. A lane
line is private or spill data, used while resident; `bits` is the log2 of the size of the page it was read through. -/
structure CacheLine where
  asid : Nat
  line : Nat
  sectors : BitVec 4
  bytes : List Byte
  tags : List (BitVec 4)
  expiry : Nat := 0
  prio : Nat := 0
  lane : Bool := false
  dirty : BitVec 4 := 0
  poison : BitVec 8 := 0
  bits : Nat := 15
  deriving DecidableEq, Repr

/-- Where an access stands on its way. -/
inductive Stage where
  | walk                         -- on its way to a translation slice
  | home (pa : Nat)              -- translated, on its way to the home of a local page
  | host (pa : Nat)              -- sent over the Porsen link
  | peer (module pa : Nat)       -- sent over the Chain fabric
  | arrived                      -- the data has come from the L2, or that of a private sector from its home (R235)
  deriving DecidableEq, Repr

/-- A read request for one sector (R150, R151), or for a line of host or peer memory, with the accesses that
wait for it; `inst` says that it asks for instruction words, `engine` that a copy engine asks; `kept` are the private stores of
a private sector's entry in issue order (R235); `entries` counts its miss-status entries, `bits` is the log2 of its page's
size, and `stale` says that an ATLBI has removed the page, so that no copy is installed (R194); `shown` is the address as issued
of a request without accesses (R193). -/
structure Fetch where
  id : Nat
  core : Nat
  asid : Nat
  line : Nat
  sector : Nat
  lane : Bool := false
  noalloc : Bool := false
  prio : Nat := 0
  stage : Stage := .walk
  accs : List Acc := []
  kept : List Acc := []
  bytes : List Byte := []
  tags : List (BitVec 4) := []
  poison : BitVec 8 := 0
  expiry : Nat := 0
  pkr : W64 := 0
  replay : Bool := false
  tagc : Bool := false
  prefetch : Bool := false
  inst : Bool := false
  engine : Bool := false
  entries : Nat := 1
  bits : Nat := 15
  stale : Bool := false
  since : Nat := 0
  shown : Nat := 0
  deriving DecidableEq, Repr

/-- What a posted access writes (R222): `hardware` is an operand log in the fault area, `service` a write of a copy
engine or of the dispatcher. -/
inductive PostKind where
  | store
  | tagst
  | atomic
  | deque
  | writeback
  | hardware
  | service
  deriving DecidableEq, Repr

/-- An access of the posting queue of a core (R222 S4), with the strand accesses it carries. `bytes` lists the
bytes of its line by offset. `due` names the beat of a copy engine that it belongs to, `elem` the descriptor's line of a deque
operation whose element the host or a peer holds (R206); `va` and `nth` are the address and the number of an engine's first
element in it (R253); `peer` names the module and the message whose deque operation it is the element of, and whether its answer
is still wanted. -/
structure Posted where
  id : Nat
  kind : PostKind
  core : Nat
  hslot : Nat
  asid : Nat
  line : Nat
  stage : Stage := .walk
  bytes : SMap Byte := []
  accs : List Acc := []
  pkr : W64 := 0
  tags : List (BitVec 4) := []
  replay : Bool := false
  tagc : Bool := false
  clk : Nat := 0
  xid : Option Nat := none
  due : Option Nat := none
  since : Nat := 0
  poison : BitVec 8 := 0
  bits : Nat := 15
  stale : Bool := false
  elem : Option Nat := none
  va : W64 := 0
  nth : Nat := 0
  peer : Option (Nat × Nat × Bool) := none
  deriving DecidableEq, Repr

/-- A store pending at its home (R222): its time once it has one, bytes by offset, tags by granule, poisoned granules, and
the strands and addresses it came from (R223 S3). `wb` names the L2, the line and the page size of a write-back (R180). -/
structure Pend where
  t : Option Nat
  bytes : SMap Byte := []
  tags : SMap (BitVec 4) := []
  accs : List Acc := []
  engine : Option Nat := none
  link : Option (Nat × Nat) := none
  ring : Option (Nat × Nat) := none
  wb : Option (Nat × Nat × Nat × Nat) := none
  poison : BitVec 8 := 0
  deriving DecidableEq, Repr

/-- The home record of a physical line (R222, R225). -/
structure HomeLine where
  version : Nat := 0
  lmax : Nat := 0
  len : Nat := 256
  quiet : Bool := false
  pending : List Pend := []
  deriving DecidableEq, Repr

/-- A request of a core to a translation slice for an attribute (R187), with the address as issued, and its answer. -/
structure AtlbReq where
  id : Nat
  core : Nat
  asid : Nat
  va : Nat
  addr : Nat := 0
  answer : Option (Option (Nat × Nat × PageLeaf)) := none
  deriving DecidableEq, Repr

/-- Data on its way to registers (R55): the registers from `pos` onward take the words. `far` says that its access counts
as outstanding beyond the L1 until then (R156), `due` is the core cycle in which it fills, where the spec fixes one (R226, R266).
One without words is the result of an acquire that an instruction has written itself (R230). -/
structure Fill where
  id : Nat
  core : Nat
  hslot : Nat
  uni : Bool
  sid : Nat
  pos : Nat
  words : List W64
  part : Nat := 0
  poison : Bool := false
  other : Bool := false
  aid : Nat := 0
  far : Bool := false
  due : Nat := 0
  deriving DecidableEq, Repr

/-- A violation-log entry (R193). -/
structure Violation where
  gt : Nat
  addr : Nat
  asid : Nat
  source : Nat
  kind : Nat
  who : Nat
  deriving DecidableEq, Repr

/-! ## Copy engines -/

/-- A copy command as issued (R238): the kind by opcode, its descriptor, and the snapshot of the issuing
group. -/
structure CopyCmd where
  id : Nat
  op : Nat
  float : Bool := false
  core : Nat
  hslot : Nat
  team : Nat
  desc : List W64
  asid : Nat
  sys : Bool := false
  pkr : W64 := 0
  slot : Nat := 0
  word : W64 := 0
  clk : Nat := 0
  deriving DecidableEq, Repr

/-- Why a copy command stops (R253): the element it stops at, the cause, the address, poison. -/
structure CopyStop where
  at_ : Nat
  cause : Nat
  faddr : W64
  poison : Bool := false
  deriving DecidableEq, Repr

/-- A command on its engine (R246, R247): how far it has read and delivered in its element order, the bytes read
and not yet delivered, the index values read, and the request it has with the host or a peer: its identity, how
many bytes it asks for, and whether they are index elements. -/
structure CopyRun where
  cmd : CopyCmd
  engine : Nat
  rd : Nat := 0
  wr : Nat := 0
  buf : List Byte := []
  idx : SMap Int := []
  stop : Option CopyStop := none
  waiting : Option (Nat × Nat × Bool) := none
  deriving DecidableEq, Repr

/-- A clasp decrement not yet made, or a beat whose global writes are not yet done (R249, R250); `first` is the beat's first
element. -/
structure Due where
  id : Nat
  cmd : Nat
  core : Nat
  team : Nat
  off : Nat
  bytes : Nat
  dec : Bool
  first : Nat := 0
  deriving DecidableEq, Repr

/-! ## Matrix engines -/

/-- An accumulator tile (R255): elements by 64 × row + column, and its status word. -/
structure Tile where
  elems : SMap W32 := []
  wrap : Bool := false
  tag : Nat := 2
  poison : List Nat := []
  deriving DecidableEq, Repr

/-- A bank: its owner and its eight tiles (R255). -/
structure Bank where
  owner : Option Nat := none
  tiles : SMap Tile := []
  deriving DecidableEq, Repr

/-- A command of an array queue or a port queue (R263, R264). `ranks` is the snapshot of E as slots with %sid,
`vals` the registers an ACWR gathered, `scales` the scales an MSCA read. It arrives in cycle `at_`, its fill or its service
begins in cycle `t0` and takes `len` cycles in all, of which `spent` are over (R265, R266); an MMAS holds the metadata of its
blocks, an MMA or MMAS the sums of each block over the plane pairs read so far, by 64 × row + column (R267, R268). -/
structure MxCmd where
  id : Nat
  op : Nat
  hslot : Nat
  team : Nat
  bank : Nat
  zd : Nat
  zs : Nat
  pa : Nat
  pb : Nat
  sgnA : Bool
  sgnB : Bool
  tag : Nat
  desc : List W64
  slot : Nat
  word : W64
  wbase : Nat := 0
  vb : Nat := 0
  ranks : List (Nat × Nat) := []
  vals : SMap (List W32) := []
  scales : List Nat := []
  started : Bool := false
  stop : Option (Nat × W64) := none
  clk : Nat := 0
  at_ : Nat := 0
  t0 : Nat := 0
  len : Nat := 0
  spent : Nat := 0
  nibbles : SMap (List Byte) := []
  sums : SMap (List Int) := []
  deriving DecidableEq, Repr

/-! ## The dispatcher -/

/-- An accepted launch (R282, R283, R286, R296): its record and argument words, its context, the live launches it
depends on, how many gangs have been placed, how many teams have retired; `preempt` is 1 while it is being
pre-empted to be held and 2 to be requeued (3 for a drain), `retiring` how far its retirement has come, `mark` the latest mark_c of its retired groups. -/
structure Launch where
  handle : Nat
  part : Nat
  queue : Nat
  words : List W64
  args : List W64
  ctx : Context
  placed : Nat := 0
  retired : Nat := 0
  held : Bool := false
  preempt : Nat := 0
  stripes : List Nat := []
  deps : List Nat := []
  retiring : Nat := 0
  mark : Nat := 0
  deriving DecidableEq, Repr

/-- A record of a LAUNCH run that has its handle (R295): its strand, its destinations and its address, and, once the record has been
judged and accepted, its launch, which waits for room in its queue. -/
structure Child where
  sid : Nat
  pos : Nat
  addr : W64
  handle : Nat
  launch : Option Launch := none
  deriving DecidableEq, Repr

/-- A LAUNCH run (R295): its strands with their destinations and record addresses, then its children; `pc`, `slot`
and `e` are those of the pass, for its trace record (R330). -/
structure Run where
  id : Nat
  part : Nat
  core : Nat
  hslot : Nat
  ctx : Context
  pkr : W64 := 0
  pc : W64 := 0
  slot : Nat := 0
  e : W32 := 0
  items : List (Nat × Nat × W64) := []
  arrived : Bool := false
  children : List Child := []
  deriving DecidableEq, Repr

/-- A team off its core (R170, R171, R256, R299, R300): where its team record is kept (a key of `cores` that is no
core), the core it left, its group slots, its tiles, the group slots whose resume action has come, whether it
was swapped out alone, and whether a self-test drain took it out (R301). -/
structure SavedTeam where
  part : Nat
  handle : Nat
  place : Nat
  core : Nat
  groups : List GroupSlot
  tiles : Option (SMap Tile) := none
  resume : List Nat := []
  swap : Bool := false
  drained : Bool := false
  deriving DecidableEq, Repr

/-- A write of the dispatcher until it is done: by the time at which it becomes visible at its home, or by the identity of the
posted access that takes it to the host or a peer. -/
inductive Track where
  | home (t : Nat)
  | remote (id : Nat)
  deriving DecidableEq, Repr

/-- A partition's dispatcher (R286-R303): its registers by offset, the handle counter, the launches waiting in
each queue, deficits, the turn, the ns each head's wait clock has run and the cores it has reserved, both by handle (R292), starved heads, the notice
index, and the self-test drain: the cluster being drained with the GT it began, clusters due, clusters failed. `writes` are its
writes under way, which a release of it waits for; `heads` the queues whose LQHEAD, and `noticeOut` the notice whose index,
follows such a write (R286, R297). -/
structure Part where
  regs : SMap W64 := [(0x8, 0x00010258_03E80064)]
  handle : Nat := 0
  queues : SMap (List Nat) := []
  deficits : SMap Int := []
  turn : Option Nat := none
  turnPlaced : Nat := 0
  waited : SMap Nat := []
  reserved : SMap (List Nat) := []
  starved : List Nat := []
  noticeIdx : Nat := 0
  noticeLogged : Bool := false
  writes : List Track := []
  heads : List (Nat × Track) := []
  noticeOut : Option Track := none
  lastDrain : Nat := 0
  drainNext : Nat := 0
  draining : List (Nat × Nat) := []
  dueDrain : List Nat := []
  failed : List Nat := []
  lastDecision : Nat := 0
  deriving DecidableEq, Repr

/-! ## The governor -/

/-- A voltage domain (R312, R313, R318): the point in effect, the last target, the caps, and a change under
way. -/
structure Domain where
  cur : Nat := 12
  target : Nat := 12
  thermal : Nat := 15
  power : Nat := 15
  moving : Option Nat := none
  decided : Option (Nat × Nat) := none
  risks : Nat := 0
  riskGt : Nat := 0
  tick : Nat := 0
  deriving DecidableEq, Repr

/-- The governor (R313-R322): its registers by offset, the four domains, the period each context's quota began in,
the contexts whose hold has been noticed, when each cluster last reported, the module power last measured, the quota of each
context with the partition it was last read for, and the highest point as a tick of a number found it (R318). -/
structure Gov where
  regs : SMap W64 := [(0x0, 0xFFFAAA555000), (0x8, 0x708), (0x100, 0xF0601C), (0x140, 0xF0601C), (0x180, 0xF0601C),
                      (0x1C0, 0xF0601C)]
  domains : SMap Domain := []
  quotaFrom : SMap Nat := []
  noticed : List Nat := []
  lastReport : SMap Nat := []
  watts : Nat := 0
  qcs : SMap (Nat × Nat) := []
  top : Nat × Nat := (0, 12)
  deriving DecidableEq, Repr

/-! ## Links and the platform -/

/-- A message of the Chain transport (R361): the fields of its header, its payload of `bytes`, and, for the model, the request it
belongs to and the clock that it carries (R328). -/
structure ChainMsg where
  ver : Nat := 1
  kind : Nat
  conn : Nat := 0
  seq : Nat
  addr : Nat
  bytes : List Byte := []
  ref : Nat := 0
  clk : Nat := 0
  ack : Nat := 0
  deriving DecidableEq, Repr

/-- The connections with one peer module (R361): sequence numbers both ways, the unacknowledged messages, those that wait for room
in the port's 4 MiB, when the oldest unacknowledged one was last sent and when one was last acknowledged, and the last T of the
peer's writes (R228). -/
structure Conn where
  recvNext : Nat := 0
  sendNext : Nat := 0
  unacked : List ChainMsg := []
  waiting : List ChainMsg := []
  sentGt : Nat := 0
  progressGt : Nat := 0
  lastT : Nat := 0
  deriving DecidableEq, Repr

/-- What the device sends out: a response to the host, or a message to a peer with the UDP port and the IPv6 address of its
frames. -/
inductive OutMsg where
  | hostData (bytes : List Byte)
  | hostError
  | chain (peer udp : Nat) (dest : List Byte) (m : ChainMsg)
  deriving DecidableEq, Repr

/-- What a Chain port has trained as (R360): 400GBASE-CR4 on copper to another L7 or to anything else, or 400GAUI-4 toward an optical
module. -/
inductive Phy where
  | copperL7 | copper | optical
  deriving DecidableEq, Repr

/-- A Chain port (R360-R362). `phy` is what it last trained as. -/
structure ChainPort where
  cfg : W64 := 0
  tab : W64 := 0
  lanes : Nat := 0
  sheds : Nat := 0
  phy : Phy := .copper
  clk : Nat := 0
  deriving DecidableEq, Repr

/-- What survives the loss of power (R358, R363, R364): the fuses, with the boot counter and the minimum security version. -/
structure Fuses where
  boots : Nat := 0
  minVersion : Nat := 0
  deriving DecidableEq, Repr

/-- The platform block and Locket (R356, R357, R363, R364). -/
structure Plat where
  regs : SMap W64 := [(0x20, 0xC65100000000)]
  rdy : BitVec 29 := 0
  busy : Option (Nat × List Byte) := none
  fail : Bool := false
  lmsx : Bool := false
  reports : Nat := 0
  measures : List Byte := []
  deriving DecidableEq, Repr

/-- A notice to the supervisor team (R160, R297). -/
structure Notice where
  kind : Nat
  cause : Nat
  core : Nat := 0
  hslot : Nat := 0
  gid : Nat := 0
  fslot : Nat := 0
  team : Nat := 0
  asid : Nat := 0
  fpc : W64 := 0
  faddr : W64 := 0
  fword : W64 := 0
  area : W64 := 0
  gt : Nat := 0
  launch : Nat := 0
  deriving DecidableEq, Repr

/-- A known-answer operation in the array of a core (R277): the first cycle after it, 0 while it waits for an idle array, and
whether its result will differ from its signature. -/
structure Injection where
  mismatch : Bool
  ends : Nat := 0
  deriving DecidableEq, Repr

/-- A core (R4, R46). `phase` is the time its clock has reached, in units of 1 / 232,792,560 ns, of which every
operating point's period is a whole number; `lanes` gives the cycle in which a lane takes its next strand, and so from which
it is free (R52); `zlast` gives the last cycle in which a command of a tile (8 × bank + tile) ran, at 16 that of the port, at 17
the end of the fill of a stopped MMAS (R265, R266), `tickCycle` the core's cycle at the
last control tick (R313); `made` lists registers that instructions have produced, by a key of the model, each with the cycle from
which its fragment can read it (R51); `kat` is a known-answer operation (R277). -/
structure Core where
  cycle : Nat := 0
  phase : Nat := 0
  lanes : SMap Nat := []
  teams : SMap Team := []
  groups : SMap GroupSlot := []
  atlb : List TlbEntry := []
  l1 : List CacheLine := []
  ibuf : List (Nat × Nat × W64) := []
  copyq : List CopyCmd := []
  banks : SMap Bank := []
  array : List MxCmd := []
  port : List MxCmd := []
  mxClk : Nat := 0
  zlast : SMap Nat := []
  tickCycle : Nat := 0
  made : List (Nat × Nat) := []
  kat : Option Injection := none
  regs : SMap W64 := [(0x0, 0xFFFFFFFF), (0x10, 1)]
  deriving DecidableEq, Repr

/-- A die (R6). `msc` lists the lines of its memory-side cache, the most recently used first, each with its priority
(R179, R180, R240). -/
structure Die where
  l2 : List CacheLine := []
  msc : List (Nat × Nat) := []
  slices : SMap (List SliceEntry) := []
  ptrs : SMap (List PtrEntry) := []
  regs : SMap W64 := []
  traced : Nat := 0
  traceTimes : List (Nat × Nat) := []
  traceOut : List Nat := []
  homeClk : Nat := 0
  cmUsed : List Nat := []
  cmHeld : SMap Nat := []
  copyTurn : Nat := 0
  samples : Nat := 0
  lastSample : Nat := 0
  deriving DecidableEq, Repr

/-- A fragment entry of the package. -/
structure FragRef where
  core : Nat
  hslot : Nat
  entry : Nat
  deriving DecidableEq, Repr

/-- Why the machine stops. -/
inductive Fault where
  /-- Raised by step when the power is off (R358) and nothing on the agenda restores it. Safe. -/
  | poweredOff
  deriving DecidableEq, Repr

/-- Why a step has no meaning. -/
inductive Refusal where
  /-- Raised by an arm of exec whose instruction has no meaning yet. Safe. -/
  | notModelled (mnemonic : String)
  deriving DecidableEq, Repr

/-- The machine: everything the spec gives the device. `agenda` lists the events from outside and of the engines
that the next steps perform first, `inbox` the requests of the host and of peers that wait at their homes, `downs` the modules
whose link-down is still to be reported to the dies (R360); `cur` names the fragment that the issue selector has started, `starts`
the further ones of the same core cycle (R52); `follow` holds the live-in masks of the REGION that follows its instruction;
`freeCtr` and `nextId` are counters of the model. Physical memory is the visible value by address, tags and poison by 32-byte
granule. -/
structure State where
  agenda : List Instr := []
  cur : Option FragRef := none
  starts : List FragRef := []
  follow : Option (BitVec 56 × W64) := none
  freeCtr : Nat := 0
  nextId : Nat := 1
  gt : Nat := 0
  powered : Bool := true
  mem : List Host.Cell := []
  tags : SMap (BitVec 4) := []
  poison : List Nat := []
  homes : SMap HomeLine := []
  mscDirty : List Nat := []
  fetches : List Fetch := []
  posted : List Posted := []
  atlbReqs : List AtlbReq := []
  fills : List Fill := []
  gang : List GangAcc := []
  roots : SMap Nat := []
  fused : List Nat := []
  quotas : SMap Int := []
  qsub : SMap Nat := []
  clen : SMap Nat := []
  held : List Nat := []
  notices : SMap (List Notice) := []
  copies : List CopyRun := []
  dues : List Due := []
  engineClk : SMap Nat := []
  mxslot : Nat := 0
  launches : SMap Launch := []
  runs : List Run := []
  saved : List SavedTeam := []
  parts : SMap Part := []
  gov : Gov := {}
  plat : Plat := {}
  fuses : Fuses := {}
  ports : SMap ChainPort := []
  conns : SMap Conn := []
  inbox : List Instr := []
  downs : List Nat := []
  linkT : Nat := 0
  linkClk : Nat := 0
  outbox : List OutMsg := []
  cores : SMap Core := []
  dies : SMap Die := []
  deriving DecidableEq, Repr

/-- The machine right after reset: GT 0, no team resident, memory as unlisted bytes read, every function not
yet ready (R357, R358), and every register at the reset value its block's table gives (R193, R257, R303, R322,
R323, R356, R361), which is the default of its field above. -/
def State.reset : State := {}

end Sys2Proof.Machine
end

