-- ==== Sys2Proof/Machine/Memory.lean ====
section
/-! DEFINITION. The visible value of physical memory, as a list of cells in one canonical form: addresses
strictly rise, and no cell holds what an unlisted address reads as. -/

namespace Sys2Proof.Machine

/-- What a byte of physical memory that nothing has written reads as (log entry 5). -/
def Memory.unlisted : Byte := 0

/-- The canonical form. -/
def Memory.wf (m : List Host.Cell) : Bool := SMap.wf Memory.unlisted m

/-- One byte. -/
def Memory.read (m : List Host.Cell) (a : Nat) : Byte := SMap.get Memory.unlisted m a

/-- `n` bytes from an address. -/
def Memory.readBytes (m : List Host.Cell) (a : Nat) : Nat → List Byte
  | 0 => []
  | n + 1 => Memory.read m a :: Memory.readBytes m (a + 1) n

/-- Write one byte. -/
def Memory.write (m : List Host.Cell) (a : Nat) (b : Byte) : List Host.Cell := SMap.put Memory.unlisted m a b

/-- Write listed bytes at an offset from a base. -/
def Memory.writeMap (m : List Host.Cell) (base : Nat) : SMap Byte → List Host.Cell
  | [] => m
  | (o, b) :: r => Memory.writeMap (Memory.write m (base + o) b) base r

/-- A little-endian word of `n` bytes. -/
def bytesVal : List Byte → Nat
  | [] => 0
  | b :: r => b.toNat + 256 * bytesVal r

def Memory.word (m : List Host.Cell) (a n : Nat) : Nat := bytesVal (Memory.readBytes m a n)

/-- A field of a word. -/
def bitsAt (w : W64) (lo n : Nat) : Nat := w.toNat / 2 ^ lo % 2 ^ n

end Sys2Proof.Machine
end

