-- ==== Sys2Proof/WellFormed.lean ====
section
/-! DEFINITION. A well-formed instruction: every field holds a value its row accepts, so that some word
encodes it (R25-R42). -/

namespace Sys2Proof

/-- The check that decoding applies to what the fields say. -/
def Instr.wellFormed (i : Instr) : Bool := legal i

end Sys2Proof
end

