-- ==== Sys2Proof/Decode.lean ====
section
/-! DEFINITION. Decoding (R25-R44) and encoding of instructions. A word is cut into fields from its least
significant bit; the same field lists serve both directions. Decoding is total: a word that is no instruction
answers ILLOP or ILLENC with the index of the offending word. -/

namespace Sys2Proof

/-- A number from fields, the first field in the lowest bits. -/
def packFields : List (Nat × Nat) → Nat
  | [] => 0
  | (w, v) :: r => v % 2 ^ w + 2 ^ w * packFields r

/-- The fields of a number, the first in the lowest bits. -/
def unpackFields : List Nat → Nat → List Nat
  | [], _ => []
  | w :: r, n => n % 2 ^ w :: unpackFields r (n / 2 ^ w)

def bit01 (b : Bool) : Nat := if b then 1 else 0

/-- Why a word is no instruction (R44), with the index of the word. -/
inductive DecodeError where
  | illop (word : Nat)
  | illenc (word : Nat)
  deriving DecidableEq, Repr

/-- Widths of Format A from bit 0: reserved, long, fn, mode, type, gn, guard, ec, eb, ea, kc, kb, ka, c, b, a,
d, u, op (R28). -/
def widthsA : List Nat := [7, 1, 4, 3, 5, 1, 4, 1, 1, 1, 1, 1, 1, 6, 6, 6, 6, 1, 8]

/-- Widths of Format M from bit 0 (R32). -/
def widthsM : List Nat := [12, 1, 4, 2, 2, 6, 2, 3, 3, 1, 1, 6, 6, 6, 1, 8]

/-- Widths of Format B from bit 0 (R34). -/
def widthsB : List Nat := [40, 8, 3, 1, 4, 8]

/-- Widths of Format S from bit 0 (R35). -/
def widthsS : List Nat := [20, 1, 4, 10, 1, 12, 1, 6, 1, 8]

/-- Widths of Format L, word 0 (R36). -/
def widthsL : List Nat := [56, 8]

/-- Widths of Format E from bit 0 (R37). -/
def widthsE : List Nat := [26, 6, 5, 3, 3, 3, 3, 6, 1, 8]

/-- Widths of a tree header from bit 0 (R38). -/
def widthsT : List Nat := [16, 5, 2, 2, 2, 2, 2, 2, 2, 2, 2, 2, 2, 2, 2, 2, 1, 1, 1, 1, 1, 1, 1, 8]

/-- Widths of a test word from bit 0 (R39). -/
def widthsTest : List Nat := [32, 2, 1, 1, 1, 1, 1, 6, 6, 5, 4, 4]

/-- Mode codes (R31). -/
def Mode.code : Mode → Nat
  | .rne => 0 | .rtz => 1 | .rdn => 2 | .rup => 3 | .rna => 4 | .satRne => 5 | .satRtz => 6

def Mode.ofCode (n : Nat) : Option Mode :=
  match n with
  | 0 => some .rne | 1 => some .rtz | 2 => some .rdn | 3 => some .rup | 4 => some .rna
  | 5 => some .satRne | 6 => some .satRtz | _ => none

/-- Space codes (R32). -/
def Space.code : Space → Nat
  | .global => 0 | .local => 1 | .lane => 2 | .gang => 3

def Space.ofCode (n : Nat) : Option Space :=
  match n with
  | 0 => some .global | 1 => some .local | 2 => some .lane | 3 => some .gang | _ => none

def Cond.code : Cond → Nat
  | .eq => 0 | .ne => 1 | .lt => 2 | .le => 3 | .gt => 4 | .ge => 5 | .bs => 6 | .bc => 7 | .pt => 8 | .pf => 9

def Cond.ofCode (n : Nat) : Option Cond :=
  match n with
  | 0 => some .eq | 1 => some .ne | 2 => some .lt | 3 => some .le | 4 => some .gt | 5 => some .ge
  | 6 => some .bs | 7 => some .bc | 8 => some .pt | 9 => some .pf | _ => none

def TestKind.code : TestKind → Nat
  | .regReg => 0 | .regImm => 1 | .bit => 2 | .pred => 3

def TestKind.ofCode (n : Nat) : Option TestKind :=
  match n with
  | 0 => some .regReg | 1 => some .regImm | 2 => some .bit | 3 => some .pred | _ => none

def LeafKind.code : LeafKind → Nat
  | .next => 0 | .branch => 1 | .exit => 2 | .trap => 3

def LeafKind.ofCode (n : Nat) : LeafKind :=
  match n with
  | 0 => .next | 1 => .branch | 2 => .exit | _ => .trap

/-- Special-register numbers (R111). -/
def SReg.code : SReg → Nat
  | .sid => 0x000 | .slot => 0x001 | .gid => 0x002 | .team => 0x003 | .gang => 0x004 | .nstr => 0x005
  | .nteam => 0x006 | .role => 0x007 | .core => 0x008 | .exm => 0x010 | .wbase => 0x011 | .flags => 0x012
  | .gt => 0x020 | .lclk => 0x021 | .sig => 0x022 | .pkr => 0x030 | .ebase => 0x031
  | .cause => 0x040 | .fslot => 0x041 | .fpc => 0x042 | .faddr => 0x043 | .fword => 0x044
  | .step => 0x050 | .carat => 0x051 | .quota => 0x052

def SReg.ofCode (n : Nat) : Option SReg :=
  match n with
  | 0x000 => some .sid | 0x001 => some .slot | 0x002 => some .gid | 0x003 => some .team | 0x004 => some .gang
  | 0x005 => some .nstr | 0x006 => some .nteam | 0x007 => some .role | 0x008 => some .core
  | 0x010 => some .exm | 0x011 => some .wbase | 0x012 => some .flags
  | 0x020 => some .gt | 0x021 => some .lclk | 0x022 => some .sig | 0x030 => some .pkr | 0x031 => some .ebase
  | 0x040 => some .cause | 0x041 => some .fslot | 0x042 => some .fpc | 0x043 => some .faddr
  | 0x044 => some .fword | 0x050 => some .step | 0x051 => some .carat | 0x052 => some .quota
  | _ => none

/-- The opcode byte of an arithmetic operation (R27). -/
def AluOp.code : AluOp → Nat
  | .nop => 0x00 | .mov => 0x01 | .add => 0x02 | .sub => 0x03 | .mul => 0x04 | .mulh => 0x05 | .mad => 0x06
  | .addc => 0x07 | .subb => 0x08 | .min => 0x09 | .max => 0x0A | .abs => 0x0B | .neg => 0x0C | .and => 0x0D
  | .or => 0x0E | .xor => 0x0F | .andn => 0x10 | .shl => 0x11 | .shr => 0x12 | .sar => 0x13 | .rot => 0x14
  | .bfx => 0x15 | .bfi => 0x16 | .popc => 0x17 | .clz => 0x18 | .ctz => 0x19 | .fnsb => 0x1A | .brev => 0x1B
  | .sel => 0x1C | .cmp => 0x1D | .plog => 0x1E | .pmov => 0x1F | .fadd => 0x20 | .fsub => 0x21 | .fmul => 0x22
  | .ffma => 0x23 | .fmin => 0x24 | .fmax => 0x25 | .fcmp => 0x26 | .fcls => 0x27 | .rcp => 0x28 | .rsq => 0x29
  | .sqrt => 0x2A | .ex2 => 0x2B | .lg2 => 0x2C | .sinp => 0x2D | .cosp => 0x2E | .tanh => 0x2F | .cvt => 0x30
  | .cvtef => 0x31 | .qblk => 0x32 | .pack => 0x33 | .unpk => 0x34 | .dot4 => 0x35 | .fdot2 => 0x36
  | .blut => 0x37

/-- The arithmetic operations in opcode order. -/
def aluOps : List AluOp :=
  [.nop, .mov, .add, .sub, .mul, .mulh, .mad, .addc, .subb, .min, .max, .abs, .neg, .and, .or, .xor,
   .andn, .shl, .shr, .sar, .rot, .bfx, .bfi, .popc, .clz, .ctz, .fnsb, .brev, .sel, .cmp, .plog, .pmov,
   .fadd, .fsub, .fmul, .ffma, .fmin, .fmax, .fcmp, .fcls, .rcp, .rsq, .sqrt, .ex2, .lg2, .sinp, .cosp, .tanh,
   .cvt, .cvtef, .qblk, .pack, .unpk, .dot4, .fdot2, .blut]

def AluOp.ofCode (n : Nat) : Option AluOp := aluOps[n]?

/-- The instruction of an arithmetic operation. -/
def aluInstr (op : AluOp) (f : FmtA) (t : Byte) : Instr :=
  match op with
  | .nop => .nop f | .mov => .mov f | .add => .add f | .sub => .sub f | .mul => .mul f | .mulh => .mulh f
  | .mad => .mad f | .addc => .addc f | .subb => .subb f | .min => .min f | .max => .max f | .abs => .abs f
  | .neg => .neg f | .and => .and f | .or => .or f | .xor => .xor f | .andn => .andn f | .shl => .shl f
  | .shr => .shr f | .sar => .sar f | .rot => .rot f | .bfx => .bfx f | .bfi => .bfi f | .popc => .popc f
  | .clz => .clz f | .ctz => .ctz f | .fnsb => .fnsb f | .brev => .brev f | .sel => .sel f | .cmp => .cmp f
  | .plog => .plog f | .pmov => .pmov f | .fadd => .fadd f | .fsub => .fsub f | .fmul => .fmul f
  | .ffma => .ffma f | .fmin => .fmin f | .fmax => .fmax f | .fcmp => .fcmp f | .fcls => .fcls f
  | .rcp => .rcp f | .rsq => .rsq f | .sqrt => .sqrt f | .ex2 => .ex2 f | .lg2 => .lg2 f | .sinp => .sinp f
  | .cosp => .cosp f | .tanh => .tanh f | .cvt => .cvt f | .cvtef => .cvtef f | .qblk => .qblk f
  | .pack => .pack f | .unpk => .unpk f | .dot4 => .dot4 f | .fdot2 => .fdot2 f | .blut => .blut f t

/-- The Format A rows outside the arithmetic class, by opcode and fn. `t` is the byte in bits [19:12]. -/
def ctlInstr (op : Nat) (f : FmtA) (t : Byte) : Option Instr :=
  match op with
  | 0x43 => some (.jmpi f) | 0x45 => some (.calli f) | 0x46 => some (.ret f) | 0x47 => some (.rjn f)
  | 0x48 => some (.regroup f) | 0x49 => some (.exit f) | 0x4B => some (.trap f) | 0x4C => some (.iret f)
  | 0x4D => some (.bkpt f) | 0x4E => some (.sigchk f) | 0x4F => some (.sigrst f)
  | 0x50 => some (.xchg f) | 0x51 => some (.xshf f) | 0x52 => some (.scan f) | 0x53 => some (.red f)
  | 0x54 => some (.vote f) | 0x55 => some (.bcst f) | 0x56 => some (.rbal f) | 0x57 => some (.shfx f)
  | 0x58 => match f.fn.toNat with
    | 0 => some (.stepRel f) | 1 => some (.stepAbs f) | 2 => some (.stepEnd f) | _ => none
  | 0x59 => some (.launch f) | 0x5A => some (.trc f)
  | 0x5B => match f.fn.toNat with
    | 0 => some (.lclk f) | 1 => some (.lclkMrg f) | _ => none
  | 0x5C => match f.fn.toNat with
    | 0 => some (.haltbTeam f) | 1 => some (.haltbTrel f) | 2 => some (.haltbCtx f) | 3 => some (.haltbCrel f)
    | _ => none
  | 0x5D => match f.fn.toNat with
    | 0 => some (.inspKreg f) | 1 => some (.inspVreg f) | 2 => some (.inspGrp f) | 3 => some (.inspFrag f)
    | 4 => some (.inspLmem f) | 5 => some (.inspLfe f) | 6 => some (.inspBar f) | 7 => some (.inspQueue f)
    | _ => none
  | 0x5E => match f.fn.toNat with
    | 0 => some (.cmntInst f) | 1 => some (.cmntIpkg f) | 2 => some (.cmntWb f) | _ => none
  | 0x5F => match f.fn.toNat with
    | 0 => some (.atlbiPage f) | 1 => some (.atlbiAsid f) | 2 => some (.atlbiAll f) | _ => none
  | 0xA1 => some (.waitc f t) | 0xA2 => some (.bar f) | 0xA3 => some (.bara f) | 0xA4 => some (.barw f)
  | 0xA9 => some (.qtry f)
  | _ => none

/-- The Format M rows by opcode. -/
def memInstr (op : Nat) (f : FmtM) : Option Instr :=
  match op with
  | 0x80 => some (.ld f) | 0x81 => some (.st f) | 0x82 => some (.ldline f) | 0x83 => some (.stline f)
  | 0x84 => some (.ldf f) | 0x85 => some (.stf f) | 0x86 => some (.pref f) | 0x87 => some (.tagst f)
  | 0x88 => some (.tagld f)
  | 0x90 => some (.aadd f) | 0x91 => some (.amin f) | 0x92 => some (.amax f) | 0x93 => some (.aand f)
  | 0x94 => some (.aor f) | 0x95 => some (.axor f) | 0x96 => some (.aswp f) | 0x97 => some (.acas f)
  | 0x98 => some (.afadd f) | 0x99 => some (.ainc f) | 0x9A => some (.dqpush f) | 0x9B => some (.dqpop f)
  | 0x9C => some (.dqsteal f)
  | 0xA0 => some (.fence f) | 0xA5 => some (.clinit f) | 0xA6 => some (.clarr f) | 0xA7 => some (.clwait f)
  | 0xA8 => some (.cltry f)
  | _ => none

/-- The Format E rows by opcode. -/
def engInstr (op : Nat) (f : FmtE) : Option Instr :=
  match op with
  | 0xC0 => some (.cpy f) | 0xC1 => some (.cpyp f) | 0xC2 => some (.cpyg f) | 0xC3 => some (.cpys f)
  | 0xC4 => some (.cpyr f) | 0xC8 => some (.mma f) | 0xC9 => some (.mmas f) | 0xCA => some (.msca f)
  | 0xCB => some (.acz f) | 0xCC => some (.acrd f) | 0xCD => some (.acwr f)
  | _ => none

/-- The format of an opcode (R26); none when the opcode is unassigned. -/
inductive Fmt where
  | alu | special | tree | branch | region | control | mem | engine
  deriving DecidableEq, Repr

def fmtOf (op : Nat) : Option Fmt :=
  if op ≤ 0x37 then some .alu
  else if op ≤ 0x39 then some .special
  else if op = 0x40 then some .tree
  else if op = 0x41 || op = 0x42 || op = 0x44 then some .branch
  else if op = 0x4A then some .region
  else if 0x43 ≤ op && op ≤ 0x5F then some .control
  else if (0x80 ≤ op && op ≤ 0x88) || (0x90 ≤ op && op ≤ 0x9C) || op = 0xA0 || (0xA5 ≤ op && op ≤ 0xA8) then
    some .mem
  else if (0xA1 ≤ op && op ≤ 0xA4) || op = 0xA9 then some .control
  else if (0xC0 ≤ op && op ≤ 0xC4) || (0xC8 ≤ op && op ≤ 0xCD) then some .engine
  else none

/-- Whether the opcode's bits [19:12] hold a byte in place of the type and the mode: BLUT (R105) and WAITC (R220). -/
def byteOp (op : Nat) : Bool := op == 0x37 || op == 0xA1

/-- The fields of a Format A word (R28): the fields, the byte of BLUT or WAITC, and the long bit. -/
def fieldsA (w : W64) : Option (FmtA × Byte × Bool) :=
  match unpackFields widthsA w.toNat with
  | [res, long, fn, mode, ty, gn, guard, ec, eb, ea, kc, kb, ka, c, b, a, d, u, op] =>
    if res ≠ 0 then none
    else
      let byte := byteOp op
      match Ty.ofCode (if byte then 0 else ty), Mode.ofCode (if byte then 0 else mode) with
      | some t, some m =>
        some ({ u := u == 1, d := .ofNat 6 d, a := .ofNat 6 a, b := .ofNat 6 b, c := .ofNat 6 c,
                ka := ka == 1, kb := kb == 1, kc := kc == 1, ea := ea == 1, eb := eb == 1, ec := ec == 1,
                guard := .ofNat 4 guard, gn := gn == 1, ty := t, mode := m, fn := .ofNat 4 fn, lit := none },
              if byte then .ofNat 8 (mode + 8 * ty) else 0, long == 1)
      | _, _ => none
  | _ => none

def fieldsM (w : W64) : Option FmtM :=
  match unpackFields widthsM w.toNat with
  | [offset, gn, guard, prio, alloc, obs, order, space, size, ed, kbase, index, base, d, u, _] =>
    match Space.ofCode space with
    | some sp =>
      if alloc ≤ 1 then
        some { u := u == 1, d := .ofNat 6 d, base := .ofNat 6 base, index := .ofNat 6 index, kbase := kbase == 1,
               ed := ed == 1, size := .ofNat 3 size, space := sp, order := .ofNat 2 order, obs := .ofNat 6 obs,
               na := alloc == 1, prio := .ofNat 2 prio, guard := .ofNat 4 guard, gn := gn == 1,
               offset := .ofNat 12 offset }
      else none
    | none => none
  | _ => none

def fieldsB (w : W64) : Option FmtB :=
  match unpackFields widthsB w.toNat with
  | [offset, res, kind, gn, guard, _] =>
    if res ≠ 0 then none
    else some { guard := .ofNat 4 guard, gn := gn == 1, kind := .ofNat 3 kind, offset := .ofNat 40 offset }
  | _ => none

def fieldsS (w : W64) : Option FmtS :=
  match unpackFields widthsS w.toNat with
  | [res1, gn, guard, res2, er, sreg, kr, reg, u, _] =>
    if res1 ≠ 0 || res2 ≠ 0 then none
    else match SReg.ofCode sreg with
      | some s => some { u := u == 1, reg := .ofNat 6 reg, kr := kr == 1, sreg := s, er := er == 1,
                         guard := .ofNat 4 guard, gn := gn == 1 }
      | none => none
  | _ => none

def fieldsE (w : W64) : Option FmtE :=
  match unpackFields widthsE w.toNat with
  | [res, vb, spec, pbm1, pam1, zs, zd, d, u, _] =>
    if res ≠ 0 || u ≠ 1 then none
    else some { d := .ofNat 6 d, zd := .ofNat 3 zd, zs := .ofNat 3 zs, pam1 := .ofNat 3 pam1,
                pbm1 := .ofNat 3 pbm1, spec := .ofNat 5 spec, vb := .ofNat 6 vb }
  | _ => none

/-- A tree header: presence bits, arc counts and default type (R38). -/
def fieldsT (w : W64) : Option Tree :=
  match unpackFields widthsT w.toNat with
  | res :: dt :: rest =>
    if res ≠ 0 then none
    else match Ty.ofCode dt with
      | some t => some { present := ((rest.drop 14).take 7).map (· == 1),
                         counts := (rest.take 14).map (.ofNat 2), dtype := t, tests := [], leaves := [], ops := [] }
      | none => none
  | _ => none

def fieldsTest (w : W64) : Option TestNode :=
  match unpackFields widthsTest w.toNat with
  | [imm, res, bimm, eb, ea, kb, ka, b, a, ty, cond, kind] =>
    if res ≠ 0 then none
    else match TestKind.ofCode kind, Cond.ofCode cond, Ty.ofCode ty with
      | some k, some c, some t =>
        some { kind := k, cond := c, ty := t, a := .ofNat 6 a, b := .ofNat 6 b, ka := ka == 1, kb := kb == 1,
               ea := ea == 1, eb := eb == 1, bimm := bimm == 1, imm := .ofNat 32 imm }
      | _, _, _ => none
  | _ => none

/-- A leaf (R40). -/
def fieldsLeaf (n : Nat) : Leaf := { kind := LeafKind.ofCode (n / 2 ^ 30 % 4), offset := .ofNat 30 n }

/-- The opcode byte of a word. -/
def opByte (w : W64) : Nat := w.toNat / 2 ^ 56

/-- The length of the instruction whose word 0 is `w` (R25); 1 when no length can be read from it. -/
def headLen (w : W64) : Nat :=
  match fmtOf (opByte w) with
  | some .alu | some .control => if w.toNat / 128 % 2 = 1 then 2 else 1
  | some .region => 2
  | some .tree =>
    match fieldsT w with
    | some t => 1 + t.nodes + (t.nodes + 2) / 2 + (t.counts.map BitVec.toNat).sum
    | none => 1
  | _ => 1

/-- Present nodes and arc counts fix where each part of a tree's body stands: the tests, the leaf words,
then the arc operations. -/
def decodeTests (win : Nat) : Nat → Nat → List W64 → Except DecodeError (List TestNode × List W64)
  | 0, _, ws => .ok ([], ws)
  | _ + 1, i, [] => .error (.illenc i)
  | n + 1, i, w :: ws =>
    match fieldsTest w with
    | some t =>
      if legalTest t && testTop t ≤ win then
        match decodeTests win n (i + 1) ws with
        | .ok (ts, r) => .ok (t :: ts, r)
        | .error e => .error e
      else .error (.illenc i)
    | none => .error (.illenc i)

/-- `n` leaves of a tree of `len` words, two to a word (R40, R41 cases 7 to 9). -/
def decodeLeaves (len : Nat) : Nat → Nat → List W64 → Except DecodeError (List Leaf × List W64)
  | 0, _, ws => .ok ([], ws)
  | _ + 1, i, [] => .error (.illenc i)
  | 1, i, w :: ws =>
    let l := fieldsLeaf (w.toNat / 2 ^ 32)
    if legalLeaf len l && w.toNat % 2 ^ 32 == 0 then .ok ([l], ws) else .error (.illenc i)
  | n + 2, i, w :: ws =>
    let l := fieldsLeaf (w.toNat / 2 ^ 32)
    let r := fieldsLeaf (w.toNat % 2 ^ 32)
    if legalLeaf len l && legalLeaf len r then
      match decodeLeaves len n (i + 1) ws with
      | .ok (ls, rest) => .ok (l :: r :: ls, rest)
      | .error e => .error e
    else .error (.illenc i)

/-- One arc operation (R42). -/
def decodeArc (win i : Nat) (w : W64) : Except DecodeError ArcOp :=
  match fmtOf (opByte w) with
  | none => .error (.illop i)
  | some .alu =>
    match AluOp.ofCode (opByte w), fieldsA w with
    | some op, some (f, t, long) =>
      let o : ArcOp := { op := op, f := f, table := t }
      if !long && legalArc o && aluTop op f ≤ win then .ok o else .error (.illenc i)
    | _, _ => .error (.illenc i)
  | some _ => .error (.illenc i)

def decodeArcs (win : Nat) : Nat → Nat → List W64 → Except DecodeError (List ArcOp)
  | 0, _, _ => .ok []
  | _ + 1, i, [] => .error (.illenc i)
  | n + 1, i, w :: ws =>
    match decodeArc win i w with
    | .ok o =>
      match decodeArcs win n (i + 1) ws with
      | .ok os => .ok (o :: os)
      | .error e => .error e
    | .error e => .error e

/-- A tree from its words (R38-R42). -/
def decodeTree (win : Nat) (w : W64) (ws : List W64) : Except DecodeError Instr :=
  match fieldsT w with
  | none => .error (.illenc 0)
  | some t =>
    if !t.headerOk then .error (.illenc 0)
    else
      let n := t.nodes
      let arcs := (t.counts.map BitVec.toNat).sum
      let len := 1 + n + (n + 2) / 2 + arcs
      match decodeTests win n 1 ws with
      | .error e => .error e
      | .ok (tests, ws1) =>
        match decodeLeaves len (n + 1) (1 + n) ws1 with
        | .error e => .error e
        | .ok (leaves, ws2) =>
          match decodeArcs win arcs (1 + n + (n + 2) / 2) ws2 with
          | .error e => .error e
          | .ok ops => .ok (.tree { t with tests := tests, leaves := leaves, ops := ops })

/-- Accept an instruction whose fields its row accepts and whose v registers lie in the window (R29, R53). -/
def accept (win : Nat) (i : Option Instr) : Except DecodeError Instr :=
  match i with
  | some i => if legal i && windowOk win i then .ok i else .error (.illenc 0)
  | none => .error (.illenc 0)

/-- A Format A word, with the literal of word 1 when the long bit is 1. The row is checked before the literal:
the literal's fault names word 1. -/
def decodeA (win : Nat) (w : W64) (ws : List W64) (mk : FmtA → Byte → Option Instr) : Except DecodeError Instr :=
  match fieldsA w with
  | none => .error (.illenc 0)
  | some (f, t, false) => accept win (mk f t)
  | some (f, t, true) =>
    match accept win (mk { f with lit := some 0 } t) with
    | .error e => .error e
    | .ok _ =>
      match ws with
      | [] => .error (.illenc 1)
      | l :: _ =>
        match mk { f with lit := some l } t with
        | some i => if legal i then .ok i else .error (.illenc 1)
        | none => .error (.illenc 1)

/-- Decode the instruction that begins the words, in a window of `win` v registers (R53). The error of a
word depends on that word and the words before it only (R44). -/
def decode (win : Nat) : List W64 → Except DecodeError Instr
  | [] => .error (.illop 0)
  | w :: ws =>
    let op := opByte w
    match fmtOf op with
    | none => .error (.illop 0)
    | some .alu => decodeA win w ws (fun f t => (AluOp.ofCode op).map (fun o => aluInstr o f t))
    | some .control => decodeA win w ws (ctlInstr op)
    | some .special =>
      accept win ((fieldsS w).map (fun f => if op = 0x38 then .mfs f else .mts f))
    | some .tree => decodeTree win w ws
    | some .branch =>
      accept win ((fieldsB w).map (fun f => if op = 0x41 then .br f else if op = 0x42 then .bru f else .call f))
    | some .region =>
      match ws with
      | [] => .error (.illenc 1)
      | v :: _ =>
        let i : Instr := .region (.ofNat 56 w.toNat) v
        if windowOk win i then .ok i else .error (.illenc 1)
    | some .mem => accept win ((fieldsM w).bind (memInstr op))
    | some .engine => accept win ((fieldsE w).bind (engInstr op))

/-- The word of a Format A instruction. `byte` is the byte of BLUT or WAITC. -/
def wordA (op : Nat) (f : FmtA) (byte : Byte) : W64 :=
  let ty := if byteOp op then byte.toNat / 8 else f.ty.code
  let mode := if byteOp op then byte.toNat % 8 else f.mode.code
  .ofNat 64 (packFields [(7, 0), (1, bit01 f.lit.isSome), (4, f.fn.toNat), (3, mode), (5, ty), (1, bit01 f.gn),
    (4, f.guard.toNat), (1, bit01 f.ec), (1, bit01 f.eb), (1, bit01 f.ea), (1, bit01 f.kc), (1, bit01 f.kb),
    (1, bit01 f.ka), (6, f.c.toNat), (6, f.b.toNat), (6, f.a.toNat), (6, f.d.toNat), (1, bit01 f.u), (8, op)])

def encA (op : Nat) (f : FmtA) (byte : Byte) : List W64 :=
  wordA op f byte :: (match f.lit with | some l => [l] | none => [])

def wordM (op : Nat) (f : FmtM) : W64 :=
  .ofNat 64 (packFields [(12, f.offset.toNat), (1, bit01 f.gn), (4, f.guard.toNat), (2, f.prio.toNat),
    (2, bit01 f.na), (6, f.obs.toNat), (2, f.order.toNat), (3, f.space.code), (3, f.size.toNat), (1, bit01 f.ed),
    (1, bit01 f.kbase), (6, f.index.toNat), (6, f.base.toNat), (6, f.d.toNat), (1, bit01 f.u), (8, op)])

def wordB (op : Nat) (f : FmtB) : W64 :=
  .ofNat 64 (packFields [(40, f.offset.toNat), (8, 0), (3, f.kind.toNat), (1, bit01 f.gn), (4, f.guard.toNat), (8, op)])

def wordS (op : Nat) (f : FmtS) : W64 :=
  .ofNat 64 (packFields [(20, 0), (1, bit01 f.gn), (4, f.guard.toNat), (10, 0), (1, bit01 f.er), (12, f.sreg.code),
    (1, bit01 f.kr), (6, f.reg.toNat), (1, bit01 f.u), (8, op)])

def wordE (op : Nat) (f : FmtE) : W64 :=
  .ofNat 64 (packFields [(26, 0), (6, f.vb.toNat), (5, f.spec.toNat), (3, f.pbm1.toNat), (3, f.pam1.toNat),
    (3, f.zs.toNat), (3, f.zd.toNat), (6, f.d.toNat), (1, 1), (8, op)])

def wordTest (n : TestNode) : W64 :=
  .ofNat 64 (packFields [(32, n.imm.toNat), (2, 0), (1, bit01 n.bimm), (1, bit01 n.eb), (1, bit01 n.ea),
    (1, bit01 n.kb), (1, bit01 n.ka), (6, n.b.toNat), (6, n.a.toNat), (5, n.ty.code), (4, n.cond.code), (4, n.kind.code)])

def leafNat (l : Leaf) : Nat := l.kind.code * 2 ^ 30 + l.offset.toNat

/-- Leaves, two to a word, the first in the high half (R40). -/
def wordsLeaves : List Leaf → List W64
  | [] => []
  | [l] => [.ofNat 64 (leafNat l * 2 ^ 32)]
  | l :: r :: ls => .ofNat 64 (leafNat l * 2 ^ 32 + leafNat r) :: wordsLeaves ls

def wordTreeHead (t : Tree) : W64 :=
  .ofNat 64 (packFields ([(16, 0), (5, t.dtype.code)] ++ t.counts.map (fun c => (2, c.toNat))
    ++ t.present.map (fun p => (1, bit01 p)) ++ [(8, 0x40)]))

/-- The words of a well-formed instruction, from the encoding tables of R25-R42. An event of the engines
has none. -/
def encode (i : Instr) : List W64 :=
  match i.alu? with
  | some (op, f, t) => encA op.code f t
  | none =>
    match i with
    | .mfs f => [wordS 0x38 f] | .mts f => [wordS 0x39 f]
    | .tree t => wordTreeHead t :: t.tests.map wordTest ++ wordsLeaves t.leaves
        ++ t.ops.map (fun o => wordA o.op.code o.f o.table)
    | .br f => [wordB 0x41 f] | .bru f => [wordB 0x42 f] | .call f => [wordB 0x44 f]
    | .region k v => [.ofNat 64 (packFields [(56, k.toNat), (8, 0x4A)]), v]
    | .jmpi f => encA 0x43 f 0 | .calli f => encA 0x45 f 0 | .ret f => encA 0x46 f 0 | .rjn f => encA 0x47 f 0
    | .regroup f => encA 0x48 f 0 | .exit f => encA 0x49 f 0 | .trap f => encA 0x4B f 0 | .iret f => encA 0x4C f 0
    | .bkpt f => encA 0x4D f 0 | .sigchk f => encA 0x4E f 0 | .sigrst f => encA 0x4F f 0
    | .xchg f => encA 0x50 f 0 | .xshf f => encA 0x51 f 0 | .scan f => encA 0x52 f 0 | .red f => encA 0x53 f 0
    | .vote f => encA 0x54 f 0 | .bcst f => encA 0x55 f 0 | .rbal f => encA 0x56 f 0 | .shfx f => encA 0x57 f 0
    | .stepRel f | .stepAbs f | .stepEnd f => encA 0x58 f 0
    | .launch f => encA 0x59 f 0 | .trc f => encA 0x5A f 0
    | .lclk f | .lclkMrg f => encA 0x5B f 0
    | .haltbTeam f | .haltbTrel f | .haltbCtx f | .haltbCrel f => encA 0x5C f 0
    | .inspKreg f | .inspVreg f | .inspGrp f | .inspFrag f | .inspLmem f | .inspLfe f | .inspBar f
    | .inspQueue f => encA 0x5D f 0
    | .cmntInst f | .cmntIpkg f | .cmntWb f => encA 0x5E f 0
    | .atlbiPage f | .atlbiAsid f | .atlbiAll f => encA 0x5F f 0
    | .waitc f t => encA 0xA1 f t | .bar f => encA 0xA2 f 0 | .bara f => encA 0xA3 f 0 | .barw f => encA 0xA4 f 0
    | .qtry f => encA 0xA9 f 0
    | .ld f => [wordM 0x80 f] | .st f => [wordM 0x81 f] | .ldline f => [wordM 0x82 f] | .stline f => [wordM 0x83 f]
    | .ldf f => [wordM 0x84 f] | .stf f => [wordM 0x85 f] | .pref f => [wordM 0x86 f] | .tagst f => [wordM 0x87 f]
    | .tagld f => [wordM 0x88 f]
    | .aadd f => [wordM 0x90 f] | .amin f => [wordM 0x91 f] | .amax f => [wordM 0x92 f] | .aand f => [wordM 0x93 f]
    | .aor f => [wordM 0x94 f] | .axor f => [wordM 0x95 f] | .aswp f => [wordM 0x96 f] | .acas f => [wordM 0x97 f]
    | .afadd f => [wordM 0x98 f] | .ainc f => [wordM 0x99 f] | .dqpush f => [wordM 0x9A f]
    | .dqpop f => [wordM 0x9B f] | .dqsteal f => [wordM 0x9C f]
    | .fence f => [wordM 0xA0 f] | .clinit f => [wordM 0xA5 f] | .clarr f => [wordM 0xA6 f]
    | .clwait f => [wordM 0xA7 f] | .cltry f => [wordM 0xA8 f]
    | .cpy f => [wordE 0xC0 f] | .cpyp f => [wordE 0xC1 f] | .cpyg f => [wordE 0xC2 f] | .cpys f => [wordE 0xC3 f]
    | .cpyr f => [wordE 0xC4 f] | .mma f => [wordE 0xC8 f] | .mmas f => [wordE 0xC9 f] | .msca f => [wordE 0xCA f]
    | .acz f => [wordE 0xCB f] | .acrd f => [wordE 0xCC f] | .acwr f => [wordE 0xCD f]
    | _ => []

/-- The words of a number laid out with word 0 in its lowest 64 bits. -/
def wordsOfNat : Nat → Nat → List W64
  | 0, _ => []
  | k + 1, n => .ofNat 64 n :: wordsOfNat k (n / 2 ^ 64)

/-- The longest instruction: a TREE of 7 nodes with 12 arc operations (R25). -/
def maxWords : Nat := 24

/-- What the decoder reads from bits numbered as the opcode table numbers them, in a full window. -/
def decodeTableWord (_nbits w : Nat) : Option Instr :=
  match decode 64 (wordsOfNat maxWords w) with
  | .ok i => some i
  | .error _ => none

end Sys2Proof
end

