-- ==== Sys2Proof/Machine/Ops.lean ====
section
/-! DEFINITION. The named operations over the state that every engine shares: access to cores, groups,
fragments, teams and strands; registers; charges (R304); Signet (R341); trace records (R329-R331); barriers
(R208); strands leaving (R130); splits and merges (R113-R115); taking an exception (R154-R162) and killing a
group (R173). -/

namespace Sys2Proof.Machine

/-! ## Access -/

def State.core (s : State) (c : Nat) : Core := s.cores.get {} c
def State.setCore (s : State) (c : Nat) (x : Core) : State := { s with cores := s.cores.set c x }
def State.modCore (s : State) (c : Nat) (f : Core → Core) : State := s.setCore c (f (s.core c))
def State.die (s : State) (d : Nat) : Die := s.dies.get {} d
def State.setDie (s : State) (d : Nat) (x : Die) : State := { s with dies := s.dies.set d x }
def State.modDie (s : State) (d : Nat) (f : Die → Die) : State := s.setDie d (f (s.die d))

def State.part (s : State) (p : Nat) : Part := s.parts.get {} p
def State.setPart (s : State) (p : Nat) (x : Part) : State := { s with parts := s.parts.set p x }
def State.modPart (s : State) (p : Nat) (f : Part → Part) : State := s.setPart p (f (s.part p))

/-- The die and cluster of a core (R6): 24 cores to a die, 8 to a cluster. -/
def dieOf (core : Nat) : Nat := core / 24
def clusterOf (core : Nat) : Nat := core / 8

def State.group (s : State) (c h : Nat) : GroupSlot := (s.core c).groups.get {} h
def State.setGroup (s : State) (c h : Nat) (g : GroupSlot) : State :=
  s.modCore c (fun k => { k with groups := k.groups.set h g })
def State.modGroup (s : State) (c h : Nat) (f : GroupSlot → GroupSlot) : State := s.setGroup c h (f (s.group c h))

def State.team (s : State) (c t : Nat) : Team := (s.core c).teams.get {} t
def State.setTeam (s : State) (c t : Nat) (x : Team) : State :=
  s.modCore c (fun k => { k with teams := k.teams.set t x })
def State.modTeam (s : State) (c t : Nat) (f : Team → Team) : State := s.setTeam c t (f (s.team c t))
def State.teamOf (s : State) (c h : Nat) : Team := s.team c (s.group c h).team

def State.frag (s : State) (r : FragRef) : Frag := (s.group r.core r.hslot).frags.get {} r.entry
def State.setFrag (s : State) (r : FragRef) (f : Frag) : State :=
  s.modGroup r.core r.hslot (fun g => { g with frags := g.frags.set r.entry f })
def State.modFrag (s : State) (r : FragRef) (f : Frag → Frag) : State := s.setFrag r (f (s.frag r))

def State.strand (s : State) (c t sid : Nat) : Strand := (s.team c t).strands.get {} sid
def State.setStrand (s : State) (c t sid : Nat) (x : Strand) : State :=
  s.modTeam c t (fun k => { k with strands := k.strands.set sid x })

/-- A fresh identity. -/
def State.fresh (s : State) : Nat × State := (s.nextId, { s with nextId := s.nextId + 1 })

/-- The group slots of a core that a team holds, with their numbers. -/
def State.teamGroups (s : State) (c t : Nat) : List (Nat × GroupSlot) :=
  (s.core c).groups.filter (fun p => p.2.alloc && p.2.team == t)

/-! ## Masks and slots -/

def slotsOf (m : W32) : List Nat := (List.range 32).filter m.getLsbD
def maskOf (l : List Nat) : W32 := l.foldl (fun m i => m ||| (1#32 <<< i)) 0#32
def lowest (m : W32) : Option Nat := (slotsOf m).head?

/-- The reference slot (R49). -/
def Frag.refSlot (f : Frag) : Nat := ((lowest f.e).orElse (fun _ => lowest f.m)).getD 0

def sidOf (g : GroupSlot) (slot : Nat) : Nat := g.sids.get 0 slot

/-- The window size w (R46, R53). -/
def budgetOf (t : Team) (role : Nat) : Nat := t.budgets.get 64 role
def windowOf (t : Team) (role : Nat) : Nat := Nat.min 64 (budgetOf t role)

/-! ## Registers -/

def State.vreg (s : State) (c t sid pos : Nat) : VReg := (s.strand c t sid).regs.get {} pos

def State.setVreg (s : State) (c t sid pos : Nat) (r : VReg) : State :=
  s.modTeam c t (fun k => { k with strands := k.strands.update {} sid (fun x => { x with regs := x.regs.set pos r }) })

def State.kreg (s : State) (c h n : Nat) : KReg := (s.group c h).k.get {} n

def State.setKreg (s : State) (c h n : Nat) (r : KReg) : State :=
  s.modGroup c h (fun g => { g with k := g.k.set n r })

/-- q0-q14 with q15 reading true (R46). -/
def Strand.preds16 (x : Strand) : BitVec 16 := (1#1 ++ x.preds : BitVec 16)

def setPred (p : BitVec 15) (i : Nat) (b : Bool) : BitVec 15 :=
  if b then p ||| (1#15 <<< i) else p &&& ~~~(1#15 <<< i)

def State.setStrandPred (s : State) (c t sid i : Nat) (b : Bool) : State :=
  s.modTeam c t (fun k =>
    { k with strands := k.strands.update {} sid (fun x => { x with preds := setPred x.preds i b }) })

/-! ## Carats (R304-R307) -/

/-- Whether a note is of an earlier pass of a fragment with these members (R51). -/
def ownNote (mine m : W32) : Bool := m &&& mine != 0

/-- The writes of a register that are noted: the value before, the members of the writer, and the cycle from which it is read. -/
def Late.ofK (n : Nat) : Late → Option (W64 × W32 × Nat)
  | .kreg k old m t => if k = n then some (old, m, t) else none
  | _ => none

/-- Whether a note is of the flags. -/
def Late.isFlag : Late → Bool
  | .fset .. | .fput .. => true
  | _ => false

/-- What is read of a register whose last writes are noted in order: what the latest write that is visible left, else what stood
before them all (R56). -/
def seen (vis : W64 × W32 × Nat → Bool) (newest : W64) : List (W64 × W32 × Nat) → W64
  | [] => newest
  | x :: rest => if (x :: rest).any vis then seen vis newest rest else x.1

/-- A register with notes as a fragment of these members reads it in a cycle (R56, R112). -/
def lateSeen (g : GroupSlot) (m : W32) (n now : Nat) (newest : W64) : W64 :=
  seen (fun x => ownNote m x.2.1 || decide (x.2.2 ≤ now)) newest (g.late.filterMap (Late.ofK n))

def kSeen (g : GroupSlot) (m : W32) (n now : Nat) : W64 := lateSeen g m n now (g.k.get {} n).val

/-- The rights of %pkr for an access of a pass that starts in a cycle: a write of MTS counts from the cycle after it (R112). -/
def pkrAt (g : GroupSlot) (start : Nat) : W64 :=
  seen (fun x => decide (x.2.2 < start + 4)) g.pkr (g.late.filterMap (Late.ofK 64))

/-- The cycle from which a fragment of these members reads its own last write of a register (R51). -/
def ownReady (g : GroupSlot) (m : W32) (n : Nat) : Nat :=
  ((g.late.filterMap (Late.ofK n)).map (fun x => if ownNote m x.2.1 then x.2.2 else 0)).foldl Nat.max 0

/-- The flags in a cycle, from those before some notes of them: a set counts once it is in effect; a write replaces the flags of
its cycle, keeps the sets that take effect later, and is seen 4 cycles later (R69, R112). `sets` are those met so far. -/
def flagsIn (now : Nat) (sets : List (BitVec 5 × Nat)) (v : BitVec 5) : List Late → BitVec 5
  | [] => v
  | .fset b _ t :: r => flagsIn now ((b, t) :: sets) (if t ≤ now then v ||| b else v) r
  | .fput w _ c :: r =>
    let newer := (sets.filter (fun x => c < x.2 && decide (x.2 ≤ now))).foldl (fun a x => a ||| x.1) w
    flagsIn now sets (if c + 4 ≤ now then newer else v) r
  | _ :: r => flagsIn now sets v r

def flagsSeen (g : GroupSlot) (now : Nat) : BitVec 5 :=
  if g.late.any Late.isFlag then flagsIn now [] g.flags0 g.late else g.flags

/-- Whether a note hides nothing any more: seen by all, or overtaken by a later write of its register that is. -/
def Late.stale (now : Nat) (x : Late) (later : List Late) : Bool :=
  match x with
  | .kreg n _ _ t => decide (t ≤ now) || later.any (fun y => match y with | .kreg k _ _ u => k == n && decide (u ≤ now) | _ => false)
  | .carat _ t => decide (t ≤ now)
  | _ => false

def dropStale (now : Nat) : List Late → List Late
  | [] => []
  | x :: r => if x.stale now r then dropStale now r else x :: dropStale now r

/-- Note something of a pass that is seen later; what hides nothing any more is dropped. -/
def addLate (now : Nat) (l : List Late) (x : Late) : List Late := dropStale now l ++ [x]

/-- Note a set or a write of the flags. Sets that are in effect join the flags before them, unless a write is still to be seen. -/
def noteFlags (g : GroupSlot) (now : Nat) (x : Late) : GroupSlot :=
  let ls := g.late.filter Late.isFlag
  let open_ (y : Late) : Bool := match y with | .fset _ _ t => decide (now < t) | .fput _ _ c => decide (now < c + 4) | _ => false
  let openPut (y : Late) : Bool := match y with | .fput .. => open_ y | _ => false
  let kept := if ls.any openPut then ls else ls.filter open_
  let base := if ls.isEmpty then g.flags else if ls.any openPut then g.flags0 else flagsIn now [] g.flags0 ls
  { g with flags0 := base, late := g.late.filter (fun y => !y.isFlag) ++ kept ++ [x] }

/-- Flags set by members, in effect from a cycle on (R68, R69). -/
def GroupSlot.setFlags (g : GroupSlot) (b : BitVec 5) (m : W32) (at_ now : Nat) : GroupSlot :=
  { noteFlags g now (.fset b m at_) with flags := g.flags ||| b }

/-- The carats that MFS reads in a cycle (R307). -/
def caratSeen (g : GroupSlot) (now : Nat) : Nat :=
  g.carat - (g.late.map (fun x => match x with | .carat n t => if now < t then n else 0 | _ => 0)).sum

/-- A charge made in a cycle counts to the step that was opened before that cycle (R309). -/
def StepRec.add (x : StepRec) (n now : Nat) : StepRec :=
  if x.opened && now ≤ x.cycle then x else { x with charged := x.charged + n, periodCarat := x.periodCarat + n }

/-- The carats that a pass has charged in cycles after a given one. -/
def caratsAfter (l : List Late) (cycle : Nat) : Nat :=
  (l.map (fun x => match x with | .carat n t => if cycle + 4 < t then n else 0 | _ => 0)).sum

/-- Add a charge made in a cycle to the group, its context and its cluster (R304); MFS sees it 4 cycles later (R307). -/
def chargeAt (s : State) (c h n now : Nat) : State :=
  if n = 0 then s
  else
    let asid := (s.teamOf c h).ctx.asid
    let cycle := (s.core c).cycle
    let s := s.modGroup c h (fun g =>
      { g with carat := g.carat + n, late := addLate cycle g.late (.carat n (now + 4)),
               step := g.step.add n now })
    { s with qsub := s.qsub.update 0 (clusterOf c * 65536 + asid) (· + n),
             clen := s.clen.update 0 (clusterOf c) (· + n) }

/-- A charge of the core's present cycle. -/
def charge (s : State) (c h n : Nat) : State := chargeAt s c h n (s.core c).cycle

/-- The opcode weight (R305). -/
def weightOf (op : Nat) : Nat :=
  if op = 0x00 then 0
  else if op ≤ 0x03 then 1
  else if op ≤ 0x06 then 3
  else if op ≤ 0x1F then 1
  else if op ≤ 0x21 || op = 0x30 then 2
  else if op = 0x22 || op = 0x31 then 3
  else if op = 0x23 || op = 0x32 || op = 0x35 then 4
  else if (0x28 ≤ op && op ≤ 0x2F) then 8
  else if op = 0x36 then 5
  else if op ≤ 0x39 then 1
  else if op = 0x40 then 0
  else if op ≤ 0x4F then 1
  else if op = 0x50 || op = 0x51 || op = 0x57 then 3
  else if op ≤ 0x55 then 2
  else if op = 0x56 || (0x5C ≤ op && op ≤ 0x5F) then 4
  else if op = 0x58 || op = 0x5A || op = 0x5B then 1
  else if op = 0x59 then 8
  else if op = 0x80 || op = 0x81 || op = 0x87 || op = 0x88 then 6
  else if op = 0x82 || op = 0x83 then 48
  else if op = 0x84 || op = 0x85 then 4
  else if op = 0x86 then 2
  else if op ≤ 0x99 then 10
  else if op ≤ 0x9C then 16
  else if op ≤ 0xA4 || op = 0xA9 then 1
  else if op ≤ 0xA8 then 3
  else 2

/-- Whether a fragment is in its pass until an access to another core's part performs (R145). -/
def Wait.isRemote : Wait → Bool
  | .remote _ => true
  | _ => false

/-- The lane of a fragment that is in a pass, and the cycle in which its lane takes the next strand. -/
def laneOf (s : State) (r : FragRef) : Nat := (s.frag r).lane.getD 0
def laneNow (s : State) (r : FragRef) : Nat := (s.core r.core).lanes.get 0 (laneOf s r)

/-- The lane of a pass moves on by cycles (R50), which LCNT0 counts (R337). -/
def tickLane (s : State) (r : FragRef) (n : Nat) : State :=
  s.modCore r.core (fun k => { k with lanes := k.lanes.update 0 (laneOf s r) (· + n),
                                      regs := k.regs.set 0x500 (k.regs.get 0 0x500 + .ofNat 64 n) })

/-- A strand, or a uniform instruction, has executed: its charge in its cycle, and its lane cycles (R50, R304). -/
def spend (s : State) (r : FragRef) (w cycles : Nat) : State :=
  tickLane (chargeAt s r.core r.hslot w (laneNow s r)) r cycles

/-- The result latency of an arithmetic operation (R50, R86): 12 of a special function, 4 of another uniform form (log entry 51). -/
def latencyOf (op : Nat) (t : Ty) (uni : Bool) : Nat :=
  if 0x28 ≤ op && op ≤ 0x2F then 12
  else if uni then 4
  else if op = 0x31 || op = 0x36 || t.is64 then 5 else 4

/-- Twice the weight for 64-bit and packed types, FDOT2 apart (R304). -/
def typeFactor (op : Nat) (t : Ty) : Nat := if op != 0x36 && (t.is64 || t.isPair) then 2 else 1

/-! ## Clocks (R312, R313) -/

/-- Units of a core's phase in one ns. -/
def phaseUnit : Nat := 232792560

/-- The domain of a cluster (R317). -/
def domainOf (s : State) (cluster : Nat) : Nat := (s.gov.regs.get 0 0).toNat / 4 ^ cluster % 4

def pointOf (s : State) (cluster : Nat) : Nat := (s.gov.domains.get {} (domainOf s cluster)).cur

/-- The length of a core cycle at a point: 0.6 + 0.1 p GHz (R312). -/
def periodAt (p : Nat) : Nat := phaseUnit * 10 / (6 + p)

/-- GT in a cycle of a core, the present one or a later one of a pass (R110). -/
def gtIn (s : State) (c cycle : Nat) : Nat :=
  let k := s.core c
  match cycle - k.cycle with
  | 0 => s.gt
  | j + 1 => Nat.max s.gt ((k.phase + j * periodAt (pointOf s (clusterOf c))) / phaseUnit)

/-! ## Signet (R341) -/

/-- One bit of the reflected CRC-32C. -/
def crcBit (v : Nat) : Nat := if v % 2 = 1 then (v / 2) ^^^ 0x82F63B78 else v / 2

def crcBits : Nat → Nat → Nat
  | 0, v => v
  | k + 1, v => crcBits k (crcBit v)

/-- crc(v, w): the eight bytes of w in little-endian order, each entering at the low byte. -/
def crcBytes : Nat → Nat → Nat → Nat
  | 0, v, _ => v
  | k + 1, v, w => crcBytes k (crcBits 8 (v ^^^ (w % 256))) (w / 256)

def crc (v : W32) (w : W64) : W32 := .ofNat 32 (crcBytes 8 v.toNat w.toNat)

/-- The slot whose signature is the fragment's. -/
def sigSlot (f : Frag) : Nat := (lowest f.m).getD 0
def sigOf (g : GroupSlot) (f : Frag) : W32 := g.sig.get 0 (sigSlot f)
def setSig (g : GroupSlot) (slot : Nat) (v : W32) : GroupSlot := { g with sig := g.sig.set slot v }

/-! ## Lamport clocks and trace records (R328-R331) -/

/-- A Lamport clock after a value, of 64 bits (R328). -/
def clockNext (v : Nat) : Nat := (v + 1) % 2 ^ 64

/-- Add 1 to a group's clock for an event it sends; the new value is the carried one. -/
def tickClock (s : State) (c h : Nat) : State := s.modGroup c h (fun g => { g with lclk := clockNext g.lclk })

def receiveClock (s : State) (c h v : Nat) : State :=
  s.modGroup c h (fun g => { g with lclk := clockNext (Nat.max g.lclk v) })

/-- Bytes of a word, little-endian. -/
def wordBytes : Nat → Nat → List Byte
  | 0, _ => []
  | k + 1, w => .ofNat 8 w :: wordBytes k (w / 256)

def bytesNat : List Byte → Nat
  | [] => 0
  | b :: r => b.toNat + 256 * bytesNat r

/-- List bytes at consecutive keys. -/
def putBytes (m : SMap Byte) (at_ : Nat) : List Byte → SMap Byte
  | [] => m
  | b :: r => putBytes (m.set at_ b) (at_ + 1) r

/-- The die of a local physical address (R183). -/
def dieOfPa (pa : Nat) : Nat := pa / 2 ^ 35 % 8

/-- Add to a die counter LDCNTn (R337). -/
def bumpDie (s : State) (d n k : Nat) : State :=
  s.modDie d (fun x => { x with regs := x.regs.set (0x4060 + 8 * n) (x.regs.get 0 (0x4060 + 8 * n) + .ofNat 64 k) })

/-- Put a line in front of a memory-side cache of 16 ways and 2,048 sets; in a full set the least recently used line of the
lowest priority present leaves (R179, R180). -/
def mscPut (ls : List (Nat × Nat)) (pl prio : Nat) : List (Nat × Nat) :=
  let set := ls.filter (fun x => x.1 % 2048 == pl % 2048)
  if set.length < 16 then (pl, prio) :: ls
  else
    let low := set.foldl (fun m x => Nat.min m x.2) 3
    match (set.filter (fun x => x.2 == low)).getLast? with
    | some v => (pl, prio) :: ls.filter (fun x => x.1 != v.1)
    | none => (pl, prio) :: ls

/-- A physical line is used at the memory-side cache of its home: a hit refreshes it; a miss takes a DRAM transfer and, unless
the hint forbids it, lets the line in with a priority, when its lease length starts anew (R179, R225, R240, R337; log entry 19
for the accesses that have no hint). -/
def mscUse (s : State) (pl : Nat) (hint : Option Nat) : State :=
  let d := dieOfPa (pl * 256)
  match (s.die d).msc.find? (fun x => x.1 == pl) with
  | some e => bumpDie (s.modDie d (fun x => { x with msc := e :: x.msc.filter (fun y => y.1 != pl) })) d 2 1
  | none =>
    let s := bumpDie (bumpDie s d 3 1) d 4 1
    match hint with
    | none => s
    | some prio =>
      let s := s.modDie d (fun x => { x with msc := mscPut x.msc pl prio })
      { s with homes := s.homes.update {} pl (fun h => { h with len := 256 }) }

/-- The write-completion time of an arrival at GT (R223 S5). -/
def homeTime (gt : Nat) (h : HomeLine) : Nat :=
  let last := h.pending.foldl (fun m p => Nat.max m (p.t.getD 0)) 0
  Nat.max gt (Nat.max h.lmax last) + 1

/-- An arrival at a home line under an allocation hint (R223 S5, R225): the entry takes its time, above the last T of its
link's posted writes (R228), and the lease length reacts. -/
def arriveHint (s : State) (line last : Nat) (hint : Option Nat) (p : Pend) : Nat × State :=
  let s := mscUse s line hint
  let h := s.homes.get {} line
  let t := Nat.max (homeTime s.gt h) (last + 1)
  let len := if s.gt + 1 < t then Nat.max 32 (h.len / 2) else h.len
  let h' : HomeLine := { h with len := len, quiet := false, pending := h.pending ++ [{ p with t := some t }] }
  (t, { s with homes := s.homes.set line h' })

/-- An arrival that carries no hint. -/
def arriveAfter (s : State) (line last : Nat) (p : Pend) : Nat × State := arriveHint s line last (some 0) p

/-- An arrival that no link orders. -/
def arriveAt (s : State) (line : Nat) (p : Pend) : Nat × State := arriveAfter s line 0 p

/-- A write of the device's own engines to physical memory within one line. -/
def engineWrite (s : State) (pa : Nat) (bytes : List Byte) (p : Pend) : State :=
  (arriveAt s (pa / 256) { p with bytes := putBytes [] (pa % 256) bytes }).2

/-- A trace record of a kind (R329-R331) for an instruction at a PC, of an event that has ticked its clock: written to the die's
ring as an engine write, or dropped. -/
def putTrace (s : State) (c h kind code slot : Nat) (payload : Nat) (pc : W64) (e : W32) : State :=
  if !((s.core c).regs.get 0 0x408).getLsbD kind then s
  else
    let d := dieOf c
    let dd := s.die d
    let ring := (dd.regs.get 0 0x4000).toNat
    let l := ring % 32
    let n := 2 ^ (if 6 ≤ l && l ≤ 24 then l else 6)
    let old := (dd.traceTimes.find? (fun p => p.1 + n == dd.traced)).map Prod.snd
    let tooYoung : Bool := match old with | some t => decide (s.gt < t + n * 1000000) | none => false
    if tooYoung then
      s.modDie d (fun x => { x with regs := x.regs.set 0x4010 (x.regs.get 0 0x4010 + 1) })
    else
      let base := ring / 4096 % 2 ^ 40 * 4096
      let w0 := kind * 2 ^ 60 + code * 2 ^ 56 + c * 2 ^ 48 + h * 2 ^ 42 + slot * 2 ^ 37 + e.toNat
      let words := [w0, pc.toNat, payload, (s.group c h).lclk]
      let s := engineWrite s (base + 32 * (dd.traced % n)) ((words.map (wordBytes 8)).flatten)
        { t := none, ring := some (d, dd.traced) }
      s.modDie d (fun x => { x with traced := x.traced + 1, traceOut := x.traceOut ++ [dd.traced],
                                    traceTimes := (dd.traced, s.gt) :: x.traceTimes })

/-- Emit a trace record: the event adds 1 to its clock (R328). -/
def emitTraceAt (s : State) (c h kind code slot : Nat) (payload : Nat) (pc : W64) (e : W32) : State :=
  putTrace (if ((s.core c).regs.get 0 0x408).getLsbD kind then tickClock s c h else s) c h kind code slot payload pc e

/-- A trace record of the instruction a fragment stands at. -/
def emitTrace (s : State) (r : FragRef) (kind code slot : Nat) (payload : Nat) : State :=
  emitTraceAt s r.core r.hslot kind code slot payload (s.frag r).pc (s.frag r).e

/-! ## Notices (R160) -/

/-- Queue a notice to the supervisor of a partition (R297). -/
def queueNotice (s : State) (part : Nat) (n : Notice) : State :=
  { s with notices := s.notices.update [] part (· ++ [{ n with gt := s.gt }]) }

/-- The address of a group's 20 KiB fault area (R157). -/
def faultArea (t : Team) (g : GroupSlot) : W64 := t.farea + .ofNat 64 (g.gid * 20480)

/-- A posted write of the core's own into the fault area of a group, in a context. -/
def postTo (s : State) (c h asid : Nat) (va : W64) (bytes : List Byte) : State :=
  let (id, s) := s.fresh
  let a := va.toNat % 2 ^ 57
  let p : Posted := { id := id, kind := .hardware, core := c, hslot := h, line := a / 256, asid := asid,
                      bytes := putBytes [] (a % 256) bytes }
  { s with posted := s.posted ++ [p] }

def postHardware (s : State) (c h : Nat) (va : W64) (bytes : List Byte) : State :=
  postTo s c h (s.teamOf c h).ctx.asid va bytes

/-- Write the log header: the record count, and GT at the oldest record (R157). -/
def writeLogHeader (s : State) (c h : Nat) : State :=
  let g := s.group c h
  postHardware s c h (faultArea (s.teamOf c h) g + 0x1000) (wordBytes 8 g.log.length ++ wordBytes 8 g.logGt)

/-- Discard the records of a group's log, if it holds any; the header follows (R157). -/
def clearLog (s : State) (c h : Nat) : State :=
  if (s.group c h).log.isEmpty then s else writeLogHeader (s.modGroup c h (fun g => { g with log := [] })) c h

/-- A notice about a group slot (R160). -/
def groupNotice (s : State) (c h kind cause : Nat) : Notice :=
  let g := s.group c h
  let t := s.teamOf c h
  { kind := kind, cause := cause, core := c, hslot := h, gid := g.gid, fslot := g.fslot, team := t.index,
    asid := t.ctx.asid, fpc := g.fpc, faddr := g.faddr, fword := g.fword, area := faultArea t g,
    launch := t.launch }

/-- A fragment at the start of an instruction. -/
def Frag.restart (f : Frag) (pc : W64) (cycle : Nat) : Frag :=
  { f with pc := pc, wait := .ready, resume := 0, kept := {}, succs := [], mid := false, released := false,
           switched := false, ireg := none, skip := none, instr := none, follow := none, since := cycle,
           faulted := false, delay := 0 }

/-! ## Entries, spilled pieces and merges (R48, R114-R116, R169) -/

/-- The lowest free fragment entry. -/
def freeEntry (g : GroupSlot) : Option Nat :=
  (List.range 8).find? (fun e => (g.frags.find? e).isNone)

/-- The cycle from which a fragment is a candidate: on its lane, once its last pass has ended (R52). -/
def Core.readyAt (k : Core) (f : Frag) : Nat :=
  match f.lane with
  | some l => Nat.max f.since (k.lanes.get 0 l)
  | none => f.since

def Frag.toSpill (f : Frag) (cycle : Nat) : SpillRec :=
  { pc := f.pc, m := f.m, e := f.e, wbase := f.wbase, region := f.region, wait := f.wait,
    acquires := f.acquires, xpc := f.xpc, xword := f.xword, since := cycle }

/-- A piece back from the FIFO: its last pass counts as started with its return (log entry 55). -/
def SpillRec.toFrag (p : SpillRec) (cycle : Nat) : Frag :=
  { pc := p.pc, m := p.m, e := p.e, wbase := p.wbase, region := p.region, wait := p.wait,
    acquires := p.acquires, xpc := p.xpc, xword := p.xword, since := cycle, lastStart := cycle }

/-- Standing at the start of its instruction and free to merge (R115). -/
def mergeable (f : Frag) : Bool := !f.mid && (f.wait == .ready || f.wait == .rjn)

/-- Whether the fragment of an entry carries a fault of its group that is recorded or held (R115). -/
def carriesFault (g : GroupSlot) (e : Nat) : Bool :=
  (match g.fault with | some x => x.entry == e | none => false) || g.heldTraps.any (fun x => x.2.entry == e)

/-- Whether an entry runs its group's handler. -/
def runsHandler (g : GroupSlot) (e : Nat) : Bool :=
  g.inHandler && (match g.fault with | some f => f.entry == e | none => false)

/-- Snapshots of the strands named by slots, as they stand (R166). -/
def snapshot (t : Team) (g : GroupSlot) (m : W32) : SMap (BitVec 15) :=
  (slotsOf m).foldl (fun acc sl => acc.set (sidOf g sl) (t.strands.get {} (sidOf g sl)).preds) []

/-- An implicit region (R169): every v position of the window live-in, the k mask given. -/
def implicitRegion (s : State) (c h : Nat) (pc : W64) (wbase : Nat) (m e : W32) (klive : BitVec 56) :
    Region × State :=
  let (id, s) := s.fresh
  let g := s.group c h
  let t := s.teamOf c h
  let w := windowOf t g.role
  ({ opening := id, pc := pc, base := wbase, vlive := .ofNat 64 (2 ^ w - 1), klive := klive,
     entryE := (slotsOf e).map (sidOf g), snap := snapshot t g m }, s)

/-- The region of two merged fragments (R169). -/
def mergeRegions (s : State) (c h : Nat) (a b : Frag) (m e : W32) : Region × State :=
  if a.region.opening = b.region.opening then
    ({ a.region with entryE := a.region.entryE ++ b.region.entryE.filter (fun i => !a.region.entryE.contains i),
                     snap := b.region.snap.foldl (fun acc p => acc.set p.1 p.2) a.region.snap }, s)
  else implicitRegion s c h a.pc a.wbase m e (a.region.klive ||| b.region.klive)

/-- Whether a fragment may merge with the one of an entry of its group (R115). -/
def canMerge (g : GroupSlot) (a : Frag) (q : Nat × Frag) : Bool :=
  mergeable a && mergeable q.2 && !carriesFault g q.1 && a.pc == q.2.pc && a.wbase == q.2.wbase

/-- Whether a fragment of an entry has been chosen to start a pass in this cycle, and so stands at its instruction no more. -/
def State.chosen (s : State) (c h e : Nat) : Bool :=
  let r : FragRef := { core := c, hslot := h, entry := e }
  s.cur == some r || s.starts.contains r

/-- The entry, if any, that a fragment standing at (pc, wbase) merges with. -/
def mergePartner (s : State) (c h e : Nat) (f : Frag) : Option (Nat × Frag) :=
  let g := s.group c h
  if carriesFault g e then none
  else List.find? (fun p => p.1 != e && canMerge g f p && !s.chosen c h p.1) g.frags

/-- Whether the context of a group is held by its quota, so that its fragments do not merge (R115, R315). -/
def quotaHeld (s : State) (c h : Nat) : Bool := s.held.contains (s.teamOf c h).ctx.asid

/-- A Signet population check has failed (R342): SIG-FAIL is recorded for the fragment of an entry at its reference slot,
and taken when the group is looked at next. %fword is filled in then. -/
def noteSigFail (s : State) (c h e : Nat) : State :=
  let g := s.group c h
  let f := g.frags.get {} e
  if g.fault.isSome then s
  else
    let x : FaultRec := { entry := e, cause := 20, fslot := f.refSlot, fpc := f.pc, faddr := f.pc, fword := 0,
                          heldE := f.e, pc := f.pc, slot := 0 }
    (emitTraceAt s c h 3 0 x.fslot (20 + x.fslot * 256) f.pc f.e).modGroup c h (fun g => { g with fault := some x })

/-- Merge the fragment in entry `e` with a partner where the rule allows (R115): the lower member's entry
stays, the other frees. A membership that overlaps leaves the entries alone and raises SIG-FAIL (R342). -/
def mergeOnce (s : State) (c h e : Nat) : State :=
  let g := s.group c h
  match g.frags.find? e with
  | none => s
  | some f =>
    match (if quotaHeld s c h then none else mergePartner s c h e f) with
    | none => s
    | some (e', f') =>
      if f.m &&& f'.m != 0 then noteSigFail s c h e
      else
        let m := f.m ||| f'.m
        let ee := f.e ||| f'.e
        let (keep, drop) := if (lowest f.m).getD 32 < (lowest f'.m).getD 32 then (e, e') else (e', e)
        let (reg, s) := mergeRegions s c h f f' m ee
        let w : Wait := if f.wait == .rjn && f'.wait == .rjn then .rjn else .ready
        let nf : Frag := { pc := f.pc, m := m, e := ee, wbase := f.wbase, wait := w, region := reg,
                           acquires := f.acquires ++ f'.acquires, since := Nat.max (s.core c).cycle (Nat.max ((s.core c).readyAt f) ((s.core c).readyAt f')), xpc := f.xpc,
                           xword := f.xword, delay := if f'.since ≤ f.since then f.delay else f'.delay,
                           lastStart := Nat.max f.lastStart f'.lastStart, lane := f.lane.orElse (fun _ => f'.lane),
                           run := if f.lane.isSome then f.run else f'.run }
        let g := s.group c h
        let g := { g with frags := (g.frags.erase drop).set keep nf }
        let s := s.setGroup c h (setSig g ((lowest m).getD 0) (crc 0 f.pc))
        emitTrace s { core := c, hslot := h, entry := keep } 2 0 nf.refSlot m.toNat

/-- Let the head of the spill FIFO return to a free entry (R48). -/
def returnSpilled (s : State) (c h : Nat) : State :=
  let g := s.group c h
  match freeEntry g, g.spill with
  | some e, p :: rest =>
    let s := s.setGroup c h { g with spill := rest, frags := g.frags.set e (p.toFrag (s.core c).cycle) }
    mergeOnce s c h e
  | _, _ => s

/-- Return pieces while entries are free: at most the 24 of the FIFO. -/
def returnAll : Nat → State → Nat → Nat → State
  | 0, s, _, _ => s
  | n + 1, s, c, h =>
    let g := s.group c h
    if g.spill.isEmpty || (freeEntry g).isNone then s else returnAll n (returnSpilled s c h) c h

/-- Merge where the rule allows, and let pieces return to freed entries. -/
def settleAt (s : State) (c h e : Nat) : State := returnAll 24 (mergeOnce s c h e) c h

/-- Free the entries of fragments without members. -/
def dropEmpty (s : State) (c h : Nat) : State :=
  let s := s.modGroup c h (fun g =>
    { g with frags := g.frags.filter (fun p => p.2.m != 0), spill := g.spill.filter (fun p => p.m != 0) })
  returnAll 24 s c h

/-! ## Barriers (R208, R209) -/

/-- %sid of every live strand of a team. -/
def liveSids (t : Team) : List Nat := (t.strands.filter (fun p => p.2.live)).map Prod.fst

/-- Complete a waiter of a barrier: the k register takes the status and the fragment goes on at the next
instruction (R52, R209). -/
def releaseWait (b : Nat) (old : Bool) (w : Wait) : Option Nat :=
  match w with
  | .bar b' ph kd | .barw b' ph kd => if b' = b && ph == old then some kd else none
  | _ => none

/-- The waiter of a barrier has resumed (R208, R209): its k register takes the status. Others read it 4 cycles later. -/
def takeStatus (g : GroupSlot) (cycle : Nat) (m : W32) (kd : Nat) (st : W64) : GroupSlot :=
  { g with k := g.k.set kd { val := st }, late := addLate cycle g.late (.kreg kd (g.k.get {} kd).val m (cycle + 4)) }

/-- Release the waiters of barrier b in one group slot, entries and spilled pieces alike: each sees the release (R330) and
resumes 4 cycles later at the next instruction, where it may merge (R115). -/
def releaseGroup (s : State) (c h b : Nat) (old status : Bool) (clk : Nat) : State :=
  let g := s.group c h
  let now := (s.core c).cycle
  let st : W64 := if status then 1 else 0
  let isW (w : Wait) : Bool := (releaseWait b old w).isSome
  let ks := (g.frags.map (fun p => (p.2.m, releaseWait b old p.2.wait)) ++ g.spill.map (fun p => (p.m, releaseWait b old p.wait)))
  let ks := ks.filterMap (fun p => p.2.map (fun kd => (p.1, kd)))
  if ks.isEmpty then s
  else
    let waiting := g.frags.filter (fun p => isW p.2.wait)
    let s := receiveClock s c h clk
    let s := waiting.foldl (fun s p => emitTraceAt s c h 4 b p.2.refSlot st.toNat p.2.pc p.2.e) s
    let s := (g.spill.filter (fun p => isW p.wait)).foldl (fun s p =>
      emitTraceAt s c h 4 b (p.toFrag now).refSlot st.toNat p.pc p.e) s
    let s := s.modGroup c h (fun g =>
      let g := ks.foldl (fun g p => takeStatus g now p.1 p.2 st) g
      { g with
        frags := g.frags.map (fun p => if isW p.2.wait
          then (p.1, { p.2.restart (p.2.pc + 8) (Nat.max (now + 4) p.2.since) with delay := 2 }) else p),
        spill := g.spill.map (fun p => if isW p.wait then { p with wait := .ready, pc := p.pc + 8 } else p) })
    waiting.foldl (fun s p => settleAt s c h p.1) s

/-- Test one barrier's release condition and release it (R208). -/
def testBarrier (s : State) (c t b : Nat) : State :=
  let tm := s.team c t
  let bar := tm.bars.get {} b
  let live := liveSids tm
  if bar.arrived.isEmpty || !live.all (fun i => bar.arrived.contains i) then s
  else
    let bar' : Barrier := { arrived := [], phase := !bar.phase, abandoned := false, status := bar.abandoned,
                            clk := 0, relClk := bar.clk }
    let s := s.setTeam c t { tm with bars := tm.bars.set b bar' }
    (s.teamGroups c t).foldl (fun s p => releaseGroup s c p.1 b bar.phase bar.abandoned bar.clk) s

def testBarriers (s : State) (c t : Nat) : State :=
  (List.range 16).foldl (fun s b => testBarrier s c t b) s

/-- Strands arrive at a barrier (R209). -/
def arriveBarrier (s : State) (c t b : Nat) (sids : List Nat) (clk : Nat) : State :=
  let s := s.modTeam c t (fun tm => { tm with bars := tm.bars.update {} b (fun x =>
    { x with arrived := (x.arrived ++ sids.filter (fun i => !x.arrived.contains i)),
             clk := Nat.max x.clk clk }) })
  testBarrier s c t b

/-! ## Strands leaving (R130) -/

/-- Remove slots from every fragment and piece of a group. -/
def removeSlots (g : GroupSlot) (gone : W32) : GroupSlot :=
  { g with frags := g.frags.map (fun p => (p.1, { p.2 with m := p.2.m &&& ~~~gone, e := p.2.e &&& ~~~gone })),
           spill := g.spill.map (fun p => { p with m := p.m &&& ~~~gone, e := p.e &&& ~~~gone }) }

/-- Discard what is still to fill registers of a group slot: every fill that a test picks, and the results of the loads and
atomics under way (R130, R173). A store kept for a private sector goes on. -/
def discardFills (s : State) (c h : Nat) (pick : Bool → Nat → Bool) : State :=
  let gone (core hs : Nat) (uni : Bool) (sid : Nat) : Bool := core == c && hs == h && pick uni sid
  let kill (a : Acc) : Acc := if gone a.core a.hslot a.uni a.sid then { a with dead := true } else a
  { s with fills := s.fills.filter (fun x => !gone x.core x.hslot x.uni x.sid),
           fetches := s.fetches.map (fun (x : Fetch) =>
             { x with accs := x.accs.filter (fun a => !gone a.core a.hslot a.uni a.sid) }),
           posted := s.posted.map (fun (x : Posted) => { x with accs := x.accs.map kill }),
           gang := s.gang.map (fun (x : GangAcc) => { x with acc := kill x.acc }) }

/-- Strands of a group exit (R130): they leave the live set and the barriers, their pending fills and loads
are discarded, empty fragments free their entries, and barrier releases are tested. -/
def exitSlots (s : State) (c h : Nat) (gone : List Nat) : State :=
  let g := s.group c h
  let sids := gone.map (sidOf g)
  let s := s.modTeam c g.team (fun t => { t with
    strands := sids.foldl (fun m i => m.update {} i (fun (x : Strand) => { x with live := false })) t.strands,
    bars := t.bars.map (fun p => (p.1, { p.2 with arrived := p.2.arrived.filter (fun i => !sids.contains i) })) })
  let s := discardFills s c h (fun uni sid => !uni && sids.contains sid)
  let s := s.setGroup c h (removeSlots (s.group c h) (maskOf gone))
  testBarriers (dropEmpty s c h) c g.team

/-- Kill a group, once (R173): every strand exits, its log and pending fills are discarded, the barriers of the team
are abandoned, and the supervisor receives a notice of kind 2. -/
def killGroup (s : State) (c h cause : Nat) : State :=
  if (s.group c h).killed then s else
  let s := s.modGroup c h (fun g => { g with killed := true })
  let g := s.group c h
  let n := groupNotice s c h 2 cause
  let t := g.team
  let abandon (b : Barrier) : Barrier := { b with abandoned := true }
  let s := s.modTeam c t (fun tm =>
    { tm with bars := (List.range 16).foldl (fun (m : SMap Barrier) b => m.update {} b abandon) tm.bars })
  let slots := slotsOf ((g.frags.vals.map Frag.m ++ g.spill.map SpillRec.m).foldl (· ||| ·) 0#32)
  let s := clearLog (discardFills s c h (fun _ _ => true)) c h
  let s := s.modGroup c h (fun g => { g with fault := none, inHandler := false, heldEng := [], heldTraps := [] })
  let s := exitSlots s c h slots
  queueNotice s (s.teamOf c h).part n

/-! ## Taking an exception (R154-R162) -/

/-- The handler is entered, or the notice written, for the recorded fault (R158, R159). A halted group's handler does
not run until the release, while a notice is written at once (R334, R349). -/
def enterHandler (s : State) (c h : Nat) : State :=
  let g := s.group c h
  match g.fault with
  | none => s
  | some f =>
    if f.entered then s
    else
      let t := s.teamOf c h
      let g := { g with cause := f.cause, fslot := f.fslot, fpc := f.fpc, faddr := f.faddr, fword := f.fword }
      match g.frags.find? f.entry, t.ctx.enable.getLsbD f.cause with
      | some fr, true =>
        if g.halted then s.setGroup c h g
        else
        let fr' := { fr with e := (1#32 <<< f.fslot) &&& fr.m, pc := t.ctx.ebase + .ofNat 64 (f.cause * 64),
                             wait := .ready, resume := 0, kept := {}, succs := [], mid := false, instr := none,
                             follow := none, switched := false, ireg := none, released := false, skip := none,
                             faulted := false, delay := 1, since := (s.core c).cycle + 8 }
        let k := (g.k.set 54 { val := 0 }).set 55 { val := faultArea t g }
        let own (x : Late) : Bool := match x with | .kreg n .. => n == 54 || n == 55 || n == 65 | _ => false
        s.setGroup c h { g with frags := g.frags.set f.entry fr', k := k, inHandler := true, late := g.late.filter (fun x => !own x),
                                heldSig := [(sigSlot fr, sigOf g fr)],
                                fault := some { f with entered := true, keep := fr } }
      | _, _ =>
        let s := s.setGroup c h { g with fault := some { f with entered := true, supervisor := true },
                                         supSince := s.gt }
        queueNotice s t.part (groupNotice s c h 1 f.cause)

/-- A fault raised by an instruction of a fragment, at `pc`, is recorded and taken (R155, R158); its trace record names that
instruction (R329). In the fragment that runs the handler it is a nested fault, which kills the group (R162). While another
fault stands recorded it is not: a precise or decode fault recurs, as its fragment has not gone on; a trap is held, and recorded
at the next boundary (log entry 53). -/
def takeExceptionAt (s : State) (r : FragRef) (pc : W64) (f : FaultRec) : State :=
  let g := s.group r.core r.hslot
  if runsHandler g r.entry then
    let s := s.setGroup r.core r.hslot
      { g with cause := f.cause, fslot := f.fslot, fpc := f.fpc, faddr := f.faddr, fword := f.fword }
    killGroup s r.core r.hslot f.cause
  else if g.fault.isSome then
    if f.cause = 25 then s.setGroup r.core r.hslot { g with heldTraps := g.heldTraps ++ [(pc, f)] } else s
  else
    let s := emitTraceAt s r.core r.hslot 3 0 f.fslot (f.cause + f.fslot * 256) pc f.heldE
    enterHandler (s.setGroup r.core r.hslot { s.group r.core r.hslot with fault := some f }) r.core r.hslot

/-- The same of the instruction that the fragment stands at, whose pass stops there. -/
def takeException (s : State) (r : FragRef) (f : FaultRec) : State :=
  takeExceptionAt (s.modFrag r (fun q => { q with faulted := true })) r (s.frag r).pc f

/-- A precise or decode fault of the instruction whose word 0 is `word`, at a slot (R154, R159): nothing of
that slot or a later one has been done, and the fragment resumes there. -/
def preciseFault (s : State) (r : FragRef) (cause slot : Nat) (faddr word : W64) : State :=
  let f := s.frag r
  takeException s r { entry := r.entry, cause := cause, fslot := slot, fpc := f.pc, faddr := faddr, fword := word,
                      heldE := f.e, pc := f.pc, slot := slot }

/-- A fault raised before any strand executes: %fslot is the reference slot, and the fragment resumes with a full
pass (R154). -/
def startFault (s : State) (r : FragRef) (cause : Nat) (faddr word : W64) : State :=
  let f := s.frag r
  takeException s r { entry := r.entry, cause := cause, fslot := f.refSlot, fpc := f.pc, faddr := faddr, fword := word,
                      heldE := f.e, pc := f.pc, slot := 0 }

/-- The merge test of a fragment whose PC has changed (R115). -/
def settleMerge (s : State) (r : FragRef) : State := settleAt s r.core r.hslot r.entry

/-! ## Splits (R113, R114, R121) -/

/-- A piece of a split: successor, members and executing members. -/
structure Piece where
  pc : W64
  wbase : Nat
  m : W32
  e : W32
  deriving DecidableEq, Repr

/-- Put a member into the piece of its successor. -/
def addPiece (pc : W64) (wb slot : Nat) (exec : Bool) : List Piece → List Piece
  | [] => [{ pc := pc, wbase := wb, m := maskOf [slot], e := if exec then maskOf [slot] else 0 }]
  | p :: r =>
    if p.pc == pc && p.wbase == wb then
      { p with m := p.m ||| maskOf [slot], e := if exec then p.e ||| maskOf [slot] else p.e } :: r
    else p :: addPiece pc wb slot exec r

/-- The pieces of the members in ascending slot order, so that pieces stand in the order of their lowest
member (R113). -/
def piecesOf (f : Frag) (succ : Nat → Succ) : List Piece :=
  (slotsOf f.m).foldl (fun ps sl =>
    match succ sl with
    | .go pc wb => addPiece pc wb sl (f.e.getLsbD sl) ps
    | _ => ps) []

def regionFor (g : GroupSlot) (rg : Region) (m : W32) : Region :=
  let ids := (slotsOf m).map (sidOf g)
  { rg with entryE := rg.entryE.filter ids.contains, snap := rg.snap.filter (fun p => ids.contains p.1) }

/-- Place one further piece of a split: merge with a resident fragment (step 2), else take a free entry or
spill (step 3). -/
def placePiece (mergeOnly : Bool) (c h : Nat) (parent : Frag) (psig : W32) (s : State) (p : Piece) :
    State × Bool :=
  let g := s.group c h
  let nf : Frag := { pc := p.pc, m := p.m, e := p.e, wbase := p.wbase, region := regionFor g parent.region p.m,
                     acquires := parent.acquires, xpc := parent.xpc, xword := parent.xword,
                     since := (s.core c).readyAt parent, lastStart := parent.lastStart }
  let g := setSig g ((lowest p.m).getD 0) (crc psig p.pc)
  if mergeOnly then
    match (if quotaHeld s c h then none else List.find? (fun q => canMerge g nf q && !s.chosen c h q.1) g.frags) with
    | none => (s, false)
    | some (e', f') =>
      if nf.m &&& f'.m != 0 then (noteSigFail s c h e', false)
      else
      let m := nf.m ||| f'.m
      let ee := nf.e ||| f'.e
      let (reg, s) := mergeRegions (s.setGroup c h g) c h nf f' m ee
      let mf : Frag := { f' with m := m, e := ee, region := reg, wait := if f'.wait == .rjn then .ready else f'.wait,
                                 acquires := f'.acquires ++ nf.acquires, xpc := nf.xpc, xword := nf.xword,
                                 since := Nat.max f'.since nf.since }
      let g := s.group c h
      let s := s.setGroup c h (setSig { g with frags := g.frags.set e' mf } ((lowest m).getD 0) (crc 0 nf.pc))
      (emitTrace s { core := c, hslot := h, entry := e' } 2 0 mf.refSlot m.toNat, true)
  else
    match freeEntry g with
    | some e => (s.setGroup c h { g with frags := g.frags.set e nf }, true)
    | none => (s.setGroup c h { g with spill := g.spill ++ [nf.toSpill (s.core c).cycle] }, true)

/-- Blocked at an instruction that has run (R52), and so not parked in the middle of a pass. -/
def blockedWait (w : Wait) : Bool :=
  match w with
  | .rjn | .regroup | .bar .. | .barw .. | .waitc .. => true
  | .clasp _ _ _ _ uni => uni
  | .fence _ _ done _ => done
  | _ => false

/-- The resident fragment that rotation step 1 chooses (R116): not parked mid-pass, no pending fault, the one
whose last pass started longest ago, then the lower entry. -/
def rotationChoice (g : GroupSlot) (avoid : Option Nat) : Option Nat :=
  let ok := g.frags.filter (fun p => (!p.2.mid || blockedWait p.2.wait) && some p.1 != avoid
    && !carriesFault g p.1)
  match ok with
  | [] => none
  | p :: r => some (r.foldl (fun b q => if q.2.lastStart < b.2.lastStart then q else b) p).1

/-- A free entry for the trap piece: the lowest, or the one of the fragment that rotation would choose, which
goes to the tail of the FIFO (R121). -/
def trapEntry (s : State) (c h : Nat) : Nat × State :=
  let g := s.group c h
  match freeEntry g with
  | some e => (e, s)
  | none =>
    match rotationChoice g none with
    | some e =>
      let f := g.frags.get {} e
      (e, s.setGroup c h { g with frags := g.frags.erase e, spill := g.spill ++ [f.toSpill (s.core c).cycle] })
    | none => (0, s)

/-- The end of a pass that chose successors (R113, R114, R121): strands exit, pieces keep, merge, take entries
or spill, and the trap piece is formed. `succ` gives every member's successor; `fall` is the fall-through
address and `word` word 0. An entry that no piece keeps goes to the head of the FIFO before the trap piece takes one (log
entry 55). -/
def splitBy (s : State) (r : FragRef) (succ : Nat → Succ) (fall word : W64) : State :=
  let f := s.frag r
  let g := s.group r.core r.hslot
  let members := slotsOf f.m
  let exits := members.filter (fun sl => succ sl == .exit)
  let traps := members.filter (fun sl => succ sl == .trap)
  let pieces := piecesOf f succ
  let total := (pieces.map (fun p => (slotsOf p.m).length)).sum + exits.length + traps.length
  if total != members.length then startFault s r 20 f.pc word
  else
    let psig := sigOf g f
    let split := 1 < pieces.length
    let gone := maskOf (exits ++ traps)
    let base : Frag := { f with wait := .ready, resume := 0, kept := {}, succs := [], mid := false,
                                released := false, switched := false, ireg := none, skip := none, instr := none,
                                follow := none,
                                since := (s.core r.core).cycle }
    let lowE := lowest (f.e &&& ~~~gone)
    let keepIdx := pieces.findIdx (fun p => match lowE with
      | some sl => p.m.getLsbD sl
      | none => p.m.getLsbD ((lowest (f.m &&& ~~~gone)).getD 0))
    let keeper := pieces[keepIdx]?
    let others := pieces.eraseIdx keepIdx
    -- the keeper, or an entry without members that frees below
    let s := match keeper with
      | some p =>
        let s := s.setFrag r { base with pc := p.pc, wbase := p.wbase, m := p.m, e := p.e,
                                         region := regionFor g f.region p.m }
        if split then s.modGroup r.core r.hslot (fun g => setSig g ((lowest p.m).getD 0) (crc psig p.pc)) else s
      | none => s.modGroup r.core r.hslot (fun g => { g with frags := g.frags.erase r.entry })
    let s := if split then emitTraceAt s r.core r.hslot 1 0 f.refSlot pieces.length f.pc f.e else s
    let s := if exits.isEmpty then s else exitSlots s r.core r.hslot exits
    -- step 2, then the trap piece, then step 3
    let (s, left) := others.foldl (fun acc p =>
      let (s, done) := placePiece true r.core r.hslot f psig acc.1 p
      if done then (s, acc.2) else (s, acc.2 ++ [p])) (s, ([] : List Piece))
    let (s, trapAt) := if traps.isEmpty then (s, none)
      else
        let (e, s) := trapEntry s r.core r.hslot
        let m := maskOf traps
        let nf : Frag := { pc := fall, m := m, e := m, wbase := f.wbase, region := regionFor g f.region m,
                           acquires := f.acquires, xpc := f.xpc, xword := f.xword,
                           since := (s.core r.core).readyAt f, lastStart := f.lastStart }
        (s.modGroup r.core r.hslot (fun g => setSig { g with frags := g.frags.set e nf }
          ((lowest m).getD 0) (crc psig fall)), some e)
    let s := left.foldl (fun s p => (placePiece false r.core r.hslot f psig s p).1) s
    let s := match trapAt with
      | some e =>
        let m := maskOf traps
        takeExceptionAt s r f.pc
          { entry := e, cause := 25, fslot := (lowest m).getD 0, fpc := fall, faddr := m.zeroExtend 64, fword := word,
            heldE := m, pc := fall, slot := 0 }
      | none => s
    if keeper.isSome && trapAt != some r.entry then settleMerge s r else returnAll 24 s r.core r.hslot

end Sys2Proof.Machine
end

