-- ==== Sys2Proof/Machine/Cameo.lean ====
section
/-! DEFINITION. Cameo (R339, R340): the log of the orders that make a run repeatable, and their enforcement in
replay. The identity words of an entry are laid out as log entry 11 says. -/

namespace Sys2Proof.Machine

def cmMode (d : Die) : Nat := (d.regs.get 0 0x4400).toNat / 65536 % 4

/-- Whether Cameo selects a context: ASID 0 selects every context. -/
def cmSelects (d : Die) (asid : Nat) : Bool :=
  let a := (d.regs.get 0 0x4400).toNat % 65536
  a == 0 || a == asid

def cmDiverged (d : Die) : Bool := (d.regs.get 0 0x4418).getLsbD 63
def cmOverflow (d : Die) : Bool := (d.regs.get 0 0x4418).getLsbD 62
def cmBase (d : Die) : Nat := (d.regs.get 0 0x4408).toNat / 4096 % 2 ^ 40 * 4096
def cmSize (d : Die) : Nat := 2 ^ ((d.regs.get 0 0x4408).toNat % 32)
def cmIdx (d : Die) : Nat := (d.regs.get 0 0x4410).toNat

/-- Write entries to the log, or set ovf when the ring is full. -/
def cmAppend (s : State) (d : Nat) (entries : List (List Byte)) : State :=
  let dd := s.die d
  if cmOverflow dd then s
  else if cmSize dd < cmIdx dd + entries.length then
    s.modDie d (fun x => { x with regs := x.regs.set 0x4418 (x.regs.get 0 0x4418 ||| (1#64 <<< 62)) })
  else
    let s := (entries.foldl (fun acc e => (engineWrite acc.1 (cmBase dd + 32 * acc.2) e { t := none }, acc.2 + 1))
      (s, cmIdx dd)).1
    s.modDie d (fun x => { x with regs := x.regs.set 0x4410 (.ofNat 64 (cmIdx dd + entries.length)) })

/-- The 32 bytes of an entry: the kind in [63:60] of word 0, the entry count in [55:48], the identity. -/
def cmEntry (kind count : Nat) (ident : List Nat) : List Byte :=
  ((kind * 2 ^ 60 + count * 2 ^ 48) :: ident).map (wordBytes 8) |>.flatten

/-- Cut data into entries of 32 bytes. -/
def cmData : Nat → List Byte → List (List Byte)
  | 0, _ => []
  | n + 1, l => if l.isEmpty then [] else l.take 32 :: cmData n (l.drop 32)

/-- The kind and identity of log entry n. -/
def cmRead (s : State) (d n : Nat) : Nat × Nat × List Nat :=
  let a := cmBase (s.die d) + 32 * n
  let w0 := Memory.word s.mem a 8
  (w0 / 2 ^ 60, w0 / 2 ^ 48 % 256, (List.range 3).map (fun i => Memory.word s.mem (a + 8 + 8 * i) 8))

/-- From entry n on, the first event of the log not yet consumed that a test accepts: its place, kind, number of
entries and identity. The log ends at an entry of kind 0 or at the size of the ring. -/
def cmFind (s : State) (d : Nat) (ok : Nat → List Nat → Bool) : Nat → Nat → Option (Nat × Nat × Nat × List Nat)
  | 0, _ => none
  | fuel + 1, n =>
    let (k, cnt, id) := cmRead s d n
    if k = 0 || cmSize (s.die d) ≤ n then none
    else if !(s.die d).cmUsed.contains n && ok k id then some (n, k, cnt, id)
    else cmFind s d ok fuel (n + Nat.max cnt 1)

/-- The first logged event not yet consumed whose kind and key match; the key is the leading identity words. -/
def cmNext (s : State) (d kind : Nat) (key : List Nat) : Option (Nat × List Nat) :=
  (cmFind s d (fun k id => k == kind && id.take key.length == key) (cmSize (s.die d)) 0).map (fun e => (e.1, e.2.2.2))

/-- The first logged event not yet consumed. -/
def cmHead (s : State) (d : Nat) : Option (Nat × Nat × Nat × List Nat) :=
  cmFind s d (fun _ _ => true) (cmSize (s.die d)) 0

/-- The data that follows the head entry of an event. -/
def cmDataOf (s : State) (d n cnt : Nat) : List Byte :=
  Memory.readBytes s.mem (cmBase (s.die d) + 32 * (n + 1)) (32 * (cnt - 1))

/-- An event of the log is consumed. -/
def cmConsume (s : State) (d n cnt : Nat) : State :=
  s.modDie d (fun x => { x with cmUsed := n :: x.cmUsed,
                                regs := x.regs.set 0x4410 (x.regs.get 0 0x4410 + .ofNat 64 cnt) })

/-- The context that stands for events of no context: host writes and Chain messages belong to every selection. -/
def cmAny (s : State) (d : Nat) : Nat := ((s.die d).regs.get 0 0x4400).toNat % 65536

/-- Stop enforcing (R340): div and the log index are set and the supervisor gets a system notice of cause 0. -/
def cmDiverge (s : State) (d : Nat) (part : Nat) : State :=
  let dd := s.die d
  if cmDiverged dd then s
  else
    let s := s.modDie d (fun x => { x with
      regs := x.regs.set 0x4418 ((1#64 <<< 63) ||| (x.regs.get 0 0x4410 &&& (.ofNat 64 (2 ^ 62 - 1)))) })
    queueNotice s part { kind := 3, cause := 0 }

/-- Whether an operation of a selected context has to wait in replay: it is not the next logged one of its key. -/
def cmHolds (s : State) (d kind asid : Nat) (key ident : List Nat) : Bool :=
  let dd := s.die d
  cmMode dd == 2 && cmSelects dd asid && !cmDiverged dd
  && (match cmNext s d kind key with
      | some (_, id) => id != ident
      | none => false)

/-- An operation is made: recorded in record mode, consumed in replay mode; one with no entry left diverges. -/
def cmEvent (s : State) (d kind asid part : Nat) (key ident : List Nat) (data : List Byte) : State :=
  let dd := s.die d
  if !cmSelects dd asid then s
  else if cmMode dd = 1 then
    let extra := cmData 130 data
    cmAppend s d (cmEntry kind (1 + extra.length) ident :: extra)
  else if cmMode dd = 2 && !cmDiverged dd then
    match cmNext s d kind key with
    | some (n, _) => cmConsume s d n (cmRead s d n).2.1
    | none => cmDiverge s d part
  else s

end Sys2Proof.Machine
end

