-- ==== Sys2Proof/Machine/Operands.lean ====
section
/-! DEFINITION. Operands and passes: source and destination registers with their full/empty bits (R55), queue
ports (R215, R216), live-in checks (R167), guards and active strands (R49), the start, the park, the fault and
the end of a pass, and the switch of regions (R168). -/

namespace Sys2Proof.Machine

/-- What stops a pass at a strand. -/
inductive Stop where
  | park (w : Wait)
  | fault (cause : Nat) (faddr : W64)
  | kill
  deriving DecidableEq, Repr

/-- One strand of a pass: done, or stopped with no effect of that strand. -/
inductive StrandRes where
  | ok (s : State)
  | stop (s : State) (x : Stop)

/-- A source register as an instruction names it. -/
structure SrcReg where
  isK : Bool
  num : Nat
  pair : Bool := false
  trap : Bool := false
  deriving DecidableEq, Repr

/-- Register number as %faddr shows it (R55): bit 6 set for a k register. -/
def regAddr (isK : Bool) (num : Nat) : W64 := .ofNat 64 (if isK then 64 + num else num)

/-- The v registers a source names. -/
def SrcReg.regs (x : SrcReg) : List Nat := if x.pair && !x.isK then [x.num, x.num + 1] else [x.num]

/-- The registers of a source that are empty; ports are judged apart. -/
def emptyRegs (s : State) (r : FragRef) (slot : Nat) (x : SrcReg) : List Nat :=
  let g := s.group r.core r.hslot
  if x.isK then (if 56 ≤ x.num then [] else if (g.k.get {} x.num).full then [] else [x.num])
  else
    let st := s.strand r.core g.team (sidOf g slot)
    let wb := (s.frag r).wbase
    x.regs.filter (fun n => !(st.regs.get {} (wb + n)).full)

/-- Whether a source is poisoned (R343). -/
def poisonedReg (s : State) (r : FragRef) (slot : Nat) (x : SrcReg) : Bool :=
  let g := s.group r.core r.hslot
  if x.isK then x.num < 56 && (g.k.get {} x.num).poison
  else
    let st := s.strand r.core g.team (sidOf g slot)
    let wb := (s.frag r).wbase
    x.regs.any (fun n => (st.regs.get {} (wb + n)).poison)

/-- The rights of %pkr for the accesses of a fragment's pass (R112). -/
def passPkr (s : State) (r : FragRef) : W64 := pkrAt (s.group r.core r.hslot) (s.core r.core).cycle

/-- The wait for every empty register a strand reads (R55). -/
def parkOn (s : State) (r : FragRef) (slot : Nat) (xs : List SrcReg) : Wait :=
  let g := s.group r.core r.hslot
  let wb := (s.frag r).wbase
  .regs (sidOf g slot)
    ((xs.filter (fun x => !x.isK)).map (fun x => (emptyRegs s r slot x).map (wb + ·))).flatten
    ((xs.filter (fun x => x.isK)).map (emptyRegs s r slot)).flatten

/-- The first empty source decides: park, or EMPTY-READ where its empty-action bit is 1 (R55); of a pair whose registers
are both empty EMPTY-READ names the lower (log entry 44). `all` lists every register the strand reads, for which a park
waits. -/
def checkAmong (s : State) (r : FragRef) (slot : Nat) (all xs : List SrcReg) : Option Stop :=
  match List.find? (fun x => !(emptyRegs s r slot x).isEmpty) xs with
  | some x =>
    if x.trap then some (.fault 3 (regAddr x.isK ((emptyRegs s r slot x).headD x.num)))
    else some (.park (parkOn s r slot all))
  | none => if xs.any (poisonedReg s r slot) then some .kill else none

def checkSources (s : State) (r : FragRef) (slot : Nat) (xs : List SrcReg) : Option Stop := checkAmong s r slot xs xs

/-- How many entries of each queue the port sources pop (R215). -/
def portNeeds (xs : List SrcReg) : List (Nat × Nat) :=
  let ps := (xs.filter (fun x => x.isK && 56 ≤ x.num)).map (fun x => x.num - 56)
  ((List.range 8).map (fun q => (q, (ps.filter (· == q)).length))).filter (fun p => p.2 != 0)

def queueOf (t : Team) (q : Nat) : List QEntry := t.queues.get [] q

/-- The entries of a queue that can be popped in a cycle: those whose 4 cycles are over (R216). -/
def readyOf (t : Team) (q now : Nat) : List QEntry := (queueOf t q).takeWhile (fun e => decide (e.at_ ≤ now))

/-- The entries that a queue holds in a cycle, pushed before it and popped after it (R217). -/
def heldIn (t : Team) (q now : Nat) : Nat :=
  ((queueOf t q).filter (fun e => decide (e.at_ < now + 4))).length
    + (t.pops.filter (fun p => p.1 == q && decide (p.2.1 < now) && decide (now < p.2.2))).length

/-- Cameo identity of a queue operation (R339 kind 5). -/
def queueIdent (t : Team) (q gid push : Nat) : List Nat := [t.launch * 2 ^ 32 + t.index, q, gid * 2 + push]

/-- Whether a replay holds pops of a queue back (R340). -/
def popHeld (s : State) (r : FragRef) (q : Nat) : Bool :=
  let g := s.group r.core r.hslot
  let t := s.team r.core g.team
  cmHolds s (dieOf r.core) 5 t.ctx.asid ((queueIdent t q g.gid 0).take 2) (queueIdent t q g.gid 0)

/-- Whether the ports can serve a strand: all of its entries or none (R216). -/
def checkPorts (s : State) (r : FragRef) (xs : List SrcReg) : Option Stop :=
  let g := s.group r.core r.hslot
  let t := s.team r.core g.team
  let need := portNeeds xs
  let short := need.filter (fun p => (readyOf t p.1 (laneNow s r)).length < p.2 || popHeld s r p.1)
  match short with
  | [] => none
  | _ :: _ =>
    match List.find? (fun x => x.isK && 56 ≤ x.num && x.trap && short.any (fun p => p.1 == x.num - 56)) xs with
    | some x => some (.fault 3 (regAddr true x.num))
    | none => some (.park (.pops need))

/-- Pop the head of a queue for the strand of a slot: the popper receives the pushing group's clock (R328). -/
def popQueue (s : State) (r : FragRef) (slot q : Nat) : W64 × State :=
  let g := s.group r.core r.hslot
  let t := s.team r.core g.team
  match queueOf t q with
  | [] => (0, s)
  | { val := v, clk := clk, at_ := at_ } :: rest =>
    let now := laneNow s r
    let cycle := (s.core r.core).cycle
    let pops := (t.pops.filter (fun p => decide (cycle < p.2.2))) ++ (if cycle < now then [(q, at_ - 4, now)] else [])
    let s := s.setTeam r.core g.team { t with queues := t.queues.set q rest, pops := pops }
    let s := receiveClock s r.core r.hslot clk
    let s := cmEvent s (dieOf r.core) 5 t.ctx.asid t.part ((queueIdent t q g.gid 0).take 2)
      (queueIdent t q g.gid 0) []
    (v, emitTrace s r 7 q slot v.toNat)

/-- Push to a queue that has room. The entry can be popped from 4 cycles later (R216). -/
def pushQueue (s : State) (r : FragRef) (q : Nat) (v : W64) : State :=
  let s := tickClock s r.core r.hslot
  let g := s.group r.core r.hslot
  let t := s.team r.core g.team
  let e : QEntry := { val := v, clk := g.lclk, at_ := laneNow s r + 4 }
  let s := s.setTeam r.core g.team { t with queues := t.queues.set q (queueOf t q ++ [e]) }
  let s := cmEvent s (dieOf r.core) 5 t.ctx.asid t.part ((queueIdent t q g.gid 1).take 2)
    (queueIdent t q g.gid 1) []
  -- the push has added 1 to the clock, and is one event with its record
  putTrace s r.core r.hslot 6 q (s.frag r).refSlot v.toNat (s.frag r).pc (s.frag r).e

/-- What names a register position of a slot's strand in `Core.made`. -/
def posKey (s : State) (r : FragRef) (slot pos : Nat) : Nat :=
  let g := s.group r.core r.hslot
  (g.team * 1024 + sidOf g slot) * 1024 + pos
def vKey (s : State) (r : FragRef) (slot n : Nat) : Nat := posKey s r slot ((s.frag r).wbase + n)
/-- A predicate of a slot's strand stands after the 512 positions of its registers. -/
def qKey (s : State) (r : FragRef) (slot i : Nat) : Nat := posKey s r slot (512 + i)

/-- A register has been produced with a result latency (R51). -/
def produce (s : State) (r : FragRef) (key lat : Nat) : State :=
  let at_ := laneNow s r + lat
  s.modCore r.core (fun k => { k with made := (key, at_) :: k.made.filter (fun x => x.1 != key && k.cycle < x.2) })

/-- The lane of a pass waits with bubbles for a cycle (R51). -/
def awaitCycle (s : State) (r : FragRef) (t : Nat) : State :=
  if t ≤ laneNow s r then s else tickLane s r (t - laneNow s r)

/-- It waits until registers that earlier passes of the fragment have produced can be read (R51). -/
def awaitRegs (s : State) (r : FragRef) (keys : List Nat) : State :=
  awaitCycle s r ((((s.core r.core).made.filter (fun x => keys.contains x.1)).map Prod.snd).foldl Nat.max 0)

/-- A predicate that an instruction wrote counts as a source register (R82); q15 is written by none. -/
def awaitPreds (s : State) (r : FragRef) (slot : Nat) (qs : List Nat) : State :=
  awaitRegs s r ((qs.filter (· < 15)).map (qKey s r slot))

/-- Write predicates of one strand with a result latency. -/
def writePreds (lat : Nat) (s : State) (r : FragRef) (slot : Nat) : List (Nat × Bool) → State
  | [] => s
  | (i, b) :: ps =>
    let g := s.group r.core r.hslot
    writePreds lat (produce (s.setStrandPred r.core g.team (sidOf g slot) i b) r (qKey s r slot i) lat) r slot ps

/-- It waits for the writes that the fragment's own earlier passes have made to a register of the group (R51). -/
def awaitK (s : State) (r : FragRef) (n : Nat) : State :=
  awaitCycle s r (ownReady (s.group r.core r.hslot) (s.frag r).m n)

/-- A strand enters the lane once every register it reads can be read (R51): before its own cycle it reads nothing. -/
def awaitSources (s : State) (r : FragRef) (slot : Nat) (xs : List SrcReg) : State :=
  let s := awaitRegs s r ((xs.filter (fun x => !x.isK)).map (fun x => x.regs.map (vKey s r slot))).flatten
  (xs.filter (fun x => x.isK && x.num < 56)).foldl (fun s x => awaitK s r x.num) s

/-- Read one source that is known to be full (or a port that can serve), in the cycle from which it can be read (R51). A k
register that another fragment has just written gives its old value until the new one is readable (R56). -/
def readSource (s : State) (r : FragRef) (slot : Nat) (x : SrcReg) : W64 × State :=
  if x.isK then
    if 56 ≤ x.num then popQueue s r slot (x.num - 56)
    else
      let s := awaitK s r x.num
      (kSeen (s.group r.core r.hslot) (s.frag r).m x.num (laneNow s r), s)
  else
    let s := awaitRegs s r (vKey s r slot x.num :: if x.pair then [vKey s r slot (x.num + 1)] else [])
    let st := s.strand r.core (s.group r.core r.hslot).team (sidOf (s.group r.core r.hslot) slot)
    let p := (s.frag r).wbase + x.num
    let lo := (st.regs.get {} p).val
    if x.pair then ((st.regs.get {} (p + 1)).val ++ lo, s) else (lo.zeroExtend 64, s)

def readAll (s : State) (r : FragRef) (slot : Nat) : List SrcReg → List W64 × State
  | [] => ([], s)
  | x :: xs =>
    let (v, s) := readSource s r slot x
    let (vs, s) := readAll s r slot xs
    (v :: vs, s)

/-! ## Destinations -/

/-- The region a fragment's instruction issued in: an instruction that switches regions (R168) is checked against
the region it left, for all its strands. -/
def issueRegion (f : Frag) : Region := f.ireg.getD f.region

/-- Whether a stack position of a fragment's strands is live-in (R167). -/
def vLive (f : Frag) (pos : Nat) : Bool :=
  (issueRegion f).base ≤ pos && (issueRegion f).vlive.getLsbD (pos - (issueRegion f).base)

/-- Whether a k register is live-in in the region of any fragment of the group (R167). -/
def kLive (g : GroupSlot) (entry n : Nat) : Bool :=
  g.frags.any (fun p => (if p.1 = entry then issueRegion p.2 else p.2.region).klive.getLsbD n)
  || g.spill.any (fun p => p.region.klive.getLsbD n)

/-- Checks on v destinations, by register number: LIVEIN-WRITE, then a fill still pending parks (R55, R167). -/
def checkVDest (s : State) (r : FragRef) (slot : Nat) (ns : List Nat) : Option Stop :=
  let g := s.group r.core r.hslot
  let f := s.frag r
  match ns.find? (fun n => vLive f (f.wbase + n)) with
  | some n => some (.fault 17 (regAddr false n))
  | none =>
    let st := s.strand r.core g.team (sidOf g slot)
    let pend := ns.filter (fun n => !(st.regs.get {} (f.wbase + n)).full)
    if pend.isEmpty then none else some (.park (.regs (sidOf g slot) (pend.map (f.wbase + ·)) []))

/-- Checks on k destinations; a port needs room, after the pops of the same instruction (R215, R216). -/
def checkKDest (s : State) (r : FragRef) (slot : Nat) (ns : List Nat) (xs : List SrcReg) : Option Stop :=
  let g := s.group r.core r.hslot
  let t := s.team r.core g.team
  match ns.find? (fun n => n < 56 && kLive g r.entry n) with
  | some n => some (.fault 17 (regAddr true n))
  | none =>
    let pend := ns.filter (fun n => n < 56 && !(g.k.get {} n).full)
    if !pend.isEmpty then some (.park (.regs (sidOf g slot) [] pend))
    else
      let popped (q : Nat) : Nat := ((portNeeds xs).find? (fun p => p.1 == q)).elim 0 Prod.snd
      match ns.find? (fun n => 56 ≤ n && (16 ≤ (queueOf t (n - 56)).length - popped (n - 56)
          || cmHolds s (dieOf r.core) 5 t.ctx.asid ((queueIdent t (n - 56) g.gid 1).take 2)
              (queueIdent t (n - 56) g.gid 1))) with
      | some n => some (.park (.push (n - 56)))
      | none => none

/-- Write consecutive v registers of a strand with a result latency, by register number; every one becomes full. -/
def writeVsAt (lat : Nat) (s : State) (r : FragRef) (slot n : Nat) : List W32 → State
  | [] => s
  | v :: vs =>
    let g := s.group r.core r.hslot
    writeVsAt lat (produce (s.setVreg r.core g.team (sidOf g slot) ((s.frag r).wbase + n) { val := v }) r (vKey s r slot n) lat)
      r slot (n + 1) vs

def writeVs (s : State) (r : FragRef) (slot n : Nat) (vs : List W32) : State := writeVsAt 4 s r slot n vs

/-- Write a k register with a result latency, or push to a port. Other fragments see the value once it is readable
(R56). -/
def writeKAt (s : State) (r : FragRef) (n : Nat) (v : W64) (lat : Nat) : State :=
  if 56 ≤ n then pushQueue s r (n - 56) v
  else
    let now := laneNow s r
    let cycle := (s.core r.core).cycle
    let m := (s.frag r).m
    let s := s.modGroup r.core r.hslot (fun g => { g with late := addLate cycle g.late (.kreg n (g.k.get {} n).val m (now + lat)) })
    s.setKreg r.core r.hslot n { val := v }

def writeK (s : State) (r : FragRef) (n : Nat) (v : W64) : State := writeKAt s r n v 4

/-- The words of a value for v registers: two for a pair. -/
def vWords (pair : Bool) (v : W64) : List W32 :=
  if pair then [v.truncate 32, (v >>> 32).truncate 32] else [v.truncate 32]

/-- Mark v registers empty, by register number. -/
def markV (s : State) (r : FragRef) (slot : Nat) (ns : List Nat) : State :=
  let g := s.group r.core r.hslot
  let wb := (s.frag r).wbase
  s.modTeam r.core g.team (fun t => { t with strands := t.strands.update {} (sidOf g slot) (fun x =>
    { x with regs := ns.foldl (fun m n => m.update {} (wb + n) (fun (v : VReg) => { v with full := false })) x.regs }) })

/-- A k register that a fill is to write has no earlier write to wait for (R51, R56). -/
def forgetK (l : List Late) (ns : List Nat) : List Late :=
  l.filter (fun x => match x with | .kreg n .. => !ns.contains n | _ => true)

def markK (s : State) (r : FragRef) (ns : List Nat) : State :=
  s.modGroup r.core r.hslot (fun g =>
    { g with late := forgetK g.late ns, k := ns.foldl (fun m n => m.update {} n (fun (v : KReg) => { v with full := false })) g.k })

/-- The value of an instruction that popped a queue port comes to its destination as a fill (R55): the registers are empty
until then. -/
def fillLater (s : State) (r : FragRef) (slot : Nat) (uni : Bool) (n : Nat) (words : List W64) : State :=
  let g := s.group r.core r.hslot
  let ns := (List.range words.length).map (n + ·)
  let s := if uni then markK s r ns else markV s r slot ns
  let (id, s) := s.fresh
  { s with fills := s.fills ++ [{ id := id, core := r.core, hslot := r.hslot, uni := uni, sid := sidOf g slot,
                                  pos := if uni then n else (s.frag r).wbase + n, words := words, other := true }] }

/-- Whether a source is a queue port. -/
def popsPort (xs : List SrcReg) : Bool := xs.any (fun x => x.isK && 56 ≤ x.num)

/-- Write v registers with a result latency, or as a fill where the instruction popped a port. -/
def putVs (popped : Bool) (lat : Nat) (s : State) (r : FragRef) (slot n : Nat) (ws : List W32) : State :=
  if popped then fillLater s r slot false n (ws.map (·.zeroExtend 64)) else writeVsAt lat s r slot n ws

/-! ## Guards and passes -/

/-- Whether a guard holds for a strand's predicates; q15 is true (R28, R49). -/
def guardHolds (x : Strand) (guard : BitVec 4) (gn : Bool) : Bool := x.preds16.getLsbD guard.toNat != gn

def strandAt (s : State) (r : FragRef) (slot : Nat) : Strand :=
  let g := s.group r.core r.hslot
  s.strand r.core g.team (sidOf g slot)

/-- The active strands of a pass (R49), from a resume slot onward. -/
def activeSlots (s : State) (r : FragRef) (guard : BitVec 4) (gn : Bool) (from_ : Nat) : List Nat :=
  (slotsOf (s.frag r).e).filter (fun sl => from_ ≤ sl && guardHolds (strandAt s r sl) guard gn)

/-- Whether SIGCHK or SIGRST, which are not folded (R341). -/
def notFolded : Instr → Bool
  | .sigchk _ | .sigrst _ => true
  | _ => false

def foldSig (i : Instr) (v : W32) : W32 := if notFolded i then v else (encode i).foldl crc v

/-- Word 0 of an instruction, as %fword and the operand log hold it (R159). -/
def word0 (i : Instr) : W64 := (encode i).headD 0

/-- The start of a pass on its lane in the core's present cycle (R52, R341): the signature folds the words unless the pass
resumes, and the pass is counted (R337). -/
def beginPass (s : State) (r : FragRef) (i : Instr) : State :=
  let f := s.frag r
  let now := (s.core r.core).cycle
  let s := { s with cur := none }
  let s := s.modGroup r.core r.hslot (fun g =>
    let sl := sigSlot f
    { g with sig := if f.mid then g.sig else g.sig.set sl (foldSig i (g.sig.get 0 sl)),
             frags := g.frags.set r.entry { f with mid := true, lastStart := if f.kept.held then f.lastStart else now } })
  s.modCore r.core (fun k => { k with lanes := k.lanes.set (f.lane.getD 0) now,
                                      regs := if f.kept.held then k.regs else k.regs.set 0x508 (k.regs.get 0 0x508 + 1) })

/-- Go on at a PC: the fragment stands at the start of an instruction, and merges are tested (R115). -/
def goTo (s : State) (r : FragRef) (pc : W64) : State :=
  let s := s.modFrag r (fun f => f.restart pc (s.core r.core).cycle)
  settleMerge s r

/-- The PC after an instruction (R25). -/
def nextPc (f : Frag) (i : Instr) : W64 := f.pc + .ofNat 64 (8 * i.len)

/-- The end of an instruction without a transfer of control (R25). -/
def advance (s : State) (r : FragRef) (i : Instr) : State := goTo s r (nextPc (s.frag r) i)

/-- A fragment waits and gives up its lane, once its pass has ended there (R52). -/
def leaveLane (s : State) (r : FragRef) (w : Wait) : State :=
  s.modFrag r (fun f => { f with wait := w, lane := none, run := 0, since := laneNow s r, delay := 0 })

/-- A pass keeps its lane until its strand, whose cycle has been taken, has performed at another core's part (R145). -/
def holdLane (s : State) (r : FragRef) (w : Wait) : State :=
  let s := tickLane s r 3
  s.modFrag r (fun f => { f with wait := w, since := laneNow s r, delay := 0 })

/-- Stop a pass at a slot, whose cycle it has taken: a park, a precise fault or a kill (R55, R154, R343). -/
def stopPass (s : State) (r : FragRef) (i : Instr) (slot : Nat) (x : Stop) : State :=
  let s := tickLane s r 1
  let s := s.modFrag r (fun f => { f with resume := slot, kept := { f.kept with opened := [] } })
  match x with
  | .park w => (match w with | .remote _ => holdLane s r w | _ => leaveLane s r w)
  | .fault cause faddr => preciseFault s r cause slot faddr (word0 i)
  | .kill => killGroup s r.core r.hslot 0

/-- A pass that stopped before any strand executed has not issued what its release waited for: it waits again (R229). -/
def releaseAgain (s : State) (r : FragRef) (done : Nat) : State :=
  if done = 0 then s.modFrag r (fun f => if f.resume = 0 then { f with released := false } else f) else s

/-- The lane goes on after the cycle in which a strand has performed at another core's part, charged already (R145). -/
def passHeld (s : State) (r : FragRef) : State :=
  tickLane (s.modFrag r (fun f => { f with kept := { f.kept with held := false } })) r 1

/-- The strands of a pass in slot order; each strand that executes is charged and takes its lane cycles (R50, R304). -/
def runStrands (r : FragRef) (w cycles : Nat) (body : State → Nat → StrandRes) :
    List Nat → State → State × Option (Nat × Stop)
  | [], s => (s, none)
  | sl :: rest, s =>
    if (s.frag r).kept.held then runStrands r w cycles body rest (passHeld s r)
    else
      match body s sl with
      | .ok s => runStrands r w cycles body rest (spend s r w cycles)
      | .stop s x => (s, some (sl, x))

/-- Count strand-operations (R337, LCNT2) or uniform instructions (LCNT3). -/
def bumpCount (s : State) (c off n : Nat) : State :=
  s.modCore c (fun k => { k with regs := k.regs.set off (k.regs.get 0 off + .ofNat 64 n) })

/-- The strands of a pass that have executed when it stops at a slot. -/
def doneSlots (slots : List Nat) (stop : Nat) : Nat := (slots.filter (· < stop)).length

/-- The lane cycles of one strand (R50, R86): 2 for i64 and n64, where a conversion counts by its destination (log entry 51), and
for CVTEF and FDOT2. A tree's body counts its own, and NOP takes one cycle for its pass (R87). -/
def strandCycles (i : Instr) : Nat :=
  match i with
  | .tree _ | .nop _ => 0
  | .cvtef _ | .fdot2 _ => 2
  | .scan f | .red f => if f.ty.is64 then 2 else 1
  | _ => match i.alu? with
    | some (_, f, _) => if f.ty.is64 then 2 else 1
    | none => 1

/-- The lane cycles that a strand-form pass takes beside those of its strands: one without an active strand, and that of NOP
(R50, R87). -/
def passCycles (i : Instr) (slots : List Nat) : Nat :=
  if slots.isEmpty then 1 else match i with | .nop _ => 1 | _ => 0

/-- A strand-form pass: the active strands from the resume slot, then `fin`. Without an active strand it takes one
cycle (R50). -/
def strandPass (i : Instr) (guard : BitVec 4) (gn : Bool) (w : Nat) (body : FragRef → State → Nat → StrandRes)
    (fin : State → FragRef → State) (s : State) : State :=
  match s.cur with
  | none => s
  | some r =>
    let s := beginPass s r i
    let slots := activeSlots s r guard gn (s.frag r).resume
    match runStrands r w (strandCycles i) (fun s sl => body r (awaitPreds s r sl [guard.toNat]) sl) slots s with
    | (s, none) => fin (bumpCount (tickLane s r (passCycles i slots)) r.core 0x510 slots.length) r
    | (s, some (sl, x)) =>
      let n := doneSlots slots sl
      stopPass (releaseAgain (bumpCount s r.core 0x510 n) r n) r i sl x

/-- A uniform pass: once, at the reference slot, when its guard holds there (R49). -/
def uniformPass (i : Instr) (guard : BitVec 4) (gn : Bool) (w : Nat) (body : FragRef → State → Nat → StrandRes)
    (fin : State → FragRef → State) (s : State) : State :=
  match s.cur with
  | none => s
  | some r =>
    let s := beginPass s r i
    let sl := (s.frag r).refSlot
    let s := awaitPreds s r sl [guard.toNat]
    if (s.frag r).kept.held then fin (bumpCount (passHeld s r) r.core 0x518 1) r
    else if !guardHolds (strandAt s r sl) guard gn then advance (tickLane s r 1) r i
    else
      match body r s sl with
      | .ok s => fin (bumpCount (spend s r w 1) r.core 0x518 1) r
      | .stop s x => stopPass (releaseAgain s r 0) r i sl x

/-- The switch of R168: the fragment's region becomes the REGION that follows, once in a pass. -/
def switchRegion (s : State) (r : FragRef) (i : Instr) : State :=
  let f := s.frag r
  if f.switched then s
  else
    match s.follow with
    | none => s
    | some (klive, vlive) =>
      let (id, s) := s.fresh
      let g := s.group r.core r.hslot
      let t := s.team r.core g.team
      s.setFrag r { f with switched := true, ireg := some f.region, region :=
        { opening := id, pc := nextPc f i, base := f.wbase, vlive := vlive, klive := klive,
          entryE := (slotsOf f.e).map (sidOf g), snap := snapshot t g f.m } }

/-- MFS %flags waits for what the fragment's own earlier passes have done to the flags (R51, R69, R110). -/
def awaitFlags (s : State) (r : FragRef) : State :=
  let m := (s.frag r).m
  let own := (s.group r.core r.hslot).late.map (fun x => match x with
    | .fset _ k t => if ownNote m k then t else 0
    | .fput _ k c => if ownNote m k then c + 4 else 0
    | _ => 0)
  awaitCycle s r (own.foldl Nat.max 0)

/-- Set sticky flags of a group (R68), in effect after the result latency (R69). -/
def orFlags (s : State) (r : FragRef) (f : BitVec 5) (lat : Nat) : State :=
  if f = 0 then s
  else s.modGroup r.core r.hslot (fun g => g.setFlags f (s.frag r).m (laneNow s r + lat) (s.core r.core).cycle)

end Sys2Proof.Machine
end

