-- ==== Sys2Proof/Machine/Special.lean ====
section
/-! DEFINITION. The special functions (R75, R76). Exact cases and special inputs have one result; elsewhere
the result is a free value (Config.specialCode) held within the bound of R75. The bound is checked against a
fixed-point evaluation of 200 fraction bits, so it may admit a code that lies outside the bound by less than
2^-150 of it (log entry 10). -/

namespace Sys2Proof.Num

/-- Functions of R75 that have a free value. SQRT is correctly rounded and has none. -/
inductive SpecFn where
  | rcp | rsq | ex2 | lg2 | sinp | cosp | tanh
  deriving DecidableEq, Repr

def SpecFn.code : SpecFn → Nat
  | .rcp => 0x28 | .rsq => 0x29 | .ex2 => 0x2B | .lg2 => 0x2C | .sinp => 0x2D | .cosp => 0x2E | .tanh => 0x2F

/-- Fraction bits of the fixed-point evaluation. -/
def fxBits : Nat := 200
def fxOne : Nat := 2 ^ fxBits
def fxPi : Nat := 0x3243f6a8885a308d313198a2e03707344a4093822299f31d008
def fxLn2 : Nat := 0xb17217f7d1cf79abc9e3b39803f2f6af40f343267298b62d8a

/-- Bits of the integer square root, from the highest. -/
def isqrtGo (n : Nat) : Nat → Nat → Nat
  | 0, r => r
  | k + 1, r => let r' := r + 2 ^ k; isqrtGo n k (if r' * r' ≤ n then r' else r)

/-- ⌊√n⌋. -/
def isqrt (n : Nat) : Nat := isqrtGo n (n.log2 / 2 + 1) 0

/-- √(n / d) with a sticky last bit: a fraction that every rounding of R31 takes as the exact root. -/
def sqrtX (n d : Nat) : Nat × Nat :=
  let x := n * 4 ^ fxBits / d
  let r := isqrt x
  let exact := r * r * d == n * 4 ^ fxBits
  (2 * r + (if exact then 0 else 1), 2 * fxOne)

/-- Terms of a power series in fixed point: `next k t` is the term after term k. -/
def series (next : Nat → Nat → Nat) : Nat → Nat → Nat → Nat
  | 0, _, _ => 0
  | n + 1, k, t => t + series next n (k + 1) (next k t)

/-- e ^ r for a fixed-point r in [0, 1). -/
def fxExp (r : Nat) : Nat := series (fun k t => t * r / fxOne / (k + 1)) 60 0 fxOne

/-- 2 ^ (n / d) with n / d in [0, 1). -/
def fxExp2 (n d : Nat) : Nat := fxExp (n * fxLn2 / d)

/-- log2 of a fixed-point m in [1, 2). -/
def fxLog2 (m : Nat) : Nat :=
  let t := (m - fxOne) * fxOne / (m + fxOne)
  let t2 := t * t / fxOne
  let pows := series (fun k p => p * t2 / fxOne * (2 * k + 1) / (2 * k + 3)) 70 0 t
  2 * pows * fxOne / fxLn2

/-- sin of a fixed-point angle in [0, π / 2]: alternating terms summed from the smallest. -/
def fxSinGo (x2 : Nat) : Nat → Nat → Nat → Nat
  | 0, _, _ => 0
  | n + 1, k, t => t - fxSinGo x2 n (k + 1) (t * x2 / fxOne / ((2 * k + 2) * (2 * k + 3)))

def fxSin (x : Nat) : Nat := fxSinGo (x * x / fxOne) 40 0 x

/-- sin(π n / d) for n / d in [0, 2): sign and fixed-point magnitude. -/
def sinPi (n d : Nat) : Bool × Nat :=
  let neg := d ≤ n
  let n1 := if neg then n - d else n
  let n2 := if d < 2 * n1 then d - n1 else n1
  (neg, fxSin (fxPi * n2 / d))

/-- tanh of a positive n / d below 10. -/
def tanhX (n d : Nat) : Nat × Nat :=
  if n * 256 < d then
    (n * (315 * d ^ 6 + 42 * n ^ 4 * d ^ 2 - 105 * n ^ 2 * d ^ 4 - 17 * n ^ 6), 315 * d ^ 7)
  else
    let z := 2 * n * fxOne / d
    let k := z / fxLn2
    let e := fxExp (z % fxLn2) * 2 ^ k
    (e - fxOne, e + fxOne)

/-- The exact result where R75 names one, else a close fraction: the value, and whether it is exact.
The argument is finite and not zero, and in the function's domain. -/
def specialX (fn : SpecFn) (neg : Bool) (n d : Nat) : FVal × Bool :=
  match fn with
  | .rcp =>
    -- a power of two has a power of two as its reciprocal, and every other number rounds
    (.fin neg d n, 2 ^ n.log2 == n && 2 ^ d.log2 == d)
  | .rsq =>
    let (a, b) := sqrtX d n
    (.fin false a b, a * a * n == b * b * d)
  | .ex2 =>
    let i : Int := if neg then -(((n + d - 1) / d : Nat) : Int) else ((n / d : Nat) : Int)
    let rest := if neg then (d - n % d) % d else n % d
    if (2000 : Int) < i then (.fin false (2 ^ 2000) 1, true)
    else if i < -2000 then (.fin false 1 (2 ^ 2000), false)
    else if rest = 0 then let (a, b) := pow2 i; (.fin false a b, true)
    else let (a, b) := pow2 i; (.fin false (a * fxExp2 rest d) (b * fxOne), false)
  | .lg2 =>
    let e := floorLog2 n d
    let (a, b) := pow2 e
    if n * b = a * d then (.fin (e < 0) e.natAbs 1, true)
    else
      let y : Int := e * fxOne + fxLog2 (n * b * fxOne / (a * d))
      (.fin (y < 0) y.natAbs fxOne, false)
  | .sinp =>
    if n % d = 0 then (.fin false 0 1, true)
    else
      let (s, y) := sinPi (n % (2 * d)) d
      if 2 * n % d = 0 then (.fin (s != neg) 1 1, true) else (.fin (s != neg) y fxOne, false)
  | .cosp =>
    let m := (2 * n + d) % (4 * d)
    let (s, y) := sinPi m (2 * d)
    -- from 2^23 on every f32 value is an integer and gives 1 (R75, log entry 31)
    if d * 2 ^ 23 ≤ n then (.fin false 1 1, true)
    else if n % d = 0 then (.fin s 1 1, true)
    else if 2 * n % d = 0 then (.fin false 0 1, true)
    else (.fin s y fxOne, false)
  | .tanh =>
    if 10 * d ≤ n then (.fin neg 1 1, true) else let (a, b) := tanhX n d; (.fin neg a b, false)

/-- |x − y| ≤ b for fractions with signs. -/
def within (x y : FVal) (bn bd : Nat) : Bool :=
  match x, y with
  | .fin s n d, .fin t n' d' =>
    let diff : Int := (if s then -(n : Int) else n) * d' - (if t then -(n' : Int) else n') * d
    diff.natAbs * bd ≤ bn * (d * d')
  | _, _ => false

/-- The bound of R75 on an inexact result y, as a fraction widened by 2^-150 of itself. -/
def specBound (fn : SpecFn) (t : Ty) (neg : Bool) (n d : Nat) (y : FVal) : Nat × Nat :=
  let single := t == .f32
  let f := fmt t
  let widen (a b : Nat) : Nat × Nat := (a * (2 ^ 150 + 1), b * 2 ^ 150)
  let abs : Nat × Nat := widen 1 (if single then 2 ^ 22 else 2 ^ 10)
  let ulps (a b : Nat) : Nat × Nat :=
    match y with
    | .fin _ yn yd =>
      let e := if yn = 0 then f.emin else floorLog2 yn yd
      let (p, q) := pow2 ((if e < f.emin then f.emin else e) - ((f.p : Int) - 1))
      widen (a * p) (b * q)
    | _ => (0, 1)
  match fn with
  | .rcp => if single then ulps 1 1 else ulps 1 2
  | .rsq | .ex2 | .tanh => if single then ulps 2 1 else ulps 1 1
  | .lg2 => if !neg && d ≤ 2 * n && n ≤ 2 * d then abs else if single then ulps 2 1 else ulps 1 1
  | .sinp | .cosp => abs

/-- A special function of a finite non-zero argument in its domain: the exact value where R75 names an exact case
and the type represents it, the infinity where the result is out of range, and elsewhere the free value of
Config.specialCode where it keeps the bound, or else the nearest code. -/
def specialFin (fn : SpecFn) (t : Ty) (neg : Bool) (n d : Nat) (src : Nat) : Nat × Flags :=
  let (y, exact) := specialX fn neg n d
  let (best, flags) := deliverF t .rne y
  if (exact && within (fval t best) y 0 1) || flags &&& ov != 0 then (best, flags)
  else
    let w := if t = .f32 then 32 else 16
    let c := Config.specialCode fn.code t.code src % 2 ^ w
    let (bn, bd) := specBound fn t neg n d y
    (if within (fval t c) y bn bd then c else best, flags)

/-- The special functions on every input (R75, R76). -/
def special (fn : SpecFn) (t : Ty) (src : Nat) : Nat × Flags :=
  let f := fmt t
  let one := f.bias * 2 ^ (f.p - 1)
  let code := src % (2 * f.signBit)
  match fval t src with
  | .nan => (f.nanCode, 0)
  | .inf neg =>
    match fn with
    | .rcp => (f.signed neg 0, 0)
    | .rsq => if neg then (f.nanCode, nv) else (0, 0)
    | .ex2 => if neg then (0, 0) else (f.infCode, 0)
    | .lg2 => if neg then (f.nanCode, nv) else (f.infCode, 0)
    | .sinp | .cosp => (f.nanCode, nv)
    | .tanh => (f.signed neg one, 0)
  | .fin neg n d =>
    if n = 0 then
      match fn with
      | .rcp | .rsq => (f.signed neg f.infCode, dz)
      | .ex2 | .cosp => (one, 0)
      | .lg2 => (f.signed true f.infCode, dz)
      | .sinp | .tanh => (f.signed neg 0, 0)
    else if neg && (fn = .rsq || fn = .lg2) then (f.nanCode, nv)
    else specialFin fn t neg n d code

/-- SQRT (R75, R76): correctly rounded in every mode. Of +∞ modes 5 and 6 deliver the largest finite value, by R67
(log entry 37). -/
def fsqrt (t : Ty) (m : Mode) (src : Nat) : Nat × Flags :=
  let f := fmt t
  match fval t src with
  | .nan => (f.nanCode, 0)
  | .inf neg => if neg then (f.nanCode, nv) else deliverF t m (.inf false)
  | .fin neg n d =>
    if n = 0 then (f.signed neg 0, 0)
    else if neg then (f.nanCode, nv)
    else let (a, b) := sqrtX n d; deliverF t m (.fin false a b)

end Sys2Proof.Num
end

