-- ==== Sys2Proof/Machine/Alu.lean ====
section
/-! DEFINITION. Opcodes 0x00-0x37: the value each operation computes from its sources (R87-R109), and the pass
that reads the sources, computes and writes (R82-R85). Arc operations of a TREE share the values. -/

namespace Sys2Proof.Machine

open Sys2Proof.Num

/-- Source values: registers as 64 bits (a single v register zero-extended) and the predicates with q15 true. -/
structure Ins where
  a : W64 := 0
  b : W64 := 0
  c : W64 := 0
  q : BitVec 16 := 0xFFFF
  deriving DecidableEq, Repr

/-- Results: d as a k register would take it, predicate writes, a second v register, and flags. -/
structure Outs where
  d : Option W64 := none
  e : Option W64 := none
  p : List (Nat × Bool) := []
  flags : BitVec 5 := 0
  deriving DecidableEq, Repr

def outInt (t : Ty) (m : Mode) (x : Int) : Outs :=
  let (v, f) := deliverInt t m x
  { d := some v, flags := f }

def outRaw (p : W64 × BitVec 5) : Outs := { d := some p.1, flags := p.2 }
def outNat (p : Nat × BitVec 5) : Outs := { d := some (.ofNat 64 p.1), flags := p.2 }

/-- The low bits of the type, as a natural number. -/
def natOf (t : Ty) (x : W64) : Nat := x.toNat % 2 ^ t.width

def nopVal (_ : FmtA) (_ : Ins) : Outs := {}

/-- MOV and SEL copy bits (R88, R97): integers extend by their type, floats and M8 keep their bits. -/
def copyBits (t : Ty) (x : W64) : W64 := if isIntTy t then intImage t (intOf t x) else .ofNat 64 (natOf t x)

def movVal (f : FmtA) (x : Ins) : Outs := { d := some (copyBits f.ty x.b) }
def addVal (f : FmtA) (x : Ins) : Outs := outInt f.ty f.mode (intOf f.ty x.a + intOf f.ty x.b)
def subVal (f : FmtA) (x : Ins) : Outs := outInt f.ty f.mode (intOf f.ty x.a - intOf f.ty x.b)
def mulVal (f : FmtA) (x : Ins) : Outs := outInt f.ty f.mode (intOf f.ty x.a * intOf f.ty x.b)

/-- MULH: the floor of the product over 2 ^ w (R89). -/
def mulhVal (f : FmtA) (x : Ins) : Outs :=
  outInt f.ty .rne ((intOf f.ty x.a * intOf f.ty x.b) / (2 ^ f.ty.width : Nat))

def madVal (f : FmtA) (x : Ins) : Outs :=
  outInt f.ty f.mode (intOf f.ty x.a * intOf f.ty x.b + intOf f.ty x.c)

/-- The carry predicate of ADDC and SUBB (R90): q15 reads true and is not written. -/
def carryOut (f : FmtA) (b : Bool) : List (Nat × Bool) := if f.c.toNat < 15 then [(f.c.toNat, b)] else []
def predOf (x : Ins) (r : BitVec 6) : Bool := x.q.getLsbD (r.toNat % 16)

def addcVal (f : FmtA) (x : Ins) : Outs :=
  let t := natOf f.ty x.a + natOf f.ty x.b + (if predOf x f.c then 1 else 0)
  { d := some (intImage f.ty (t : Int)), p := carryOut f (decide (2 ^ f.ty.width ≤ t)) }

def subbVal (f : FmtA) (x : Ins) : Outs :=
  let t : Int := (natOf f.ty x.a : Int) - (natOf f.ty x.b : Int) - (if predOf x f.c then 1 else 0)
  { d := some (intImage f.ty t), p := carryOut f (decide (t < 0)) }

def minVal (f : FmtA) (x : Ins) : Outs :=
  let a := intOf f.ty x.a
  let b := intOf f.ty x.b
  outInt f.ty .rne (if a ≤ b then a else b)

def maxVal (f : FmtA) (x : Ins) : Outs :=
  let a := intOf f.ty x.a
  let b := intOf f.ty x.b
  outInt f.ty .rne (if a ≤ b then b else a)

/-- ABS and NEG of floats act on sign bits only (R89). -/
def signBits (t : Ty) : Nat :=
  match t with
  | .f32 => 0x80000000
  | .h2 | .bh2 => 0x80008000
  | _ => 0x8000

def absVal (f : FmtA) (x : Ins) : Outs :=
  if isIntTy f.ty then
    let a := intOf f.ty x.a
    outInt f.ty f.mode (if a < 0 then -a else a)
  else
    let n := natOf f.ty x.a
    { d := some (.ofNat 64 n &&& ~~~(.ofNat 64 (signBits f.ty))) }

def negVal (f : FmtA) (x : Ins) : Outs :=
  if isIntTy f.ty then outInt f.ty f.mode (-(intOf f.ty x.a))
  else { d := some (.ofNat 64 (natOf f.ty x.a) ^^^ .ofNat 64 (signBits f.ty)) }

def andVal (f : FmtA) (x : Ins) : Outs := { d := some (intImage f.ty (intOf f.ty (x.a &&& x.b))) }
def orVal (f : FmtA) (x : Ins) : Outs := { d := some (intImage f.ty (intOf f.ty (x.a ||| x.b))) }
def xorVal (f : FmtA) (x : Ins) : Outs := { d := some (intImage f.ty (intOf f.ty (x.a ^^^ x.b))) }
def andnVal (f : FmtA) (x : Ins) : Outs := { d := some (intImage f.ty (intOf f.ty (x.a &&& ~~~x.b))) }

/-- The shift count: the natural value of the 32-bit register or literal (R93). Of a k register or a 64-bit literal it is
that of the low 32 bits (log entry 39). -/
def countOf (x : Ins) : Nat := x.b.toNat % 2 ^ 32

def shlVal (f : FmtA) (x : Ins) : Outs :=
  let n := countOf x
  { d := some (if f.ty.width ≤ n then 0 else intImage f.ty (natOf f.ty x.a * 2 ^ n : Nat)) }

def shrVal (f : FmtA) (x : Ins) : Outs :=
  let n := countOf x
  { d := some (if f.ty.width ≤ n then 0 else intImage f.ty (natOf f.ty x.a / 2 ^ n : Nat)) }

/-- SAR: arithmetic on the w bits, whatever the type (R93). -/
def sarVal (f : FmtA) (x : Ins) : Outs :=
  let w := f.ty.width
  let n := if w ≤ countOf x then w else countOf x
  let a := natOf f.ty x.a
  let v : Int := if 2 ^ (w - 1) ≤ a then (a : Int) - 2 ^ w else a
  { d := some (intImage f.ty (v / (2 ^ n : Nat))) }

def rotVal (f : FmtA) (x : Ins) : Outs :=
  let w := f.ty.width
  let n := countOf x % w
  let a := natOf f.ty x.a
  { d := some (intImage f.ty (a * 2 ^ n % 2 ^ w + a / 2 ^ (w - n) : Nat)) }

/-- BFX: a field of the type's value (R94). -/
def bfxVal (f : FmtA) (x : Ins) : Outs :=
  let pos := x.b.toNat % 256
  let len := x.b.toNat / 256 % 256
  let fld : Nat := ((intOf f.ty x.a / (2 ^ pos : Nat)) % (2 ^ len : Nat)).toNat
  let v : Int := if f.ty.signed && 1 ≤ len && 2 ^ (len - 1) ≤ fld then (fld : Int) - 2 ^ len else fld
  { d := some (if len = 0 then 0 else intImage f.ty v) }

/-- BFI: bits pos to pos + len - 1 below w come from a, the others from c (R94). -/
def bfiVal (f : FmtA) (x : Ins) : Outs :=
  let w := f.ty.width
  let pos := x.b.toNat % 256
  let len := x.b.toNat / 256 % 256
  let top := if pos + len < w then pos + len else w
  let n := if pos < top then top - pos else 0
  let c := natOf f.ty x.c
  let low := c % 2 ^ pos
  let r := if n = 0 then c else low + (natOf f.ty x.a % 2 ^ n) * 2 ^ pos + c / 2 ^ top * 2 ^ top
  { d := some (intImage f.ty (r : Int)) }

/-- Indices of the set bits below w, ascending. -/
def setBits (w n : Nat) : List Nat := (List.range w).filter n.testBit

def popcVal (f : FmtA) (x : Ins) : Outs :=
  { d := some (.ofNat 64 (setBits f.ty.width (natOf f.ty x.a)).length) }

def clzVal (f : FmtA) (x : Ins) : Outs :=
  let w := f.ty.width
  { d := some (.ofNat 64 (match (setBits w (natOf f.ty x.a)).getLast? with | some i => w - 1 - i | none => w)) }

def ctzVal (f : FmtA) (x : Ins) : Outs :=
  let w := f.ty.width
  { d := some (.ofNat 64 ((setBits w (natOf f.ty x.a)).headD w)) }

/-- FNSB: set bit number n from below, or from above with fn 1 (R95). -/
def fnsbVal (f : FmtA) (x : Ins) : Outs :=
  let bits := setBits f.ty.width (natOf f.ty x.a)
  let l := if f.fn = 1 then bits.reverse else bits
  { d := some (.ofNat 64 (l.getD (countOf x) 0xFFFFFFFF)) }

def brevVal (f : FmtA) (x : Ins) : Outs :=
  let w := f.ty.width
  let r := (setBits w (natOf f.ty x.a)).foldl (fun acc i => acc + 2 ^ (w - 1 - i)) 0
  { d := some (intImage f.ty (r : Int)) }

def selVal (f : FmtA) (x : Ins) : Outs := { d := some (copyBits f.ty (if predOf x f.c then x.a else x.b)) }
def cmpVal (f : FmtA) (x : Ins) : Outs :=
  { p := [(f.d.toNat, intCond f.fn.toNat (intOf f.ty x.a) (intOf f.ty x.b))] }

/-- PLOG: bit 2 Q(a) + Q(b) of the table in fn (R98). -/
def plogVal (f : FmtA) (x : Ins) : Outs :=
  let i := (if predOf x f.a then 2 else 0) + (if predOf x f.b then 1 else 0)
  { p := [(f.d.toNat, f.fn.getLsbD i)] }

def pmovVal (f : FmtA) (x : Ins) : Outs :=
  match f.fn.toNat with
  | 0 => { p := [(f.d.toNat, x.a.toNat % 2 ^ 32 != 0)] }
  | 1 => { d := some (if predOf x f.a then 1 else 0) }
  | 2 => { d := some ((x.q ||| 0x8000#16).zeroExtend 64) }
  | _ => { p := (List.range 15).map (fun i => (i, x.a.getLsbD i)) }

def faddVal (f : FmtA) (x : Ins) : Outs := outRaw (lift2 f.ty (fadd1 (elemTy f.ty) f.mode) x.a.toNat x.b.toNat)
def fsubVal (f : FmtA) (x : Ins) : Outs := outRaw (lift2 f.ty (fsub1 (elemTy f.ty) f.mode) x.a.toNat x.b.toNat)
def fmulVal (f : FmtA) (x : Ins) : Outs := outRaw (lift2 f.ty (fmul1 (elemTy f.ty) f.mode) x.a.toNat x.b.toNat)
def ffmaVal (f : FmtA) (x : Ins) : Outs :=
  outRaw (lift3 f.ty (ffma1 (elemTy f.ty) f.mode) x.a.toNat x.b.toNat x.c.toNat)
def fminVal (f : FmtA) (x : Ins) : Outs := outRaw (lift2 f.ty (fminmax1 (elemTy f.ty) false) x.a.toNat x.b.toNat)
def fmaxVal (f : FmtA) (x : Ins) : Outs := outRaw (lift2 f.ty (fminmax1 (elemTy f.ty) true) x.a.toNat x.b.toNat)
def fcmpVal (f : FmtA) (x : Ins) : Outs :=
  { p := [(f.d.toNat, floatCond f.fn.toNat (fval f.ty x.a.toNat) (fval f.ty x.b.toNat))] }
def fclsVal (f : FmtA) (x : Ins) : Outs := { d := some (.ofNat 64 (fclass f.ty x.a.toNat)) }
def rcpVal (f : FmtA) (x : Ins) : Outs := outNat (special .rcp f.ty x.a.toNat)
def rsqVal (f : FmtA) (x : Ins) : Outs := outNat (special .rsq f.ty x.a.toNat)
def sqrtVal (f : FmtA) (x : Ins) : Outs := outNat (fsqrt f.ty f.mode x.a.toNat)
def ex2Val (f : FmtA) (x : Ins) : Outs := outNat (special .ex2 f.ty x.a.toNat)
def lg2Val (f : FmtA) (x : Ins) : Outs := outNat (special .lg2 f.ty x.a.toNat)
def sinpVal (f : FmtA) (x : Ins) : Outs := outNat (special .sinp f.ty x.a.toNat)
def cospVal (f : FmtA) (x : Ins) : Outs := outNat (special .cosp f.ty x.a.toNat)
def tanhVal (f : FmtA) (x : Ins) : Outs := outNat (special .tanh f.ty x.a.toNat)

/-- CVT (R104). The source type stands in field c. -/
def cvtVal (f : FmtA) (x : Ins) : Outs := outRaw (convert f.ty (f.stype.getD .i8) f.mode x.a)

def cvtefVal (f : FmtA) (x : Ins) : Outs :=
  let (y, r, g) := cvtef f.ty f.mode (x.a.toNat % 2 ^ 32)
  { d := some (.ofNat 64 y), e := some (.ofNat 64 r), flags := g }

/-- PACK (R107): element e of c replaced. Bits [63:32] of a k register's result are 0 (log entry 40). -/
def packVal (f : FmtA) (x : Ins) : Outs :=
  let w := if f.ty.isPair then 16 else f.ty.width
  let n := 32 / w
  let e := countOf x % n
  let src : Nat × BitVec 5 :=
    if f.ty.isPair then
      (if f.fn = 1 then deliverF (elemTy f.ty) f.mode (fval .f32 x.a.toNat) else (x.a.toNat % 2 ^ 16, 0))
    else
      let v : Int := if f.ty.signed then intOf .i32 x.a else intOf .n32 x.a
      let (r, g) := deliverInt f.ty f.mode v
      (r.toNat % 2 ^ w, g)
  let c := x.c.toNat % 2 ^ 32
  let lo := c % 2 ^ (w * e)
  let hi := c / 2 ^ (w * (e + 1)) * 2 ^ (w * (e + 1))
  { d := some (.ofNat 64 (lo + src.1 * 2 ^ (w * e) + hi)), flags := src.2 }

def unpkVal (f : FmtA) (x : Ins) : Outs :=
  let w := if f.ty.isPair then 16 else f.ty.width
  let e := countOf x % (32 / w)
  let v := x.a.toNat % 2 ^ 32 / 2 ^ (w * e) % 2 ^ w
  if f.ty.isPair then
    (if f.fn = 1 then outNat (deliverF .f32 .rne (fval (elemTy f.ty) v)) else { d := some (.ofNat 64 v) })
  else { d := some (intImage f.ty (intOf f.ty (.ofNat 64 v))) }

/-- Byte element i as a signed or natural number. -/
def byteElem (signed : Bool) (x : Nat) (i : Nat) : Int :=
  let v := x / 2 ^ (8 * i) % 256
  if signed && 128 ≤ v then (v : Int) - 256 else v

def dot4Val (f : FmtA) (x : Ins) : Outs :=
  let sa := f.ty.signed
  let sb := if f.fn = 1 then !sa else sa
  let rt : Ty := if sa || sb then .i32 else .n32
  let sum := ((List.range 4).map (fun i => byteElem sa x.a.toNat i * byteElem sb x.b.toNat i)).foldl (· + ·) 0
  outInt rt f.mode (intOf rt x.c + sum)

def fdot2Val (f : FmtA) (x : Ins) : Outs := outNat (fdot2 f.ty f.mode x.a.toNat x.b.toNat x.c.toNat)

/-- BLUT (R92): bit i of the result is bit 4c + 2b + a of the table. -/
def blutVal (f : FmtA) (t : Byte) (x : Ins) : Outs :=
  let pick (i : Nat) : W64 := if t.getLsbD i then BitVec.allOnes 64 else 0
  let na := ~~~x.a
  let nb := ~~~x.b
  let nc := ~~~x.c
  let r := (pick 0 &&& nc &&& nb &&& na) ||| (pick 1 &&& nc &&& nb &&& x.a) ||| (pick 2 &&& nc &&& x.b &&& na)
    ||| (pick 3 &&& nc &&& x.b &&& x.a) ||| (pick 4 &&& x.c &&& nb &&& na) ||| (pick 5 &&& x.c &&& nb &&& x.a)
    ||| (pick 6 &&& x.c &&& x.b &&& na) ||| (pick 7 &&& x.c &&& x.b &&& x.a)
  { d := some (if f.fn = 1 then r else .ofNat 64 (r.toNat % 2 ^ 32)) }

/-- The value of every operation but QBLK, which reads a whole block. -/
def aluVal (op : AluOp) (f : FmtA) (t : Byte) (x : Ins) : Outs :=
  match op with
  | .nop => nopVal f x | .mov => movVal f x | .add => addVal f x | .sub => subVal f x | .mul => mulVal f x
  | .mulh => mulhVal f x | .mad => madVal f x | .addc => addcVal f x | .subb => subbVal f x | .min => minVal f x
  | .max => maxVal f x | .abs => absVal f x | .neg => negVal f x | .and => andVal f x | .or => orVal f x
  | .xor => xorVal f x | .andn => andnVal f x | .shl => shlVal f x | .shr => shrVal f x | .sar => sarVal f x
  | .rot => rotVal f x | .bfx => bfxVal f x | .bfi => bfiVal f x | .popc => popcVal f x | .clz => clzVal f x
  | .ctz => ctzVal f x | .fnsb => fnsbVal f x | .brev => brevVal f x | .sel => selVal f x | .cmp => cmpVal f x
  | .plog => plogVal f x | .pmov => pmovVal f x | .fadd => faddVal f x | .fsub => fsubVal f x
  | .fmul => fmulVal f x | .ffma => ffmaVal f x | .fmin => fminVal f x | .fmax => fmaxVal f x
  | .fcmp => fcmpVal f x | .fcls => fclsVal f x | .rcp => rcpVal f x | .rsq => rsqVal f x | .sqrt => sqrtVal f x
  | .ex2 => ex2Val f x | .lg2 => lg2Val f x | .sinp => sinpVal f x | .cosp => cospVal f x | .tanh => tanhVal f x
  | .cvt => cvtVal f x | .cvtef => cvtefVal f x | .qblk => {} | .pack => packVal f x | .unpk => unpkVal f x
  | .dot4 => dot4Val f x | .fdot2 => fdot2Val f x | .blut => blutVal f t x

/-! ## The shared pass (R82) -/

/-- Source a, b and c as registers; a literal, a predicate, CVTEF's second destination and QBLK's scale are no
source registers. -/
def srcA (op : AluOp) (f : FmtA) : Option SrcReg :=
  if (aluRow op f).a = .reg then
    some { isK := f.u || f.ka, num := f.a.toNat, pair := (aluRow op f).pa, trap := f.ea }
  else none

def srcB (op : AluOp) (f : FmtA) : Option SrcReg :=
  if (aluRow op f).b = .reg && f.lit.isNone && op != .cvtef then
    some { isK := f.u || f.kb, num := f.b.toNat, pair := (aluRow op f).pb, trap := f.eb }
  else none

def srcC (op : AluOp) (f : FmtA) : Option SrcReg :=
  if (aluRow op f).c = .reg then
    some { isK := f.u || f.kc, num := f.c.toNat, pair := (aluRow op f).pc, trap := f.ec }
  else none

def aluSources (op : AluOp) (f : FmtA) : List SrcReg := [srcA op f, srcB op f, srcC op f].filterMap id

/-- Whether an operation writes a register in d. -/
def writesReg (op : AluOp) (f : FmtA) : Bool := (aluRow op f).d = .reg

/-- The v registers an operation writes. -/
def vDests (op : AluOp) (f : FmtA) : List Nat :=
  if !writesReg op f then []
  else (if (aluRow op f).pd then [f.d.toNat, f.d.toNat + 1] else [f.d.toNat])
    ++ (if op = .cvtef then [f.b.toNat] else [])

/-- Read an optional source. -/
def readOpt (s : State) (r : FragRef) (slot : Nat) : Option SrcReg → W64 × State
  | none => (0, s)
  | some x => readSource s r slot x

/-- The predicates an operation reads (R84). -/
def predSources (op : AluOp) (f : FmtA) : List Nat :=
  let q (x : BitVec 6) : Nat := x.toNat % 16
  match op with
  | .addc | .subb | .sel => [q f.c]
  | .plog => [q f.a, q f.b]
  | .pmov => if f.fn = 1 then [q f.a] else if f.fn = 2 then List.range 15 else []
  | _ => []

/-- Read the sources in the order a, b, c (R215). -/
def readIns (s : State) (r : FragRef) (slot : Nat) (op : AluOp) (f : FmtA) : Ins × State :=
  let (a, s) := readOpt s r slot (srcA op f)
  let (b, s) := readOpt s r slot (srcB op f)
  let (c, s) := readOpt s r slot (srcC op f)
  ({ a := a, b := f.lit.getD b, c := c, q := (strandAt s r slot).preds16 }, s)

/-- Predicate destinations of a uniform form are written in every strand of M (R84). -/
def writePredsAll (lat : Nat) (s : State) (r : FragRef) (ps : List (Nat × Bool)) : State :=
  (slotsOf (s.frag r).m).foldl (fun s sl => writePreds lat s r sl ps) s

/-- Whether an instruction reaches a queue port, so that it switches regions when it performs (R168). -/
def usesPort (xs : List SrcReg) (u : Bool) (d : Nat) : Bool :=
  xs.any (fun x => x.isK && 56 ≤ x.num) || (u && 56 ≤ d)

/-- One strand of an arithmetic pass, or the uniform form at its reference slot. -/
def aluBody (i : Instr) (op : AluOp) (f : FmtA) (val : Ins → Outs) (r : FragRef) (s : State) (slot : Nat) :
    StrandRes :=
  let xs := aluSources op f
  let s := awaitPreds (awaitSources s r slot xs) r slot (predSources op f)
  match checkSources s r slot xs with
  | some x => .stop s x
  | none =>
    match checkPorts s r xs with
    | some x => .stop s x
    | none =>
      let dst := if f.u then (if writesReg op f then checkKDest s r slot [f.d.toNat] xs else none)
        else checkVDest s r slot (vDests op f)
      match dst with
      | some x => .stop s x
      | none =>
        let port := usesPort xs (f.u && writesReg op f) f.d.toNat
        let s := if port then switchRegion s r i else s
        let (x, s) := readIns s r slot op f
        let o := val x
        let lat := latencyOf op.code f.ty f.u
        let s := orFlags s r o.flags lat
        if f.u then
          let s := writePredsAll lat s r o.p
          .ok (match o.d with
            | some v => if !writesReg op f then s
                else if popsPort xs && f.d.toNat < 56 then fillLater s r slot true f.d.toNat [v]
                else writeKAt s r f.d.toNat v lat
            | none => s)
        else
          let s := writePreds lat s r slot o.p
          let put (s : State) (n : Nat) (ws : List W32) : State := putVs (popsPort xs) lat s r slot n ws
          let s := match o.d with
            | some v => if writesReg op f then put s f.d.toNat (vWords (aluRow op f).pd v) else s
            | none => s
          .ok (match o.e with | some v => put s f.b.toNat [v.truncate 32] | none => s)

/-- An arithmetic instruction (R82). -/
def aluPass (i : Instr) (op : AluOp) (f : FmtA) (val : Ins → Outs) (s : State) : Host.Outcome State Fault Refusal :=
  let w := weightOf op.code * (if f.u then 1 else typeFactor op.code f.ty)
  .next (if f.u then uniformPass i f.guard f.gn w (aluBody i op f val) (fun s r => advance s r i) s
    else strandPass i f.guard f.gn w (aluBody i op f val) (fun s r => advance s r i) s)

def execNop (f : FmtA) (s : State) : Host.Outcome State Fault Refusal := aluPass (.nop f) .nop f (nopVal f) s
def execMov (f : FmtA) (s : State) : Host.Outcome State Fault Refusal := aluPass (.mov f) .mov f (movVal f) s
def execAdd (f : FmtA) (s : State) : Host.Outcome State Fault Refusal := aluPass (.add f) .add f (addVal f) s
def execSub (f : FmtA) (s : State) : Host.Outcome State Fault Refusal := aluPass (.sub f) .sub f (subVal f) s
def execMul (f : FmtA) (s : State) : Host.Outcome State Fault Refusal := aluPass (.mul f) .mul f (mulVal f) s
def execMulh (f : FmtA) (s : State) : Host.Outcome State Fault Refusal := aluPass (.mulh f) .mulh f (mulhVal f) s
def execMad (f : FmtA) (s : State) : Host.Outcome State Fault Refusal := aluPass (.mad f) .mad f (madVal f) s
def execAddc (f : FmtA) (s : State) : Host.Outcome State Fault Refusal := aluPass (.addc f) .addc f (addcVal f) s
def execSubb (f : FmtA) (s : State) : Host.Outcome State Fault Refusal := aluPass (.subb f) .subb f (subbVal f) s
def execMin (f : FmtA) (s : State) : Host.Outcome State Fault Refusal := aluPass (.min f) .min f (minVal f) s
def execMax (f : FmtA) (s : State) : Host.Outcome State Fault Refusal := aluPass (.max f) .max f (maxVal f) s
def execAbs (f : FmtA) (s : State) : Host.Outcome State Fault Refusal := aluPass (.abs f) .abs f (absVal f) s
def execNeg (f : FmtA) (s : State) : Host.Outcome State Fault Refusal := aluPass (.neg f) .neg f (negVal f) s
def execAnd (f : FmtA) (s : State) : Host.Outcome State Fault Refusal := aluPass (.and f) .and f (andVal f) s
def execOr (f : FmtA) (s : State) : Host.Outcome State Fault Refusal := aluPass (.or f) .or f (orVal f) s
def execXor (f : FmtA) (s : State) : Host.Outcome State Fault Refusal := aluPass (.xor f) .xor f (xorVal f) s
def execAndn (f : FmtA) (s : State) : Host.Outcome State Fault Refusal := aluPass (.andn f) .andn f (andnVal f) s
def execShl (f : FmtA) (s : State) : Host.Outcome State Fault Refusal := aluPass (.shl f) .shl f (shlVal f) s
def execShr (f : FmtA) (s : State) : Host.Outcome State Fault Refusal := aluPass (.shr f) .shr f (shrVal f) s
def execSar (f : FmtA) (s : State) : Host.Outcome State Fault Refusal := aluPass (.sar f) .sar f (sarVal f) s
def execRot (f : FmtA) (s : State) : Host.Outcome State Fault Refusal := aluPass (.rot f) .rot f (rotVal f) s
def execBfx (f : FmtA) (s : State) : Host.Outcome State Fault Refusal := aluPass (.bfx f) .bfx f (bfxVal f) s
def execBfi (f : FmtA) (s : State) : Host.Outcome State Fault Refusal := aluPass (.bfi f) .bfi f (bfiVal f) s
def execPopc (f : FmtA) (s : State) : Host.Outcome State Fault Refusal := aluPass (.popc f) .popc f (popcVal f) s
def execClz (f : FmtA) (s : State) : Host.Outcome State Fault Refusal := aluPass (.clz f) .clz f (clzVal f) s
def execCtz (f : FmtA) (s : State) : Host.Outcome State Fault Refusal := aluPass (.ctz f) .ctz f (ctzVal f) s
def execFnsb (f : FmtA) (s : State) : Host.Outcome State Fault Refusal := aluPass (.fnsb f) .fnsb f (fnsbVal f) s
def execBrev (f : FmtA) (s : State) : Host.Outcome State Fault Refusal := aluPass (.brev f) .brev f (brevVal f) s
def execSel (f : FmtA) (s : State) : Host.Outcome State Fault Refusal := aluPass (.sel f) .sel f (selVal f) s
def execCmp (f : FmtA) (s : State) : Host.Outcome State Fault Refusal := aluPass (.cmp f) .cmp f (cmpVal f) s
def execPlog (f : FmtA) (s : State) : Host.Outcome State Fault Refusal := aluPass (.plog f) .plog f (plogVal f) s
def execPmov (f : FmtA) (s : State) : Host.Outcome State Fault Refusal := aluPass (.pmov f) .pmov f (pmovVal f) s
def execFadd (f : FmtA) (s : State) : Host.Outcome State Fault Refusal := aluPass (.fadd f) .fadd f (faddVal f) s
def execFsub (f : FmtA) (s : State) : Host.Outcome State Fault Refusal := aluPass (.fsub f) .fsub f (fsubVal f) s
def execFmul (f : FmtA) (s : State) : Host.Outcome State Fault Refusal := aluPass (.fmul f) .fmul f (fmulVal f) s
def execFfma (f : FmtA) (s : State) : Host.Outcome State Fault Refusal := aluPass (.ffma f) .ffma f (ffmaVal f) s
def execFmin (f : FmtA) (s : State) : Host.Outcome State Fault Refusal := aluPass (.fmin f) .fmin f (fminVal f) s
def execFmax (f : FmtA) (s : State) : Host.Outcome State Fault Refusal := aluPass (.fmax f) .fmax f (fmaxVal f) s
def execFcmp (f : FmtA) (s : State) : Host.Outcome State Fault Refusal := aluPass (.fcmp f) .fcmp f (fcmpVal f) s
def execFcls (f : FmtA) (s : State) : Host.Outcome State Fault Refusal := aluPass (.fcls f) .fcls f (fclsVal f) s
def execRcp (f : FmtA) (s : State) : Host.Outcome State Fault Refusal := aluPass (.rcp f) .rcp f (rcpVal f) s
def execRsq (f : FmtA) (s : State) : Host.Outcome State Fault Refusal := aluPass (.rsq f) .rsq f (rsqVal f) s
def execSqrt (f : FmtA) (s : State) : Host.Outcome State Fault Refusal := aluPass (.sqrt f) .sqrt f (sqrtVal f) s
def execEx2 (f : FmtA) (s : State) : Host.Outcome State Fault Refusal := aluPass (.ex2 f) .ex2 f (ex2Val f) s
def execLg2 (f : FmtA) (s : State) : Host.Outcome State Fault Refusal := aluPass (.lg2 f) .lg2 f (lg2Val f) s
def execSinp (f : FmtA) (s : State) : Host.Outcome State Fault Refusal := aluPass (.sinp f) .sinp f (sinpVal f) s
def execCosp (f : FmtA) (s : State) : Host.Outcome State Fault Refusal := aluPass (.cosp f) .cosp f (cospVal f) s
def execTanh (f : FmtA) (s : State) : Host.Outcome State Fault Refusal := aluPass (.tanh f) .tanh f (tanhVal f) s
def execCvt (f : FmtA) (s : State) : Host.Outcome State Fault Refusal := aluPass (.cvt f) .cvt f (cvtVal f) s
def execCvtef (f : FmtA) (s : State) : Host.Outcome State Fault Refusal := aluPass (.cvtef f) .cvtef f (cvtefVal f) s
def execPack (f : FmtA) (s : State) : Host.Outcome State Fault Refusal := aluPass (.pack f) .pack f (packVal f) s
def execUnpk (f : FmtA) (s : State) : Host.Outcome State Fault Refusal := aluPass (.unpk f) .unpk f (unpkVal f) s
def execDot4 (f : FmtA) (s : State) : Host.Outcome State Fault Refusal := aluPass (.dot4 f) .dot4 f (dot4Val f) s
def execFdot2 (f : FmtA) (s : State) : Host.Outcome State Fault Refusal := aluPass (.fdot2 f) .fdot2 f (fdot2Val f) s
def execBlut (f : FmtA) (t : Byte) (s : State) : Host.Outcome State Fault Refusal :=
  aluPass (.blut f t) .blut f (blutVal f t) s


/-! ## QBLK (R79, R106) -/

/-- Stop in the first traversal: nothing has been written, and the pass resumes at its first active strand
while %fslot names the strand that stopped. -/
def stopFirst (s : State) (r : FragRef) (i : Instr) (slot : Nat) (x : Stop) : State :=
  let s := tickLane s r 1
  match x with
  | .park w => (leaveLane s r w).modFrag r (fun f => { f with resume := 0 })
  | .fault cause faddr =>
    let f := s.frag r
    takeException s r { entry := r.entry, cause := cause, fslot := slot, fpc := f.pc, faddr := faddr,
                        fword := word0 i, heldE := f.e, pc := f.pc, slot := 0 }
  | .kill => killGroup s r.core r.hslot 0

/-- A first traversal that writes nothing, one strand per lane cycle: the first strand that stops ends it in its own cycle. -/
def readTraversal (r : FragRef) (wait : State → Nat → State) (check : State → Nat → Option Stop) :
    List Nat → State → State × Option (Nat × Stop)
  | [], s => (s, none)
  | sl :: rest, s =>
    let s := wait s sl
    match check s sl with
    | some x => (s, some (sl, x))
    | none => readTraversal r wait check rest (tickLane s r 1)

/-- The larger of two non-negative fractions. -/
def fracMax (a b : Nat × Nat) : Nat × Nat := if a.1 * b.2 < b.1 * a.2 then b else a

def magnitude (v : FVal) : Nat × Nat :=
  match v with
  | .fin _ n d => (n, d)
  | _ => (0, 1)

/-- The scale of a block (R79): the smallest f16 at or above M / Q, with the saturate flag. -/
def qScale (m : Nat × Nat) (q : Nat) : Nat × BitVec 5 :=
  if m.1 = 0 then (0, 0)
  else if 65504 * (m.2 * q) < m.1 then (0x7BFF, sat)
  else ((encodeFin f16 .rup false m.1 (m.2 * q)).1, 0)

/-- One quantised element and its flags (R79). -/
def qElem (q : Nat) (scale : Nat) (v : FVal) : Int × BitVec 5 :=
  match v with
  | .nan => (0, nv)
  | .inf neg => (if neg then -(q : Int) else q, ov)
  | .fin neg n d =>
    match decodeBin f16 scale with
    | .fin _ sn sd =>
      if sn = 0 then (0, 0)
      else
        let k := roundNat .ne neg (n * sd) (d * sn)
        let k := if q < k then q else k
        (if neg then -(k : Int) else k, 0)
    | _ => (0, 0)

def execQblk (f : FmtA) (s : State) : Host.Outcome State Fault Refusal :=
  match s.cur with
  | none => .next s
  | some r =>
    let i : Instr := .qblk f
    let s := beginPass s r i
    let slots := activeSlots s r f.guard f.gn 0
    let srcs : List SrcReg := (List.range 4).map (fun j => { isK := false, num := f.a.toNat + j, trap := f.ea })
    let wait (s : State) (sl : Nat) : State := awaitSources (awaitPreds s r sl [f.guard.toNat]) r sl srcs
    -- one strand: its sources, then the scale register, then d (log entry 51)
    let check (s : State) (sl : Nat) : Option Stop :=
      (checkSources s r sl srcs).orElse (fun _ =>
        (if some sl = slots.head? then checkKDest s r sl [f.b.toNat] [] else none).orElse (fun _ =>
          checkVDest s r sl [f.d.toNat]))
    match readTraversal r wait check slots s with
    | (s, some (sl, x)) => .next (stopFirst s r i sl x)
    | (s, none) =>
      if slots.isEmpty then .next (advance (tickLane s r 1) r i)
      else
        let elems (sl : Nat) : List FVal := (readAll s r sl srcs).1.map (fun v => fval .f32 v.toNat)
        let m := (slots.map (fun sl => (elems sl).map magnitude)).flatten.foldl fracMax (0, 1)
        let q := if f.ty = .i8 then 127 else 7
        let w := if f.ty = .i8 then 8 else 4
        let (scale, fl) := qScale m q
        let s1 := writeK (orFlags s r fl 4) r f.b.toNat (.ofNat 64 scale)
        let s2 := slots.foldl (fun st sl =>
          let qs := (elems sl).map (qElem q scale)
          let word := (qs.zipIdx.map (fun p => (Int.emod p.1.1 (2 ^ w)).toNat * 2 ^ (w * p.2))).foldl (· + ·) 0
          let st := orFlags st r (qs.foldl (fun a p => a ||| p.2) 0) 4
          spend (writeVs st r sl f.d.toNat [.ofNat 32 word]) r (weightOf 0x32) 1) s1
        .next (advance (bumpCount s2 r.core 0x510 slots.length) r i)

end Sys2Proof.Machine
end

