-- ==== Sys2Proof/Machine/Xlate.lean ====
section
/-! DEFINITION. Translation (R183-R188, R191): page-table walks, translation slices, the attribute TLB, peer
windows, and the violation log (R193). -/

namespace Sys2Proof.Machine

/-- The root table of a context, by ASID (R184, R284). -/
def rootOf (s : State) (asid : Nat) : Nat := s.roots.get 0 asid

/-- Write a violation-log entry (R193). -/
def logViolation (s : State) (d : Nat) (v : Violation) : State :=
  let dd := s.die d
  let n := (dd.regs.get 0 0x8).toNat % 64
  let a := 0x100 + 32 * n
  let w2 := v.asid % 65536 * 2 ^ 48 + v.source * 2 ^ 24 + v.kind * 2 ^ 16 + v.who
  let put (m : SMap W64) (p : Nat × Nat) : SMap W64 := m.set p.1 (.ofNat 64 p.2)
  let regs := [(a, v.gt), (a + 8, v.addr), (a + 16, w2), (a + 24, 0)].foldl put dd.regs
  s.modDie d (fun x => { x with regs := regs.set 0x8 (regs.get 0 0x8 + 1) })

/-- The first VA bit that a level's index stands at: a leaf there maps 2 to that power (R184). -/
def levelShift (level : Nat) : Nat :=
  match level with
  | 0 => 15 | 1 => 21 | 2 => 30 | 3 => 39 | _ => 48

def levelIndex (level va : Nat) : Nat := va / 2 ^ levelShift level % (if level = 0 then 64 else 512)

/-- How a walk ends. -/
inductive WalkEnd where
  | leaf (bits : Nat) (at_ : Nat) (e : PageLeaf)
  | absent (malformed : Bool)
  deriving DecidableEq, Repr

/-- A leaf entry's fields (R185). -/
def leafOf (e : Nat) : PageLeaf :=
  { attr := e / 2 ^ 62 % 4, pwin := e / 2 ^ 54 % 256, reach := e / 2 ^ 52 % 4, frame := e / 2 ^ 15 % 2 ^ 37,
    key := e / 2 ^ 10 % 32, tagc := e / 512 % 2 = 1, x := e / 8 % 2 = 1, w := e / 4 % 2 = 1, rd := e / 2 % 2 = 1 }

/-- What one entry of a level says (R185, R186): end the walk, or go on at a table. -/
def readEntry (level at_ e : Nat) : WalkEnd ⊕ Nat :=
  if e % 2 = 0 then .inl (.absent false)
  else if e / 16 % 2 = 1 then
    let l := leafOf e
    let bits := levelShift level
    let low := l.frame % 2 ^ (bits - 15)
    if e / 32 % 8 ≠ 0 || l.attr = 3 || l.reach = 3 || (l.pwin ≠ 0 && l.attr ≠ 2) || 3 ≤ level || low ≠ 0
        || (l.attr = 0 && 2 ^ 23 ≤ l.frame) then .inl (.absent true)
    else .inl (.leaf bits at_ l)
  else
    let next := e / 512 % 2 ^ 43 * 512
    if e / 2 ^ 52 ≠ 0 || e / 32 % 16 ≠ 0 || e / 2 % 8 ≠ 0 || level = 0 || (level ≠ 1 && next / 512 % 8 ≠ 0) then
      .inl (.absent true)
    else .inr next

/-- Walk from a level down (R184): the end and the pointers met. -/
def walkFrom (m : List Host.Cell) (va : Nat) : Nat → Nat → WalkEnd × List (Nat × Nat)
  | 0, table =>
    let a := table + 8 * levelIndex 0 va
    match readEntry 0 a (Memory.word m a 8) with
    | .inl w => (w, [])
    | .inr _ => (.absent true, [])
  | level + 1, table =>
    let a := table + 8 * levelIndex (level + 1) va
    match readEntry (level + 1) a (Memory.word m a 8) with
    | .inl w => (w, [])
    | .inr next =>
      let (w, ps) := walkFrom m va level next
      (w, (level + 1, next) :: ps)

/-- The newest byte of the home: pending entries included (R223 S7). -/
def newestByte (s : State) (pa : Nat) : Byte :=
  let h := s.homes.get {} (pa / 256)
  h.pending.foldl (fun b p => (SMap.find? p.bytes (pa % 256)).getD b) (Memory.read s.mem pa)

def newestBytes (s : State) (pa : Nat) : Nat → List Byte
  | 0 => []
  | n + 1 => newestByte s pa :: newestBytes s (pa + 1) n

def newestWord (s : State) (pa n : Nat) : Nat := bytesVal (newestBytes s pa n)

/-- Set the accessed bit of a leaf entry by an atomic OR at its home; nothing when it is set (R186). -/
def setAccessed (s : State) (at_ : Nat) : State :=
  let b := (newestByte s (at_ + 1)).toNat
  if b % 2 = 1 then s
  else (arriveAt s (at_ / 256) { t := none, bytes := [((at_ + 1) % 256, .ofNat 8 (b + 1))] }).2

/-- The slice of a VA (R188). -/
def sliceOf (va : Nat) : Nat := va / 2 ^ 15 % 4

def pwEntry (dd : Die) (w : Nat) : W64 × W64 := (dd.regs.get 0 (0x1000 + 16 * w), dd.regs.get 0 (0x1008 + 16 * w))

def leafBase (bits va : Nat) : Nat := va / 2 ^ bits * 2 ^ bits

/-- The byte address that a leaf gives a VA. -/
def leafAddr (bits va : Nat) (l : PageLeaf) : Nat := l.frame * 2 ^ 15 + va % 2 ^ bits

/-- The entries that a walk from a table reads, by address. -/
def walkReads (va level table : Nat) (ptrs : List (Nat × Nat)) : List Nat :=
  (table + 8 * levelIndex level va) :: ptrs.map (fun p => p.2 + 8 * levelIndex (p.1 - 1) va)

/-- A slice of a die walks the page of a VA, from the deepest pointer entry it holds (R188); `shown` is the address as issued,
for the violation log. A result is kept unless the page is not present. -/
def walkPage (s : State) (d asid va who shown : Nat) : Option SliceEntry × State :=
  let dd := s.die d
  let sl := sliceOf va
  let held := (dd.ptrs.get [] sl).filter (fun p => p.asid == asid && p.pfx == va / 2 ^ levelShift p.level)
  let best := held.foldl (fun (b : Option PtrEntry) p =>
    match b with | some q => if p.level < q.level then some p else b | none => some p) none
  let (level, table) := match best with
    | some p => (p.level - 1, p.next)
    | none => (4, rootOf s asid)
  let (w, ptrs) := walkFrom s.mem va level table
  let s := bumpDie s d 5 1
  let s := (walkReads va level table ptrs).foldl (fun s a => mscUse s (a / 256) (some 0)) s
  let news := ptrs.map (fun p => { asid := asid, level := p.1, pfx := va / 2 ^ levelShift p.1, next := p.2 : PtrEntry })
  let s := s.modDie d (fun x => { x with ptrs := x.ptrs.set sl ((news ++ x.ptrs.get [] sl).take 256) })
  let bad (s : State) : State := logViolation s d { gt := s.gt, addr := shown, asid := asid, source := 4, kind := 5, who := who }
  match w with
  | .leaf bits at_ l =>
    if l.attr = 2 && (pwEntry dd l.pwin).1.toNat % 2 ^ 32 * 2 ^ 15 ≤ leafAddr bits va l then (none, bad s)
    else
      let s := setAccessed s at_
      let e : SliceEntry := { asid := asid, va := leafBase bits va, bits := bits, leaf := l }
      (some e, s.modDie d (fun x => { x with slices := x.slices.set sl ((e :: x.slices.get [] sl).take 8192) }))
  | .absent malformed => (none, if malformed then bad s else s)

/-- A translation of a VA by a slice of a die: from its translations, else by a walk (R188). -/
def translate (s : State) (d asid va : Nat) (who : Nat) (shown : Nat := va) : Option SliceEntry × State :=
  let va := va % 2 ^ 57
  match ((s.die d).slices.get [] (sliceOf va)).find? (fun e => e.asid == asid && leafBase e.bits va == e.va) with
  | some e => (some e, s)
  | none => walkPage s d asid va who shown

/-- The translation of a replayed access: the slice walks (R188), and what it held of the page gives way. -/
def translateAnew (s : State) (d asid va who shown : Nat) : Option SliceEntry × State :=
  let va := va % 2 ^ 57
  let s := s.modDie d (fun x => { x with slices := x.slices.set (sliceOf va) ((x.slices.get [] (sliceOf va)).filter (fun e =>
    !(e.asid == asid && leafBase e.bits va == e.va))) })
  walkPage s d asid va who shown

/-- A word of an instruction buffer. -/
def bufferedWord (s : State) (c asid va : Nat) : Option W64 :=
  ((s.core c).ibuf.find? (fun x => x.1 == asid && x.2.1 == va)).map (fun x => x.2.2)

/-- The instruction word at a VA as the buffers of a core or the visible memory of a local page hold it. -/
def wordAt (s : State) (c asid va : Nat) : Option W64 :=
  match bufferedWord s c asid va with
  | some w => some w
  | none =>
    match (translate s (dieOf c) asid va c).1 with
    | some e => if e.leaf.attr = 0 then some (.ofNat 64 (Memory.word s.mem (leafAddr e.bits va e.leaf) 8)) else none
    | none => none

/-- The attribute-TLB entry covering a VA (R187). -/
def tlbFind (s : State) (c asid va : Nat) : Option TlbEntry :=
  (s.core c).atlb.find? (fun e => e.asid == asid && leafBase e.bits va == e.va)

/-- Use makes an entry the most recent (R187). -/
def tlbTouch (s : State) (c : Nat) (e : TlbEntry) : State :=
  s.modCore c (fun k => { k with atlb := e :: k.atlb.filter (fun x => x != e) })

/-- Ask the slice of the core's own die for an entry, unless it is already asked (R187). -/
def tlbAsk (s : State) (c asid va addr : Nat) : State :=
  let page := va / 2 ^ 15 * 2 ^ 15
  if s.atlbReqs.any (fun q => q.core == c && q.asid == asid && q.va == page) then s
  else
    let (id, s) := s.fresh
    { s with atlbReqs := s.atlbReqs ++ [{ id := id, core := c, asid := asid, va := page, addr := addr }] }

/-- %pkr read-deny and write-deny of a key (R189). -/
def keyDenies (pkr : W64) (key : Nat) (write : Bool) : Bool := pkr.getLsbD (2 * key + (if write then 1 else 0))

end Sys2Proof.Machine
end

