-- ==== Sys2Proof/Machine/Link.lean ====
section
/-! DEFINITION. Sending over the Chain fabric (R228, R361): the port of a peer, sequence numbers, the buffer of
unacknowledged messages, and acknowledgements. -/

namespace Sys2Proof.Machine

def State.port (s : State) (q : Nat) : ChainPort := s.ports.get {} q
def State.setPort (s : State) (q : Nat) (x : ChainPort) : State := { s with ports := s.ports.set q x }
def State.conn (s : State) (m : Nat) : Conn := s.conns.get {} m
def State.setConn (s : State) (m : Nat) (x : Conn) : State := { s with conns := s.conns.set m x }

/-- Where the entry of a module stands in the module table that a port's CHTAB names (R361). -/
def tableEntry (s : State) (q m : Nat) : Nat := (s.port q).tab.toNat / 4096 % 2 ^ 40 * 4096 + 32 * (m % 16384)

/-- Byte 16 of the entry: a port number. -/
def tablePort (s : State) (q m : Nat) : Nat := (newestByte s (tableEntry s q m + 16)).toNat

/-- The port that the connection with a module runs on: an enabled port whose module table names it (R361). -/
def chainPortOf (s : State) (m : Nat) : Option Nat :=
  (List.range 16).find? (fun q => (s.port q).cfg.getLsbD 0 && tablePort s q m == q)

/-- Whether a port is up (R357, R360). -/
def portUp (s : State) (q : Nat) : Bool := s.plat.rdy.getLsbD (13 + q)

/-- Whether messages to a module can leave now. -/
def peerUp (s : State) (m : Nat) : Bool := match chainPortOf s m with | some q => portUp s q | none => false

/-- Add 1 to the clock of a module's port for a message it sends; the carried value (R328). -/
def tickPort (s : State) (m : Nat) : Nat × State :=
  match chainPortOf s m with
  | some q => (clockNext (s.port q).clk, s.setPort q { s.port q with clk := clockNext (s.port q).clk })
  | none => (0, s)

/-- The port receives a carried clock, then answers its own (R328). -/
def recvPort (s : State) (m clk : Nat) : Nat × State :=
  match chainPortOf s m with
  | some q =>
    let v := clockNext (Nat.max (s.port q).clk clk)
    (v, s.setPort q { s.port q with clk := v })
  | none => (clk, s)

/-- What has been received of a peer: every sequence below this, a write counting once it is visible (R228, R361). -/
def ackOf (s : State) (m : Nat) : Nat :=
  let open_ := ((s.homes.vals.map HomeLine.pending).flatten.filterMap Pend.link).filter (fun p => p.1 == m)
  open_.foldl (fun n p => Nat.min n p.2) (s.conn m).recvNext

/-- Where frames to a module go: the UDP port of CHMOD, and the IPv6 address in the module table (R360, R361). -/
def frameTo (s : State) (m : Nat) : Nat × List Byte :=
  (bitsAt (s.plat.regs.get 0 0x20) 32 16, match chainPortOf s m with
    | some q => newestBytes s (tableEntry s q m) 16
    | none => [])

/-- Put messages to a module on its link, when its port is up. -/
def putOut (s : State) (m : Nat) (ms : List ChainMsg) : State :=
  if peerUp s m then
    let (udp, dest) := frameTo s m
    { s with outbox := s.outbox ++ ms.map (OutMsg.chain m udp dest) }
  else s

/-- Bytes of a port's unacknowledged traffic, headers included. -/
def unackedBytes (s : State) (q : Nat) : Nat :=
  ((s.conns.filter (fun c => chainPortOf s c.1 == some q)).map (fun (c : Nat × Conn) =>
    (c.2.unacked.map (fun (m : ChainMsg) => 32 + m.bytes.length)).sum)).sum

/-- Whether the port of a module has room for a further message (R361: 4 MiB). -/
def peerRoom (s : State) (m : Nat) : Bool :=
  match chainPortOf s m with
  | some q => unackedBytes s q + 8224 ≤ 4194304
  | none => true

/-- A message leaves on the connection to a module: it takes the next sequence number and stays in the buffer until it is
acknowledged. -/
def transmit (s : State) (m : Nat) (x : ChainMsg) : State :=
  let c := s.conn m
  let msg : ChainMsg := { x with seq := c.sendNext, ack := ackOf s m }
  let idle := c.unacked.isEmpty
  let c' := { c with sendNext := c.sendNext + 1, unacked := c.unacked ++ [msg],
                     sentGt := if idle then s.gt else c.sentGt, progressGt := if idle then s.gt else c.progressGt }
  putOut (s.setConn m c') m [msg]

/-- Send a message on the connection to a module. One that finds no room in its port waits, and what follows waits behind it. -/
def sendPeer (s : State) (m kind addr : Nat) (bytes : List Byte) (ref : Nat) : State :=
  let (clk, s) := tickPort s m
  let msg : ChainMsg := { kind := kind, conn := Sys2Proof.Config.connNumber m, seq := 0, addr := addr, bytes := bytes, ref := ref,
                          clk := clk }
  let c := s.conn m
  if c.waiting.isEmpty && peerRoom s m then transmit s m msg else s.setConn m { c with waiting := c.waiting ++ [msg] }

/-- The messages that wait leave, as far as there is room. -/
def sendWaiting (s : State) (m : Nat) : State :=
  (s.conn m).waiting.foldl (fun s x =>
    let c := s.conn m
    if c.waiting.head? = some x && peerRoom s m then transmit (s.setConn m { c with waiting := c.waiting.drop 1 }) m x else s) s

/-- The modules of a port with messages that wait. -/
def waitingPeers (s : State) : List Nat := (s.conns.filter (fun c => !c.2.waiting.isEmpty)).map Prod.fst

/-- An acknowledgement, which takes no sequence number. -/
def ackMsg (s : State) (m kind : Nat) : ChainMsg :=
  { kind := kind, conn := Sys2Proof.Config.connNumber m, seq := 0, addr := 0, ack := ackOf s m }

def sendAck (s : State) (m : Nat) : State := putOut s m [ackMsg s m 6]

/-- Ask for bytes at an address of a module: the payload of a read is its length (log entry 48). -/
def sendRead (s : State) (m addr len ref : Nat) : State := sendPeer s m 1 addr (wordBytes 8 len) ref

/-- The runs of consecutive bytes of a write. -/
def byteRuns (m : SMap Byte) : List (Nat × List Byte) :=
  m.foldr (fun q acc => match acc with
    | (a, l) :: rest => if a = q.1 + 1 then (q.1, q.2 :: l) :: rest else (q.1, [q.2]) :: acc
    | [] => [(q.1, [q.2])]) []

/-- Send a write of bytes by offset from a remote address. -/
def sendWrite (s : State) (m at_ : Nat) (bytes : SMap Byte) (ref : Nat) : State :=
  (byteRuns bytes).foldl (fun s q => sendPeer s m 3 (at_ + q.1) q.2 ref) s

end Sys2Proof.Machine
end

