-- ==== Sys2Proof/Machine/Home.lean ====
section
/-! DEFINITION. The home (R179-R182, R187-R192, R222-R225, R235): copies in the L1 and L2 under leases, the
posting queue, requests and fills, the operand log (R156), and the moves S1-S8 as the events of the table. -/

namespace Sys2Proof.Machine

open Sys2Proof.Num

/-! ## Copies -/

/-- The core whose L1 slice holds a line: the core itself, or the cluster position of VA [10:8] in a fused
cluster (R179). -/
def l1Core (s : State) (c line : Nat) : Nat :=
  if s.fused.contains (clusterOf c) then clusterOf c * 8 + line % 8 else c

def findLine (ls : List CacheLine) (asid line : Nat) : Option CacheLine :=
  ls.find? (fun l => l.asid == asid && l.line == line)

/-- A copy may be used: private and spill data while resident, global data under its lease (R179, S1, S8). -/
def lineLive (gt : Nat) (l : CacheLine) : Bool := l.lane || gt < l.expiry

/-- Put a line in front of a cache of `ways` ways, with the set of a line given; the victim is the least recently used line
of the lowest priority in the set (R180). -/
def putLine (ways : Nat) (setOf : Nat → Nat) (ls : List CacheLine) (l : CacheLine) : List CacheLine × Option CacheLine :=
  let others := ls.filter (fun x => !(x.asid == l.asid && x.line == l.line))
  let set := others.filter (fun x => setOf x.line == setOf l.line)
  if set.length < ways then (l :: others, none)
  else
    let low := set.foldl (fun m x => Nat.min m x.prio) 3
    match (set.filter (fun x => x.prio == low)).getLast? with
    | some v => (l :: others.filter (fun x => !(x.asid == v.asid && x.line == v.line)), some v)
    | none => (l :: others, none)

/-- The dirty bytes of a line by offset. -/
def dirtyBytes (l : CacheLine) : SMap Byte :=
  (l.bytes.zipIdx.filter (fun p => l.dirty.getLsbD (p.2 / 64))).map (fun p => (p.2, p.1))

/-- The granules of the sectors of a mask. -/
def sectorGranules (m : BitVec 4) : BitVec 8 :=
  (List.range 8).foldl (fun v i => if m.getLsbD (i / 2) then v ||| (1#8 <<< i) else v) 0

/-- Drop the L2 copies of a line that a test picks in one die. -/
def dropL2 (s : State) (d asid line : Nat) : State :=
  s.modDie d (fun x => { x with l2 := x.l2.filter (fun y => !(y.asid == asid && y.line == line)) })

/-- A dirty private or spill line leaves the L1 as a posted access; until its time the L2 holds no copy (R180). -/
def postWriteback (s : State) (c : Nat) (l : CacheLine) : State :=
  if l.dirty = 0 then s
  else
    let (id, s) := (dropL2 s (dieOf c) l.asid l.line).fresh
    { s with posted := s.posted ++ [{ id := id, kind := .writeback, core := c, hslot := 0, asid := l.asid,
                                      line := l.line, bytes := dirtyBytes l, poison := l.poison &&& sectorGranules l.dirty,
                                      bits := l.bits }] }

/-- The set of a line in an L1: in a fused cluster a slice holds every eighth line (R179). -/
def l1Set (s : State) (c line : Nat) : Nat := if s.fused.contains (clusterOf c) then line / 8 % 128 else line % 128

/-- Install or replace a line of the L1 of a core, as the most recently used. -/
def setL1 (s : State) (c : Nat) (l : CacheLine) : State :=
  let (ls, v) := putLine 8 (l1Set s c) (s.core c).l1 l
  let s := s.modCore c (fun k => { k with l1 := ls })
  match v with
  | some v => postWriteback s c v
  | none => s

def setL2 (s : State) (d : Nat) (l : CacheLine) : State :=
  s.modDie d (fun x => { x with l2 := (putLine 16 (· % 6144) x.l2 l).1 })

/-- Replace `n` list elements from an index. -/
def spliceAt {α : Type} (l : List α) (i : Nat) (new : List α) : List α :=
  l.take i ++ new ++ l.drop (i + new.length)

def blankLine (asid line : Nat) : CacheLine :=
  { asid := asid, line := line, sectors := 0, bytes := List.replicate 256 0, tags := List.replicate 8 0 }

/-- What a fill brings: its sectors of a line with their tags and poison, and how they may be kept. -/
structure Brought where
  asid : Nat
  line : Nat
  sectors : List Nat
  bytes : List Byte
  tags : List (BitVec 4)
  poison : BitVec 8
  expiry : Nat
  prio : Nat
  lane : Bool
  bits : Nat

/-- Put the sectors of a fill, read from a whole line's bytes, into a line. A dead global copy is replaced; a live one keeps
its other sectors, whose bytes are visible as long as the new lease runs, and its priority (R180). -/
def withSectors (gt : Nat) (old : Option CacheLine) (x : Brought) : CacheLine :=
  let b := match old with
    | some l => if lineLive gt l && l.lane == x.lane then l else { blankLine x.asid x.line with prio := x.prio }
    | none => { blankLine x.asid x.line with prio := x.prio }
  let put (l : CacheLine) (i : Nat) : CacheLine :=
    { l with sectors := l.sectors ||| (1#4 <<< i), bytes := spliceAt l.bytes (64 * i) ((x.bytes.drop (64 * i)).take 64),
             tags := spliceAt l.tags (2 * i) ((x.tags.drop (2 * i)).take 2),
             poison := (l.poison &&& ~~~(3#8 <<< (2 * i))) ||| (x.poison &&& (3#8 <<< (2 * i))) }
  { x.sectors.foldl put b with expiry := x.expiry, lane := x.lane, bits := x.bits }

/-- The sectors an access touches. -/
def sectorsOf (off size : Nat) : List Nat :=
  (List.range 4).filter (fun i => off / 64 ≤ i && i ≤ (off + size - 1) / 64)

/-- The issuing core's L1 copy of its sectors and the issuing die's L2 copy of its line are discarded (S4). A
dirty private sector is written back first. -/
def dropCopies (s : State) (c asid line : Nat) (sectors : List Nat) : State :=
  let lc := l1Core s c line
  let s := match findLine (s.core lc).l1 asid line with
    | some l =>
      let gone := sectors.foldl (fun m i => m ||| (1#4 <<< i)) 0#4
      let s := postWriteback s lc { l with dirty := l.dirty &&& gone }
      let l' := { l with sectors := l.sectors &&& ~~~gone, dirty := l.dirty &&& ~~~gone }
      s.modCore lc (fun k =>
        let ls := k.l1.map (fun x => if x == l then l' else x)
        { k with l1 := ls.filter (fun x => x.sectors != 0) })
    | none => s
  dropL2 s (dieOf c) asid line

/-! ## Fills -/

/-- Words of a register file from bytes: `w` bytes to a register. -/
def chunkWords (w : Nat) : Nat → List Byte → List W64
  | 0, _ => []
  | n + 1, l => if l.isEmpty then [] else .ofNat 64 (bytesVal (l.take w)) :: chunkWords w n (l.drop w)

/-- Start the fill of an access from its words (R143, R144); `far` says that it missed the L1 (R156). Nothing fills for a
strand that has exited or a group that was killed (R130, R173). -/
def addFill (s : State) (a : Acc) (words : List W64) (poison far : Bool) : State :=
  if a.dead then s
  else
    let (id, s) := s.fresh
    { s with fills := s.fills ++ [{ id := id, core := a.core, hslot := a.hslot, uni := a.uni, sid := a.sid, pos := a.pos,
                                    words := words, part := a.part, poison := poison, aid := a.aid, far := far, due := a.due }] }

/-- Lay bytes by offset over others. -/
def overlay (own : SMap Byte) (bytes : List Byte) : List Byte :=
  bytes.zipIdx.map (fun p => (SMap.find? own p.2).getD p.1)

/-! ## The operand log (R156, R157) -/

/-- The 64 bytes of a log record (R156). The size of a line access, 256, leaves 0 in its field of 8 bits (log entry 58). -/
def logImage (l : LogRec) : List Byte :=
  let a := l.acc
  let w3 := a.esize % 256 * 2 ^ 48 + a.epos % 512 * 2 ^ 39 + (if a.uni then 2 ^ 38 else 0) + a.sid % 1024 * 2 ^ 28
    + a.slot % 32 * 2 ^ 23 + l.cause
  (([a.ea.toNat, a.pc.toNat, a.word.toNat, w3].map (wordBytes 8)).flatten) ++ wordBytes 32 a.edata

/-- Append a deferred fault to the log of its group (R156); a load of an exited strand is discarded, the other part of an
access logged already joins its record. The record and the header are written to the fault area. -/
def logAccess (s : State) (a : Acc) (cause : Nat) : State :=
  let g := s.group a.core a.hslot
  let t := s.team a.core g.team
  let isLoad := match a.kind with | .load | .line | .tagld => true | _ => false
  let gone := !a.uni && !(t.strands.get { live := false } a.sid).live
  if !g.alloc || (gone && isLoad) then s
  else
    let twin (l : LogRec) : Bool := l.acc.aid == a.aid && a.part != 0
    if g.log.any twin then
      s.setGroup a.core a.hslot { g with log := g.log.map (fun l => if twin l then { l with more := [a] } else l) }
    else
    let r : LogRec := { acc := a, cause := cause }
    let n := g.log.length
    let s := s.setGroup a.core a.hslot { g with log := g.log ++ [r], logGt := if n = 0 then s.gt else g.logGt }
    let area := faultArea t g
    let s := postHardware s a.core a.hslot (area + .ofNat 64 (0x1040 + 64 * n)) (logImage r)
    writeLogHeader s a.core a.hslot

/-! ## Own stores (S3) and order (R152) -/

/-- Whether two accesses are of one strand. -/
def sameStrand (a b : Acc) : Bool :=
  a.core == b.core && a.asid == b.asid && a.sid == b.sid && a.team == b.team

def vaOf (a : Acc) : Nat := a.addr.toNat % 2 ^ 57

def isWrite (k : AccKind) : Bool :=
  match k with
  | .load | .line | .tagld => false
  | _ => true

/-- The bytes of an access, by offset in its line: a slot of STLINE writes two words. -/
def accBytes (a : Acc) : List Nat :=
  match a.kind with
  | .sline => (List.range 4).map (4 * a.slot + ·) ++ (List.range 4).map (4 * (32 + a.slot) + ·)
  | .line => List.range 256
  | .dqpush | .dqpop | .dqsteal => (List.range 64).map (vaOf a % 256 + ·)
  | _ => (List.range a.size).map (vaOf a % 256 + ·)

/-- Lay what an entry of the strand's own writes over a read of the same line, by offset in the line: earlier accesses only,
each within its own bytes (S3). -/
def ownOver (a : Acc) (m : SMap Byte) (e : SMap Byte × List Acc) : SMap Byte :=
  e.2.foldl (fun m st =>
    if sameStrand a st && isWrite st.kind && st.aid < a.aid && vaOf st / 256 == vaOf a / 256 then
      (accBytes st).foldl (fun m o => match SMap.find? e.1 o with
        | some b => m.set o b
        | none => m) m
    else m) m

/-- Bytes of the strand's own earlier stores whose time has not been reached, by offset in the line, the newest last (S3,
R200). -/
def ownBytes (s : State) (a : Acc) : SMap Byte :=
  let pend := (s.homes.vals.map HomeLine.pending).flatten.map (fun p => (p.bytes, p.accs))
  let post := (s.posted.filter (fun p => p.kind == .store)).map (fun p => (p.bytes, p.accs))
  (pend ++ post).foldl (ownOver a) []

/-- Whether an access writes the line of another as an earlier one of the same strand. -/
def ownEarlier (a b : Acc) : Bool := sameStrand a b && b.aid < a.aid && vaOf a / 256 == vaOf b / 256

/-- What a read waits for (R152, R200): the strand's own earlier atomics and deque operations on the line, and for TAGLD its
TAGST, that have not arrived. -/
def ownPending (s : State) (a : Acc) : List Nat :=
  (s.posted.filter (fun p => (p.kind == .atomic || p.kind == .deque || (p.kind == .tagst && a.kind == .tagld))
    && p.accs.any (ownEarlier a))).map Posted.id

/-- The strand's own earlier posted accesses to the line, whatever they are: a read of a host or peer page follows them over
the link (R152, R228). -/
def ownPosted (s : State) (a : Acc) : List Nat := (s.posted.filter (fun p => p.accs.any (ownEarlier a))).map Posted.id

/-- Whether a tag that the strand has set in the line is not visible yet, so that no copy serves its TAGLD (R147, R152). -/
def ownTagPending (s : State) (a : Acc) : Bool :=
  a.kind == .tagld && (s.homes.vals.map HomeLine.pending).flatten.any (fun p => p.accs.any (fun b => b.kind == .tagst && ownEarlier a b))

/-! ## Reads -/

def tagBits (a : Acc) : BitVec 4 := .ofNat 4 (a.addr.toNat / 2 ^ 57)

/-- The granules an access touches, by number within its line. -/
def granulesOf (a : Acc) : List Nat :=
  match a.kind with
  | .line | .sline => [a.slot / 8, 4 + a.slot / 8]
  | _ => (List.range 8).filter (fun i => vaOf a % 256 / 32 ≤ i && i ≤ (vaOf a % 256 + a.size - 1) / 32)

/-- Whether every granule agrees with the pointer's tag (R190). -/
def tagsAgree (a : Acc) (tags : List (BitVec 4)) : Bool :=
  (granulesOf a).all (fun i => tags.getD i 0 == tagBits a)

/-- Serve one waiting access from a line's bytes, tags and poison: fill, or a deferred TAG (R190). `own` says that the bytes of
the strand's own stores still to come go before, with those of the moment when a copy's bytes were taken for it (S3). -/
def serveAcc (tagc far own : Bool) (bytes : List Byte) (tags : List (BitVec 4)) (poison : BitVec 8) (s : State) (a : Acc) :
    State :=
  match a.kind with
  | .tagld => addFill s a [(tags.getD (vaOf a % 256 / 32) 0).zeroExtend 64] false far
  | k =>
    if tagc && !a.tagDone && !tagsAgree a tags then logAccess s a 8
    else
      let bytes := if own && !a.lane then overlay (ownBytes s a) bytes else bytes
      let w (i : Nat) : W64 := .ofNat 64 (bytesVal ((bytes.drop (4 * i)).take 4))
      let words := if k == .line then [w a.slot, w (32 + a.slot)]
        else chunkWords (if a.uni then 8 else 4) 8 ((bytes.drop (vaOf a % 256)).take a.size)
      addFill s a words ((granulesOf a).any poison.getLsbD) far

/-- A line's bytes with one sector at its place. -/
def sectorLine (sector : Nat) (bytes : List Byte) : List Byte :=
  if sector = 4 then bytes else List.replicate (64 * sector) 0 ++ bytes
def sectorTags (sector : Nat) (tags : List (BitVec 4)) : List (BitVec 4) :=
  if sector = 4 then tags else List.replicate (2 * sector) 0 ++ tags

/-- The sector an access asks for; 4 for a whole line. -/
def accSector (a : Acc) : Nat :=
  match a.kind with
  | .line => 4
  | _ => vaOf a % 256 / 64

/-- The sectors whose bytes an access reads: of a line, those of its slot's two words. -/
def accSectors (a : Acc) : List Nat :=
  match a.kind with
  | .line => [a.slot / 16, 2 + a.slot / 16]
  | _ => sectorsOf (vaOf a % 256) a.size

/-- Whether a copy holds what an access reads. -/
def holds (gt : Nat) (l : CacheLine) (a : Acc) : Bool := lineLive gt l && (accSectors a).all l.sectors.getLsbD

/-- Miss-status entries in use on a core (R151): sectors outstanding and posted stores awaiting their time. -/
def missCount (s : State) (c : Nat) : Nat :=
  ((s.fetches.filter (fun f => f.core == c && !f.inst && !f.engine)).map Fetch.entries).sum
    + (s.posted.filter (fun p => p.core == c && (p.kind == .store || p.kind == .tagst))).length

/-- Accesses of a group outstanding beyond the L1 lookup (R156): each counts once, until it has filled, been applied, returned
its time or been logged. -/
def outstandingOf (s : State) (c h : Nat) : Nat :=
  let mine (a : Acc) : Bool := a.core == c && a.hslot == h && !a.win
  let ids (l : List Acc) : List Nat := (l.filter mine).map Acc.aid
  ((s.fetches.map (fun f => ids (f.accs ++ f.kept))).flatten ++ (s.posted.map (fun p => ids p.accs)).flatten
    ++ (s.fills.filter (fun f => f.core == c && f.hslot == h && f.far)).map Fill.aid).eraseDups.length

/-- The outstanding entry of a sector that a further access may join (R151, R235): its own, or one of the whole line. Data that
has come from the L2 serves a later access while its lease runs. -/
def entryOf (s : State) (core asid line sector : Nat) (lane : Bool) : Option Fetch :=
  s.fetches.find? (fun f => f.core == core && f.asid == asid && f.line == line
    && (f.sector == sector || f.sector == 4) && f.lane == lane && !f.inst && !f.engine && !f.stale
    && (match f.stage with
        | .arrived => lane || s.gt < f.expiry
        | .walk | .home _ => lane || !f.replay
        | _ => false))

/-- The outstanding entry that an access joins. -/
def joinable (s : State) (a : Acc) (lane : Bool) : Option Fetch := entryOf s a.core a.asid (vaOf a / 256) (accSector a) lane

/-- Whether a request waits for an entry: it is of a whole line, and one of its sectors has that entry (R151). -/
def waitsFor (g : Fetch) (id : Nat) : Bool := g.accs.any (fun a => a.after.contains id)

/-- Whether a posted access waits for the loads of an entry, or of a request that waits for it (R152): a load that waits for a
posted access does not join that entry, or neither would end. -/
def blocksPosted (s : State) (f : Fetch) : Bool :=
  let loads := f.accs ++ ((s.fetches.filter (fun g => waitsFor g f.id)).map Fetch.accs).flatten
  s.posted.any (fun p => p.accs.any (fun st => loads.any (ownEarlier st)))

/-- The entry that a load joins which waits for its own strand's atomics: one whose data is still to come. -/
def lateEntry (s : State) (a : Acc) : Option Fetch :=
  (joinable s a false).filter (fun f => f.stage != .arrived && !blocksPosted s f)

/-- The entries that a request for a whole line joins for the sectors that it reads (R151). -/
def lineEntryIds (s : State) (a : Acc) : List Nat :=
  if a.kind == .line then
    ((accSectors a).filterMap (fun i => (entryOf s a.core a.asid (vaOf a / 256) i false).filter (fun f => f.sector != 4))).map Fetch.id
  else []

/-- The copy of the L1 that serves a load at once (S1). -/
def copyFor (s : State) (a : Acc) : Option CacheLine :=
  let line := vaOf a / 256
  match findLine (s.core (l1Core s a.core line)).l1 a.asid line with
  | some l => if holds s.gt l a then some l else none
  | none => none

/-- The copy of the L2 that serves it (S1). -/
def l2CopyFor (s : State) (a : Acc) : Option CacheLine :=
  match findLine (s.die (dieOf a.core)).l2 a.asid (vaOf a / 256) with
  | some l => if holds s.gt l a then some l else none
  | none => none

/-- How a read of global memory is served (R143, R151, S1-S3): by the L1 copy, wholly by the strand's own stores, with an
outstanding entry, by the L2 copy, or at its home or over its link. -/
inductive ReadPlan where
  | copy (l : CacheLine)
  | own
  | join (id : Nat)
  | l2 (l : CacheLine)
  | send
  deriving DecidableEq, Repr

/-- Which of them it is. `opened` lists the records of the pass's open request (R150), which a strand joins whose page is not
local, or absent; `leaf` is the page's attribute entry, none for an absent page. -/
def readPlan (s : State) (opened : List Nat) (a : Acc) (leaf : Option PageLeaf) : ReadPlan :=
  let asOpen : ReadPlan := match s.fetches.find? (fun f => opened.contains f.id && f.asid == a.asid && f.line == vaOf a / 256
      && f.sector == accSector a && f.stage == .walk) with
    | some f => .join f.id
    | none => .send
  match leaf with
  | none => asOpen
  | some l =>
    if l.attr ≠ 0 then asOpen
    else if !(ownPending s a).isEmpty || ownTagPending s a then
      match lateEntry s a with
      | some f => .join f.id
      | none => asOpen
    else
      match copyFor s a with
      | some cl => .copy cl
      | none =>
        let own := ownBytes s a
        if a.kind == .load && !l.tagc && (accBytes a).all (fun o => (SMap.find? own o).isSome) then .own
        else
          match joinable s a false, l2CopyFor s a with
          | some f, _ => .join f.id
          | none, some cl => .l2 cl
          | none, none => .send

/-- How many miss-status entries a whole line's request takes: its missing sectors with no entry outstanding (R151). -/
def lineEntries (s : State) (core asid line : Nat) (sectors : List Nat) : Nat :=
  let held (i : Nat) : Bool := match findLine (s.core (l1Core s core line)).l1 asid line with
    | some l => lineLive s.gt l && l.sectors.getLsbD i
    | none => false
  let asked (i : Nat) : Bool := s.fetches.any (fun f => f.core == core && f.asid == asid && f.line == line
    && (f.sector == i || f.sector == 4) && !f.inst && !f.engine)
  (sectors.filter (fun i => !held i && !asked i)).length

/-- A new request of a core for a sector or a line, as data of its L2 copy where it has one. -/
def openFetch (s : State) (f : Fetch) (l2 : Option CacheLine) : Nat × State :=
  let (id, s) := s.fresh
  match l2 with
  | some cl =>
    let s := bumpDie (setL2 s (dieOf f.core) cl) (dieOf f.core) 0 1
    let i := f.sector
    let f := { f with id := id, stage := .arrived, expiry := cl.expiry, bits := cl.bits,
                      bytes := if i = 4 then cl.bytes else (cl.bytes.drop (64 * i)).take 64,
                      tags := if i = 4 then cl.tags else (cl.tags.drop (2 * i)).take 2,
                      poison := cl.poison }
    (id, { s with fetches := s.fetches ++ [f] })
  | none => (id, { s with fetches := s.fetches ++ [{ f with id := id }] })

/-- The hints of what joins a request go into it. -/
def joinHints (x : Fetch) (noalloc : Bool) (prio : Nat) : Fetch :=
  { x with noalloc := x.noalloc && noalloc, prio := Nat.max x.prio prio }

/-- An access joins a request. -/
def joinFetch (s : State) (id : Nat) (a : Acc) (store : Bool) : State :=
  { s with fetches := s.fetches.map (fun (x : Fetch) =>
      if x.id != id then x
      else
        let x := joinHints x (a.noalloc && !store) a.prio
        if store then { x with kept := x.kept ++ [a] } else { x with accs := x.accs ++ [a] }) }

/-- The hints of a whole line's request go into the entries that it joins. -/
def joinSectors (s : State) (ids : List Nat) (a : Acc) : State :=
  { s with fetches := s.fetches.map (fun (x : Fetch) => if ids.contains x.id then joinHints x a.noalloc a.prio else x) }

/-- Issue a read of global memory whose destination is marked; the records that the pass's open request now has are answered
(R143, R150, R151). -/
def issueRead (s : State) (opened : List Nat) (a : Acc) (leaf : Option PageLeaf) (pkr : W64) : List Nat × State :=
  let far : Bool := match leaf with
    | some l => l.attr != 0
    | none => true
  let same := opened.filter (fun id => s.fetches.any (fun f => f.id == id && f.asid == a.asid && f.line == vaOf a / 256))
  let tagc := (leaf.map PageLeaf.tagc).getD false
  let plan := readPlan s same a leaf
  let ids := match plan with
    | .copy _ | .own => []
    | _ => if far then [] else lineEntryIds s a
  let s := joinSectors s ids a
  let a := { a with after := if far then ownPosted s a else ownPending s a ++ ids, own := if far then [] else ownBytes s a }
  let base : Fetch := { id := 0, core := a.core, asid := a.asid, line := vaOf a / 256, sector := accSector a,
                        noalloc := a.noalloc, prio := a.prio, accs := [a], pkr := pkr, replay := leaf.isNone, tagc := tagc,
                        entries := if a.kind == .line then lineEntries s a.core a.asid (vaOf a / 256) (accSectors a) else 1 }
  let misses (s : State) : State := bumpDie s (dieOf a.core) 1 1
  match plan with
  | .copy cl => (same, serveAcc tagc false true cl.bytes cl.tags cl.poison (setL1 s (l1Core s a.core (vaOf a / 256)) cl) a)
  | .own => (same, serveAcc false true true (List.replicate 256 0) [] 0 s a)
  | .join id => (same, joinFetch s id a false)
  | .l2 cl =>
    let (id, s) := openFetch s base (some cl)
    (same ++ [id], s)
  | .send =>
    let (id, s) := openFetch (misses s) base none
    (same ++ [id], s)

/-- A read of a pass, whose open request follows it. -/
def passRead (s : State) (r : FragRef) (a : Acc) (leaf : Option PageLeaf) (pkr : W64) : State :=
  let (o, s) := issueRead s (s.frag r).kept.opened a leaf pkr
  s.modFrag r (fun f => { f with kept := { f.kept with opened := o } })

/-- A replayed access asks the slice, which walks (R161, R188). -/
def replayRead (s : State) (a : Acc) (pkr : W64) : State :=
  (openFetch s { id := 0, core := a.core, asid := a.asid, line := vaOf a / 256, sector := accSector a, noalloc := a.noalloc,
                 prio := a.prio, accs := [{ a with after := ownPosted s a }], pkr := pkr, replay := true } none).2

/-! ## What a slice denies (R188, R201) -/

def isAtomicAcc (k : AccKind) : Bool :=
  match k with
  | .atomic .. | .dqpush | .dqpop | .dqsteal => true
  | _ => false

/-- Whether the reach class covers an atomic (R201). -/
def reachOk (l : PageLeaf) (k : AccKind) : Bool :=
  let hostClass : Bool := match k with
    | .atomic op _ _ _ => op == 0x90 || op == 0x96 || op == 0x97
    | _ => false
  let reach := if l.attr = 1 && l.reach = 0 then 1 else l.reach
  !isAtomicAcc k || (match reach with | 0 => true | 1 => hostClass | _ => false)

/-- What a replayed access, or one sent on through an absent entry, is denied at its slice (R188). -/
def sliceDenies (l : PageLeaf) (pkr : W64) (k : AccKind) : Bool :=
  let rd := !isWrite k || isAtomicAcc k
  (rd && (!l.rd || keyDenies pkr l.key false)) || (isWrite k && (!l.w || keyDenies pkr l.key true)) || !reachOk l k

/-- Log every access of a request as a deferred fault, in slot order. -/
def logAll (s : State) (accs : List Acc) (cause : Nat) : State := accs.foldl (fun s a => logAccess s a cause) s

def anyDenied (l : PageLeaf) (pkr : W64) (replay : Bool) (accs : List Acc) : Bool :=
  replay && accs.any (fun a => sliceDenies l pkr a.kind)

/-- Each access of a request that its page denies at the slice is logged anew as NOT-PRESENT with a violation (R188, R193). -/
def logDenied (s : State) (core : Nat) (l : PageLeaf) (pkr : W64) (accs : List Acc) : State :=
  let s := (accs.filter (fun a => sliceDenies l pkr a.kind)).foldl (fun s a => logViolation s (dieOf core)
    { gt := s.gt, addr := a.addr.toNat, asid := a.asid, source := 4, kind := 6, who := core }) s
  logAll s accs 11

/-! ## Private and spill data (R140, R235) -/

/-- The L1 line and sector of a private access, when resident. -/
def laneLine (s : State) (a : Acc) : Option CacheLine :=
  match findLine (s.core (l1Core s a.core (vaOf a / 256))).l1 a.asid (vaOf a / 256) with
  | some l => if l.lane && l.sectors.getLsbD (accSector a) then some l else none
  | none => none

/-- Apply a private store to a resident line and mark it dirty; poison follows the data (R343). -/
def applyStore (l : CacheLine) (a : Acc) : CacheLine :=
  let off := vaOf a % 256
  let bit := 1#8 <<< (off / 32)
  { l with bytes := spliceAt l.bytes off (wordBytes a.size a.data), dirty := l.dirty ||| (1#4 <<< accSector a), lane := true,
           poison := if a.poison then l.poison ||| bit else if a.size = 32 then l.poison &&& ~~~bit else l.poison }

/-- Whether tags are checked on a private access's page, where that is known: by its leaf, else by the attribute TLB. -/
def laneTagc (s : State) (a : Acc) (leaf : Option PageLeaf) : Option Bool :=
  match leaf with
  | some l => some l.tagc
  | none => (((tlbFind s a.core a.asid (vaOf a)).map TlbEntry.leaf).join).map PageLeaf.tagc

/-- Open the entry of a private sector, which is fetched through the L2 (R235). A load marked no-allocate leaves the sector out of
the L1 unless a store joins (R180; log entry 46). A replay asks the slice. -/
def laneFetch (s : State) (a : Acc) (leaf : Option PageLeaf) (pkr : W64) (store replay : Bool) : State :=
  let tagc := laneTagc s a leaf
  let base : Fetch := { id := 0, core := a.core, asid := a.asid, line := vaOf a / 256, sector := accSector a,
                        lane := true, prio := a.prio, noalloc := a.noalloc && !store, pkr := pkr, replay := replay,
                        tagc := tagc.getD false,
                        accs := if store then [] else [a], kept := if store then [a] else [] }
  match (if replay || tagc.isNone then none else l2CopyFor s a) with
  | some cl => (openFetch s base (some cl)).2
  | none => (openFetch (if replay then s else bumpDie s (dieOf a.core) 1 1) base none).2

/-- A private access joins the entry that is outstanding for its sector (R235). A replay, or an access of a page that the attribute
TLB holds as absent, is checked at the slice (R188): with the entry where that is still to be translated, else at once. -/
def laneJoin (s : State) (f : Fetch) (a : Acc) (pkr : W64) (store replay : Bool) : State :=
  if !replay then joinFetch s f.id a store
  else if f.stage == .walk then
    let s := joinFetch s f.id a store
    { s with fetches := s.fetches.map (fun (x : Fetch) => if x.id == f.id then { x with replay := true } else x) }
  else
    match translate s (dieOf a.core) a.asid (vaOf a) a.core a.addr.toNat with
    | (none, s) => logAccess s a 11
    | (some e, s) => if sliceDenies e.leaf pkr a.kind then logDenied s a.core e.leaf pkr [a] else joinFetch s f.id a store

/-- A private load: through the entry outstanding for its sector, so that it follows the stores kept there, else from the L1, else
through a new entry (R235). -/
def issueLaneRead (s : State) (a : Acc) (leaf : Option PageLeaf) (pkr : W64) (replay : Bool) : State :=
  match joinable s a true, (if replay then none else laneLine s a) with
  | some f, _ => laneJoin s f a pkr false replay
  | none, some l => serveAcc false false false l.bytes l.tags l.poison (setL1 s (l1Core s a.core (vaOf a / 256)) l) a
  | none, none => laneFetch s a leaf pkr false replay

def issueLaneStore (s : State) (a : Acc) (leaf : Option PageLeaf) (pkr : W64) (replay : Bool) : State :=
  match joinable s a true, (if replay then none else laneLine s a) with
  | some f, _ => laneJoin s f a pkr true replay
  | none, some l => setL1 s (l1Core s a.core (vaOf a / 256)) (applyStore l a)
  | none, none => laneFetch s a leaf pkr true replay

/-! ## Writes -/

/-- Add a strand's store to the open request of its pass, or post a new one (R150, S4). -/
def postStore (s : State) (r : FragRef) (kind : PostKind) (a : Acc) (bytes : SMap Byte) (replay : Bool)
    (pkr : W64) : State :=
  let line := vaOf a / 256
  let s := dropCopies s a.core a.asid line (sectorsOf (vaOf a % 256) (if a.kind == .sline then 256 else a.size))
  let f := s.frag r
  let open_ := s.posted.find? (fun p => f.kept.opened.contains p.id && p.line == line
    && p.asid == a.asid && p.kind == kind && p.stage == .walk && p.replay == replay)
  match open_ with
  | some p =>
    let p' := { p with bytes := bytes.foldl (fun m q => m.set q.1 q.2) p.bytes, accs := p.accs ++ [a] }
    { s with posted := s.posted.map (fun q => if q.id == p.id then p' else q) }
  | none =>
    let (id, s) := s.fresh
    let p : Posted := { id := id, kind := kind, core := a.core, hslot := a.hslot, asid := a.asid, line := line,
                        bytes := bytes, accs := [a], pkr := pkr, replay := replay,
                        clk := (s.group a.core a.hslot).lclk }
    let s := { s with posted := s.posted ++ [p] }
    if kind == .store then s.modFrag r (fun f => { f with kept := { f.kept with opened := [id] } }) else s

/-- Post an access that is never coalesced. -/
def postSingle (s : State) (kind : PostKind) (a : Acc) (bytes : SMap Byte) (replay : Bool) (pkr : W64)
    (xid : Option Nat) : State :=
  let line := vaOf a / 256
  let s := dropCopies s a.core a.asid line (sectorsOf (vaOf a % 256) a.size)
  let s := if kind == .tagst then s else tickClock s a.core a.hslot
  let (id, s) := s.fresh
  let p : Posted := { id := id, kind := kind, core := a.core, hslot := a.hslot, asid := a.asid, line := line,
                      bytes := bytes, accs := [a], pkr := pkr, replay := replay, xid := xid,
                      clk := (s.group a.core a.hslot).lclk }
  { s with posted := s.posted ++ [p] }

/-- The bytes of a store access by offset in its line. -/
def storeBytes (a : Acc) : SMap Byte := putBytes [] (vaOf a % 256) (wordBytes a.size a.data)

/-- The two words of a STLINE slot. -/
def slineBytes (a : Acc) : SMap Byte :=
  putBytes (putBytes [] (4 * a.slot) (wordBytes 4 (a.data % 2 ^ 32))) (4 * (32 + a.slot))
    (wordBytes 4 (a.data / 2 ^ 32))

/-! ## Events of translation -/

/-- The accesses of a private entry in the order they were issued. -/
def issueOrder (f : Fetch) : List Acc := (f.accs ++ f.kept).mergeSort (fun a b => a.aid ≤ b.aid)

/-- The address that a request shows the slice: that of its first access, as issued (R193), else the one given. -/
def shownAddr (other : Nat) (accs : List Acc) : Nat := (accs.head?.map (fun a => a.addr.toNat)).getD other

/-- Where a translated line goes (R188, R191): its home, the Porsen link, a peer; else REMOTE-LOST, or NOT-PRESENT beyond the
window's size. -/
def routeLine (s : State) (die line : Nat) (e : SliceEntry) : Stage ⊕ Nat :=
  let pa := leafAddr e.bits (line * 256) e.leaf
  match e.leaf.attr with
  | 0 => .inl (.home pa)
  | 1 => .inl (.host pa)
  | _ =>
    let (w0, w1) := pwEntry (s.die die) e.leaf.pwin
    if !w0.getLsbD 63 then .inr 14
    else if w0.toNat % 2 ^ 32 * 2 ^ 15 ≤ pa then .inr 11
    else .inl (.peer (w0.toNat / 2 ^ 32 % 2 ^ 14) (w1.toNat / 2 ^ 15 % 2 ^ 37 * 2 ^ 15 + pa))

/-- The same at a slice, where an offset beyond the window is logged (R191). -/
def routeAt (s : State) (die line asid who shown : Nat) (e : SliceEntry) : (Stage ⊕ Nat) × State :=
  let x := routeLine s die line e
  (x, if x = .inr 11 then logViolation s die { gt := s.gt, addr := shown, asid := asid, source := 4, kind := 5, who := who }
      else s)

/-- Where in its line a request to the host or a peer begins: at its sector. -/
def fetchOff (f : Fetch) : Nat := if f.sector = 4 then 0 else 64 * f.sector

/-- The opcode of an atomic or deque operation, with its variant: signed, h2 (R199, R204). -/
def atomicCode (k : AccKind) : Nat × Bool × Bool :=
  match k with
  | .atomic op signed h2 _ => (op, signed, h2)
  | .dqpush => (0x9A, false, false)
  | .dqpop => (0x9B, false, false)
  | _ => (0x9C, false, false)

/-- The payload of an atomic message (log entry 48): the operation, its width and the issuing context, %pkr, the clock of the issuing
group slot (R328), the operands. -/
def atomicPayload (a : Acc) (pkr : W64) (clk : Nat) : List Byte :=
  let (op, signed, h2) := atomicCode a.kind
  let bit (b : Bool) (i : Nat) : Nat := if b then 2 ^ i else 0
  wordBytes 8 (op + bit signed 8 + bit h2 9 + bit (a.size != 4) 10 + a.asid % 65536 * 2 ^ 32) ++ wordBytes 8 pkr.toNat ++ wordBytes 8 clk
    ++ wordBytes (if a.size ≤ 8 then 2 * a.size else 8) a.data

/-- Send a posted access over the Chain fabric: an atomic with its operands, or its bytes. -/
def sendPosted (s : State) (p : Posted) (m pa : Nat) : State :=
  match p.kind, p.accs with
  | .atomic, a :: _ | .deque, a :: _ => sendPeer s m 4 (pa + vaOf a % 256) (atomicPayload a p.pkr p.clk) p.id
  | .atomic, [] => (byteRuns p.bytes).foldl (fun s q => sendPeer s m 8 (pa + q.1) q.2 p.id) s
  | _, _ => sendWrite s m pa p.bytes p.id

/-- A private entry whose page the host or a peer serves keeps no copy (R181): its stores are posted, its loads cross the link. -/
def unlane (s : State) (id : Nat) : State :=
  match s.fetches.find? (fun f => f.id == id && f.lane) with
  | none => s
  | some f =>
    let post (s : State) (a : Acc) : State :=
      let (n, s) := s.fresh
      { s with posted := s.posted ++ [{ id := n, kind := .store, core := a.core, hslot := a.hslot, asid := a.asid,
                                        line := vaOf a / 256, bytes := storeBytes a, accs := [a], pkr := f.pkr }] }
    let s := f.kept.foldl post s
    { s with fetches := s.fetches.map (fun (x : Fetch) => if x.id == id then { x with lane := false, kept := [] } else x) }

/-- A read request is translated and sent on; one for the host or a peer follows the strand's own earlier accesses (R152). -/
def walkFetch (s0 : State) (f : Fetch) : State :=
  let d := dieOf f.core
  let accs := issueOrder f
  let shown := shownAddr f.shown accs
  let (r, s) := if f.replay then translateAnew s0 d f.asid (f.line * 256) f.core shown
    else translate s0 d f.asid (f.line * 256) f.core shown
  let drop (s : State) : State := { s with fetches := s.fetches.filter (fun x => x.id != f.id) }
  match r with
  | none => logAll (drop s) accs 11
  | some e =>
    if anyDenied e.leaf f.pkr f.replay accs then logDenied (drop s) f.core e.leaf f.pkr accs
    else
      match routeAt s d f.line f.asid f.core shown e with
      | (.inr cause, s) => logAll (drop s) accs cause
      | (.inl st, s) =>
        let s' := { s with fetches := s.fetches.map (fun x => if x.id == f.id then
          { x with stage := st, tagc := e.leaf.tagc, bits := e.bits, since := s.gt } else x) }
        let behind := f.accs.any (fun a => a.after.any (fun i => s.posted.any (fun p => p.id == i && p.stage == .walk)))
        match st with
        | .peer m pa =>
          if behind then s0 else if peerRoom s m then sendRead (unlane s' f.id) m (pa + fetchOff f) (if f.sector = 4 then 256 else 64) f.id else s0
        | .host _ => if behind then s0 else unlane s' f.id
        | _ => s'

/-- A posted access is translated and sent on. -/
def walkPosted (s0 : State) (p : Posted) : State :=
  let d := dieOf p.core
  let shown := shownAddr (p.line * 256) p.accs
  let (r, s) := if p.replay then translateAnew s0 d p.asid (p.line * 256) p.core shown
    else translate s0 d p.asid (p.line * 256) p.core shown
  let drop (s : State) : State := { s with posted := s.posted.filter (fun x => x.id != p.id) }
  let fail (s : State) (cause : Nat) : State :=
    if p.kind == .hardware then killGroup (drop s) p.core p.hslot cause else logAll (drop s) p.accs cause
  match r with
  | none => fail s 11
  | some e =>
    let hwDenied := p.kind == .hardware && !(e.leaf.w && e.leaf.key == 0)
    if hwDenied then killGroup (drop s) p.core p.hslot 6
    else if anyDenied e.leaf p.pkr p.replay p.accs then logDenied (drop s) p.core e.leaf p.pkr p.accs
    else
      match routeAt s d p.line p.asid p.core shown e with
      | (.inr cause, s) => fail s cause
      | (.inl st, s) =>
        let s' := { s with posted := s.posted.map (fun x => if x.id == p.id then
          { x with stage := st, tagc := e.leaf.tagc, bits := e.bits, since := s.gt } else x) }
        -- a read of the strand's own that came before leaves first (R152)
        let ahead := s.fetches.any (fun f => f.stage == .walk && f.accs.any (fun a => p.accs.any (fun st => ownEarlier st a)))
        match st with
        | .home _ => s'
        | .peer m pa =>
          -- the fabric carries no tags
          if p.kind == .tagst then drop s else if !ahead && peerRoom s m then sendPosted s' p m pa else s0
        | _ => if p.kind == .tagst then drop s else if ahead then s0 else s'

/-- A slice receives a request, translates or walks, and forwards it (R188). -/
def execTranslationWalk (id : Nat) (s : State) : Host.Outcome State Fault Refusal :=
  match s.fetches.find? (fun f => f.id == id && f.stage == .walk) with
  | some f => .next (walkFetch s f)
  | none =>
    -- posted accesses are translated in issue order, so that links carry them in it (R228)
    match (s.posted.find? (fun p => p.stage == .walk)).filter (fun p => p.id == id) with
    | some p => .next (walkPosted s p)
    | none =>
      match s.atlbReqs.find? (fun q => q.id == id && q.answer.isNone) with
      | none => .next s
      | some q =>
        let (r, s) := translate s (dieOf q.core) q.asid q.va q.core q.addr
        let ans := r.map (fun e => (e.bits, e.va, e.leaf))
        .next { s with atlbReqs := s.atlbReqs.map (fun (x : AtlbReq) => if x.id == id then { x with answer := some ans } else x) }

/-- The answer installs a valid or an absent entry (R187); parked strands find it there. -/
def execAtlbFill (id : Nat) (s : State) : Host.Outcome State Fault Refusal :=
  match s.atlbReqs.find? (fun q => q.id == id) with
  | none => .next s
  | some q =>
    match q.answer with
    | none => .next s
    | some ans =>
      let e : TlbEntry := match ans with
        | some (bits, va, l) => { asid := q.asid, va := va, bits := bits, leaf := some l }
        | none => { asid := q.asid, va := q.va, bits := 15, leaf := none }
      let s := { s with atlbReqs := s.atlbReqs.filter (fun x => x.id != id) }
      .next (s.modCore q.core (fun k => { k with atlb :=
        (e :: k.atlb.filter (fun x => !(x.asid == e.asid && x.va == e.va && x.bits == e.bits))).take 512 }))

/-! ## Events of the home -/

/-- Tags of a physical line by granule. -/
def lineTags (s : State) (pl : Nat) : List (BitVec 4) := (List.range 8).map (fun i => s.tags.get 0 (pl * 8 + i))

def linePoison (s : State) (pl : Nat) : BitVec 8 :=
  (List.range 8).foldl (fun m i => if s.poison.contains (pl * 8 + i) then m ||| (1#8 <<< i) else m) 0

/-- A home grants a lease at a tick (S2, R225): its length doubles when the last one has run out and no store has arrived
since. The expiry, and the record. -/
def grantLease (h : HomeLine) (t : Nat) : Nat × HomeLine :=
  let len := if h.quiet && h.lmax ≤ t then Nat.min 4096 (2 * h.len) else h.len
  (t + len, { h with len := len, lmax := Nat.max h.lmax (t + len), quiet := true })

/-- Put the words of a line into the instruction buffer of a core (R195): what it held of the line gives way. A poisoned word
stays out, so that its fetch finds the poison (R343). -/
def bufferLine (s : State) (c asid line : Nat) (bytes : List Byte) (poison : BitVec 8) : State :=
  let ws := ((List.range 32).filter (fun i => !poison.getLsbD (i / 4))).map (fun i => (asid, line * 256 + 8 * i, BitVec.ofNat 64 (bytesVal ((bytes.drop (8 * i)).take 8))))
  s.modCore c (fun k => { k with ibuf := ws ++ k.ibuf.filter (fun x => !(x.1 == asid && x.2.1 / 256 == line)) })

/-- Whether a deque operation on a descriptor of the line has its element access still under way (R206, R207). -/
def lineLocked (s : State) (pl : Nat) : Bool := s.posted.any (fun p => p.elem == some pl)

/-- Whether a write-back of the line is still on its way to its home (R180). -/
def writebackPosted (s : State) (asid line : Nat) : Bool :=
  s.posted.any (fun p => p.kind == .writeback && p.asid == asid && p.line == line)

/-- A global line that an L1 takes, unless it holds private data of it. -/
def fillL1 (s : State) (f : Fetch) (x : Brought) : State :=
  let lc := l1Core s f.core f.line
  let old := findLine (s.core lc).l1 f.asid f.line
  let keepLane := match old with
    | some l => l.lane
    | none => false
  if f.noalloc || f.stale || keepLane || x.expiry ≤ s.gt then s else setL1 s lc (withSectors s.gt old x)

/-- Serve the entry of a private sector whose data has come (R235): the line with the kept stores applied in issue order, the
joined loads filled, each with the stores of its own strand that came before it (R152). Where a tag disagrees, an entry without
stores logs the loads that met it and serves the others (R190), one with stores logs all that joined it (R235). `old` is the home of a page that an ATLBI has removed meanwhile: the stores go there, and no line is
installed (R194). -/
def laneArrives (s : State) (f : Fetch) (old : Option Nat) : State :=
  let s := { s with fetches := s.fetches.filter (fun x => x.id != f.id) }
  let tags := sectorTags f.sector f.tags
  let off := if f.tagc then (issueOrder f).filter (fun a => !tagsAgree a tags) else []
  if !off.isEmpty && !f.kept.isEmpty then logAll s (issueOrder f) 8
  else
    let s := logAll s off 8
    let lc := l1Core s f.core f.line
    let held := findLine (s.core lc).l1 f.asid f.line
    let x : Brought := { asid := f.asid, line := f.line, sectors := [f.sector], bytes := sectorLine f.sector f.bytes,
                         tags := tags, poison := f.poison, expiry := 0, prio := f.prio, lane := true, bits := f.bits }
    let fetched := withSectors s.gt held x
    -- a sector that another request has brought meanwhile stays as it is
    let base := match held with
      | some l => if l.lane && l.sectors.getLsbD f.sector then l else fetched
      | none => fetched
    let l := f.kept.foldl applyStore base
    let seenBy (a : Acc) : CacheLine := (f.kept.filter (fun st => !(sameStrand a st && a.aid < st.aid))).foldl applyStore base
    let s := match old with
      | some pa =>
        let alone := f.kept.foldl applyStore (withSectors s.gt none x)
        let (id, s) := s.fresh
        if alone.dirty = 0 then s
        else { s with posted := s.posted ++ [{ id := id, kind := .writeback, core := lc, hslot := 0, asid := f.asid,
                                               line := f.line, stage := .home pa, bytes := dirtyBytes alone, stale := true,
                                               poison := alone.poison &&& sectorGranules alone.dirty }] }
      | none => if f.kept.isEmpty && f.noalloc then s else setL1 s lc l
    (f.accs.filter (fun a => !off.contains a)).foldl (fun s a => let x := seenBy a; serveAcc false true false x.bytes x.tags x.poison s a) s

/-- Whether what a read waits for is still under way: an access of its own strand, or an entry that its line's request joined. -/
def stillOut (s : State) (id : Nat) : Bool := s.posted.any (fun p => p.id == id) || s.fetches.any (fun f => f.id == id)

/-- A read reaches its home (S2, R225): it waits for pending stores, returns the visible value and grants a
lease. -/
def execHomeFetch (id : Nat) (s : State) : Host.Outcome State Fault Refusal :=
  match s.fetches.find? (fun f => f.id == id) with
  | none => .next s
  | some f =>
    match f.stage with
    | .home pa =>
      let pl := pa / 256
      let h := s.homes.get {} pl
      let waits := f.accs.any (fun a => a.after.any (stillOut s))
      if !h.pending.isEmpty || waits || lineLocked s pl || writebackPosted s f.asid f.line then .next s
      else
        let s := mscUse s pl (some (if f.noalloc then 0 else f.prio))
        let (e, h') := grantLease (s.homes.get {} pl) s.gt
        let s := { s with homes := s.homes.set pl h' }
        let bytes := Memory.readBytes s.mem (pl * 256) 256
        let tags := lineTags s pl
        let poison := linePoison s pl
        let x : Brought := { asid := f.asid, line := f.line, sectors := if f.sector = 4 then [0, 1, 2, 3] else [f.sector],
                             bytes := bytes, tags := tags, poison := poison, expiry := e,
                             prio := if f.noalloc then 0 else f.prio, lane := false, bits := f.bits }
        let d := dieOf f.core
        let s := if f.stale then s else setL2 s d (withSectors s.gt (findLine (s.die d).l2 f.asid f.line) x)
        if f.lane then
          let g : Fetch := { f with stage := .arrived, bytes := (bytes.drop (64 * f.sector)).take 64,
                                    tags := (tags.drop (2 * f.sector)).take 2, poison := poison }
          .next (if f.stale then laneArrives s g (some pa)
            else { s with fetches := s.fetches.map (fun (y : Fetch) => if y.id == id then g else y) })
        else
          let s := fillL1 s f { x with prio := f.prio }
          let s := { s with fetches := s.fetches.filter (fun x => x.id != id) }
          if f.inst then .next (if f.stale then s else bufferLine s f.core f.asid f.line bytes poison)
          else .next (f.accs.foldl (serveAcc f.tagc true true bytes tags poison) s)
    | _ => .next s

/-- Data comes from the L2 (S1): the L1 takes it under the L2 copy's lease, and the accesses that wait fill. -/
def l2Arrives (s : State) (f : Fetch) : State :=
  let bytes := sectorLine f.sector f.bytes
  let tags := sectorTags f.sector f.tags
  let x : Brought := { asid := f.asid, line := f.line, sectors := if f.sector = 4 then [0, 1, 2, 3] else [f.sector],
                       bytes := bytes, tags := tags, poison := f.poison, expiry := f.expiry, prio := f.prio, lane := false,
                       bits := f.bits }
  let s := fillL1 { s with fetches := s.fetches.filter (fun x => x.id != f.id) } f x
  f.accs.foldl (fun s a => serveAcc f.tagc true false (overlay a.own bytes) tags f.poison s a) s

/-- A private sector arrives (R235). -/
def execPrivateSectorArrival (id : Nat) (s : State) : Host.Outcome State Fault Refusal :=
  match s.fetches.find? (fun f => f.id == id && f.lane && f.stage == .arrived) with
  | none => .next s
  | some f => .next (laneArrives s f none)

/-- Posted accesses of a core to one home arrive in the order they left the queue (R223). -/
def mayArrive (s : State) (p : Posted) (pa : Nat) : Bool :=
  (s.posted.takeWhile (fun q => q.id != p.id)).all (fun q =>
    q.core != p.core || (match q.stage with
      | .walk => false
      | .home qa => dieOfPa qa != dieOfPa pa
      | _ => true))
  && !lineLocked s (pa / 256)
  -- nor before an earlier load of the same strand has read the bytes (R152)
  && p.accs.all (fun st => !s.fetches.any (fun f => f.stage != .arrived && f.accs.any (fun a =>
    ownEarlier st a && (accBytes a).any (accBytes st).contains)))

/-- The time of an arrival returns to the groups it came from (R223 MARK_UPDATE): mark_c is observer bit 1. -/
def raiseMarks (s : State) (accs : List Acc) (t : Nat) : State :=
  accs.foldl (fun s a => s.modGroup a.core a.hslot (fun g =>
    { g with marks := g.marks.update 0 1 (fun m => Nat.max m t) })) s

/-- The bytes of a store that its agreeing strands write: a strand whose granule disagrees writes none. -/
def agreeingBytes (accs : List Acc) : SMap Byte :=
  let bytesOf (a : Acc) : SMap Byte := match a.kind with
    | .sline => slineBytes a
    | _ => storeBytes a
  let lay (m : SMap Byte) (q : Nat × Byte) : SMap Byte := m.set q.1 q.2
  accs.foldl (fun m a => (bytesOf a).foldl lay m) []

/-- A posted store reaches its home (S5). -/
def execPostedArrival (id : Nat) (s : State) : Host.Outcome State Fault Refusal :=
  match s.posted.find? (fun p => p.id == id) with
  | none => .next s
  | some p =>
    match p.stage, p.kind with
    | .home pa, .store | .home pa, .tagst | .home pa, .writeback | .home pa, .hardware =>
      if !mayArrive s p pa then .next s
      else
        let pl := pa / 256
        let s := { s with posted := s.posted.filter (fun x => x.id != id) }
        let tags := lineTags s pl
        let ok (a : Acc) : Bool := !p.tagc || a.tagDone || p.kind != .store || tagsAgree a tags
        let good := p.accs.filter ok
        let s := logAll s (p.accs.filter (fun a => !ok a)) 8
        if p.kind == .store && good.isEmpty then .next s
        else
          let bytes := if p.kind == .store then agreeingBytes good else if p.kind == .tagst then [] else p.bytes
          let newTags : SMap (BitVec 4) := if p.kind == .tagst then
            good.foldl (fun m a => m.set (vaOf a % 256 / 32) (tagBits a)) [] else []
          let back := if p.kind == .writeback && !p.stale then some (dieOf p.core, p.asid, p.line, p.bits) else none
          let prio := (good.map (fun a => if a.noalloc then 0 else a.prio)).foldl Nat.max 0
          let (t, s) := arriveHint s pl 0 (some prio)
            { t := none, bytes := bytes, tags := newTags, accs := good, wb := back, poison := p.poison }
          .next (raiseMarks s good t)
    | _, _ => .next s

/-- Apply a pending entry to the visible value (S6): bytes, tags, poison of fully written granules, the
version, and the line is dirty in the memory-side cache (R192). -/
def makeVisible (s : State) (pl : Nat) (p : Pend) : State :=
  let covered := (List.range 8).filter (fun i => (List.range 32).all (fun j => (SMap.find? p.bytes (32 * i + j)).isSome))
  let s := { s with
    mem := Memory.writeMap s.mem (pl * 256) p.bytes,
    tags := p.tags.foldl (fun m q => SMap.put 0 m (pl * 8 + q.1) q.2) s.tags,
    poison := (s.poison.filter (fun g => !(g / 8 == pl && (covered.contains (g % 8) || p.poison.getLsbD (g % 8)))))
      ++ ((List.range 8).filter p.poison.getLsbD).map (pl * 8 + ·),
    homes := s.homes.update {} pl (fun h => { h with version := h.version + 1, pending := h.pending.drop 1 }),
    mscDirty := if s.mscDirty.contains pl then s.mscDirty else pl :: s.mscDirty }
  let s := match p.link with
    | some (m, _) => sendAck s m
    | none => s
  let s := match p.ring with
    | some (d, n) =>
      s.modDie d (fun x =>
        let out := x.traceOut.filter (fun i => i != n)
        { x with traceOut := out, regs := x.regs.set 0x4008 (.ofNat 64 (out.headD x.traced)) })
    | none => s
  match p.wb with
  | some (d, asid, line, bits) =>
    let h := s.homes.get {} pl
    if h.pending.isEmpty then
      let (e, h') := grantLease h (p.t.getD s.gt)
      setL2 { s with homes := s.homes.set pl h' } d
        { asid := asid, line := line, sectors := 15, bytes := Memory.readBytes s.mem (pl * 256) 256, tags := lineTags s pl,
          expiry := e, poison := linePoison s pl, bits := bits }
    else s
  | none => s

/-- When GT reaches the first pending entry's time its bytes become visible (S6). -/
def execStoreVisible (line : Nat) (s : State) : Host.Outcome State Fault Refusal :=
  match (s.homes.get {} line).pending with
  | [] => .next s
  | p :: _ =>
    match p.t with
    | some t => if t ≤ s.gt then .next (makeVisible s line p) else .next s
    | none => .next s

/-- A copy whose lease has expired is dropped (S8). Level 1 names an L1 by core, level 2 an L2 by die. -/
def execLeaseExpiry (level unit_ asid line : Nat) (s : State) : Host.Outcome State Fault Refusal :=
  let gone (l : CacheLine) : Bool := l.asid == asid && l.line == line && !lineLive s.gt l
  .next (if level = 1 then s.modCore unit_ (fun k => { k with l1 := k.l1.filter (fun l => !gone l) })
    else s.modDie unit_ (fun x => { x with l2 := x.l2.filter (fun l => !gone l) }))

/-- The new value of an atomic (R199) at width w bits. `x` is the operand; ACAS compares with its low half and
takes the high half. -/
def atomicNew (op : Nat) (signed h2 : Bool) (w old x : Nat) : Nat :=
  let m := 2 ^ w
  let xl := x % m
  let sv (n : Nat) : Int := if signed && m / 2 ≤ n then (n : Int) - m else n
  match op with
  | 0x90 => (old + xl) % m
  | 0x91 => if sv old ≤ sv xl then old else xl
  | 0x92 => if sv old ≤ sv xl then xl else old
  | 0x93 => old &&& xl
  | 0x94 => old ||| xl
  | 0x95 => old ^^^ xl
  | 0x96 => xl
  | 0x97 => if old = xl then x / m % m else old
  | 0x98 => if h2 then (lift2 .h2 (fadd1 .f16 .rne) old xl).1.toNat % m else (fadd1 .f32 .rne old xl).1 % m
  | _ => if xl ≤ old then 0 else (old + 1) % m

/-- The result registers of an atomic take the old value unless nr = 1. -/
def atomicResult (s : State) (a : Acc) (old : Nat) (poison : Bool) : State :=
  match a.kind with
  | .atomic _ _ _ true => s
  | _ =>
    let w := if a.uni then 8 else 4
    addFill s a (chunkWords w 2 (wordBytes a.size old)) poison true

/-- The home's clock receives the issuer's and the issuer receives it back (R328). -/
def homeClock (s : State) (d carried c h : Nat) : State :=
  let v := clockNext (clockNext (Nat.max (s.die d).homeClk carried))
  receiveClock (s.modDie d (fun x => { x with homeClk := v })) c h v

/-- Cameo identity of an operation at a home (R339 kind 4). -/
def homeIdent (s : State) (pl : Nat) (a : Acc) : List Nat :=
  let t := s.team a.core a.team
  [pl, t.launch * 2 ^ 32 + t.index, (t.strands.get {} a.sid).ops * 2 ^ 16 + a.sid]

/-- The operation is made: Cameo sees it, and its strand counts it. -/
def homeEvent (s : State) (d pl : Nat) (a : Acc) : State :=
  let s := cmEvent s d 4 a.asid (s.team a.core a.team).part [pl] (homeIdent s pl a) []
  let x := s.strand a.core a.team a.sid
  s.setStrand a.core a.team a.sid { x with ops := x.ops + 1 }

/-- An atomic reaches its executing point (S7): it reads the newest value, writes and returns in one step. -/
def execAtomicArrival (id : Nat) (s : State) : Host.Outcome State Fault Refusal :=
  match s.posted.find? (fun p => p.id == id && p.kind == .atomic) with
  | none => .next s
  | some p =>
    match p.stage, p.accs with
    | .home pa, a :: _ =>
      let pl := pa / 256
      let ident := homeIdent s pl a
      if !mayArrive s p pa || cmHolds s (dieOfPa pa) 4 a.asid [pl] ident then .next s
      else
        let s := { s with posted := s.posted.filter (fun x => x.id != id) }
        if p.tagc && !a.tagDone && !tagsAgree a (lineTags s pl) then .next (logAccess s a 8)
        else
          let at_ := pl * 256 + vaOf a % 256
          let old := newestWord s at_ a.size
          let new := match a.kind with
            | .atomic op sg h2 _ => atomicNew op sg h2 (8 * a.size) old a.data
            | _ => old
          let bad := (granulesOf a).any (linePoison s pl).getLsbD
          let s := homeEvent s (dieOfPa pa) pl a
          let (t, s) := arriveAt s pl { t := none, bytes := putBytes [] (vaOf a % 256) (wordBytes a.size new), accs := [a] }
          let s := homeClock s (dieOfPa pa) p.clk a.core a.hslot
          .next (atomicResult (raiseMarks s [a] t) a old bad)
    | _, _ => .next s

/-- A well-formed deque descriptor (R204): base, cap, top, bottom. -/
def dequeOk (ws : List Nat) : Bool :=
  match ws with
  | [base, cap, top, bottom, r4, r5, r6, r7] =>
    base % 8 == 0 && 1 ≤ cap && cap ≤ 2 ^ 32 && 2 ^ cap.log2 == cap && top ≤ bottom && bottom ≤ top + cap
      && r4 == 0 && r5 == 0 && r6 == 0 && r7 == 0
  | _ => false

/-- Fill the registers of a deque operation (R206): the value pair or register, then the status; each with its poison. -/
def dequeResult (s : State) (a : Acc) (value status : Nat) (vbad sbad : Bool) : State :=
  let v : List W64 := if a.uni then [.ofNat 64 value] else [.ofNat 64 (value % 2 ^ 32), .ofNat 64 (value / 2 ^ 32)]
  let st (s : State) : State := addFill s { a with pos := a.pos + v.length } [.ofNat 64 status] sbad true
  match a.kind with
  | .dqpush => st s
  | _ => st (addFill s a v vbad true)

/-- What an operation does by its descriptor's words (R206): it ends with a status, or it reaches for an element. -/
inductive DequeDo where
  | ends (status : Nat)
  | element (i : Nat)
  deriving DecidableEq, Repr

def dequeDo (k : AccKind) (ws : List Nat) : DequeDo :=
  let cap := ws.getD 1 0
  let top := ws.getD 2 0
  let bot := ws.getD 3 0
  if !dequeOk ws then .ends 3
  else
    match k with
    | .dqpush => if bot - top = cap then .ends 2 else .element bot
    | .dqpop => if bot = top then .ends 1 else .element (bot - 1)
    | _ => if bot = top then .ends 1 else .element top

/-- The counter that moves with its element, at the descriptor's offset in its line (R206). -/
def dequeUpdate (k : AccKind) (off : Nat) (ws : List Nat) : SMap Byte :=
  let top := ws.getD 2 0
  let bot := ws.getD 3 0
  match k with
  | .dqpush => putBytes [] (off + 24) (wordBytes 8 (bot + 1))
  | .dqpop => putBytes [] (off + 24) (wordBytes 8 (bot - 1))
  | _ => putBytes [] (off + 16) (wordBytes 8 (top + 1))

/-- The eight words of a descriptor, pending entries included, and whether it is poisoned. -/
def dequeWords (s : State) (desc : Nat) : List Nat := (List.range 8).map (fun i => newestWord s (desc + 8 * i) 8)
def granuleBad (s : State) (pa : Nat) : Bool := s.poison.contains (pa / 32)

/-- The address of element i of a deque (R204). -/
def elementVa (ws : List Nat) (i : Nat) : Nat := (ws.getD 0 0 + 8 * (i % ws.getD 1 1)) % 2 ^ 64

/-- The element access of a deque operation, made by the home in the issuing context (R206): where the element lies, or the
cause of its deferred fault. -/
def dequeElement (s : State) (d asid who : Nat) (pkr : W64) (ws : List Nat) (i : Nat) (write : Bool) : (Stage ⊕ Nat) × State :=
  let va := elementVa ws i
  if va / 2 ^ 61 ≠ 0 then (.inr 11, s)
  else
    let (e, s) := translate s d asid va who
    match e with
    | none => (.inr 11, s)
    | some e =>
      let denied := if write then !e.leaf.w || keyDenies pkr e.leaf.key true
        else !e.leaf.rd || keyDenies pkr e.leaf.key false
      if denied then
        (.inr 11, logViolation s d { gt := s.gt, addr := va, asid := asid, source := 4, kind := 6, who := who })
      else
        match routeAt s d (va % 2 ^ 57 / 256) asid who va e with
        | (.inl (.home pa), s) =>
          if e.leaf.tagc && s.tags.get 0 ((pa + va % 256) / 32) != .ofNat 4 (va / 2 ^ 57) then (.inr 8, s)
          else (.inl (.home (pa + va % 256)), s)
        | (.inl (.host pa), s) => (.inl (.host (pa + va % 256)), s)
        | (.inl (.peer m pa), s) => (.inl (.peer m (pa + va % 256)), s)
        | (x, s) => (x, s)

/-- An operation ends at its descriptor: the counter is written, and its registers fill. -/
def dequeEnd (s : State) (pl : Nat) (p : Posted) (a : Acc) (bytes : SMap Byte) (value status : Nat) (vbad : Bool) : State :=
  let d := dieOfPa (pl * 256)
  let sbad := granuleBad s (pl * 256 + vaOf a % 256) || granuleBad s (pl * 256 + vaOf a % 256 + 32)
  let (t, s) := arriveAt s pl { t := none, bytes := bytes, accs := [a] }
  dequeResult (homeClock (raiseMarks s [a] t) d p.clk a.core a.hslot) a value status (vbad || sbad) sbad

/-- The status of a response (log entry 48): 0 for success, 1 to 3 for the end of a deque operation (R206), `refused` for an
error response, and above `faulted` the cause of a deque operation's element fault. -/
def refused : Nat := 255
def faulted : Nat := 256

/-- The home of a die sends a clock with a response: 1 above its own before (R328). -/
def homeSends (s : State) (d : Nat) : Nat × State :=
  let v := clockNext (s.die d).homeClk
  (v, s.modDie d (fun x => { x with homeClk := v }))

/-- The response to a peer's atomic or deque operation: its value, and the clock of the home (R328). -/
def answerAtomic (s : State) (m seq d status n value : Nat) : State :=
  let (v, s) := homeSends s d
  sendPeer s m 5 status (wordBytes n value ++ wordBytes 8 v) seq

/-- The element access that the host or a peer made is over: the operation ends (R206), that of a peer with its response. -/
def dequeFinish (s : State) (p : Posted) (value : Nat) : State :=
  let s := { s with posted := s.posted.filter (fun x => x.id != p.id) }
  match p.elem, p.accs with
  | some pl, a :: _ =>
    let off := vaOf a % 256
    let bytes := dequeUpdate a.kind off (dequeWords s (pl * 256 + off))
    match p.peer with
    | none => dequeEnd s pl p a bytes value 0 false
    | some (m, seq, wanted) =>
      let s := (arriveAt s pl { t := none, bytes := bytes }).2
      if wanted then answerAtomic s m seq (dieOfPa (pl * 256)) 0 8 value else s
  | _, _ => s

/-- An element of this device: it is read or written in the same step. The value. -/
def dequeLocal (s : State) (k : AccKind) (ea data : Nat) : Nat × State :=
  match k with
  | .dqpush =>
    (0, (arriveAt s (ea / 256) { t := none, bytes := putBytes [] (ea % 256) (wordBytes 8 data) }).2)
  | _ => (newestWord s ea 8, mscUse s (ea / 256) (some 0))

/-- A deque operation performs at its descriptor's home with its element access, as one step (R204-R207). An element that the
host or a peer holds is asked for over its link; until the answer nothing else acts on the descriptor's line. -/
def execDequeAtHome (id : Nat) (s : State) : Host.Outcome State Fault Refusal :=
  match s.posted.find? (fun p => p.id == id && p.kind == .deque && p.elem.isNone) with
  | none => .next s
  | some p =>
    match p.stage, p.accs with
    | .home pa, a :: _ =>
      let pl := pa / 256
      let d := dieOfPa pa
      if !mayArrive s p pa || cmHolds s d 4 a.asid [pl] (homeIdent s pl a) then .next s
      else
        let s := { s with posted := s.posted.filter (fun x => x.id != id) }
        if p.tagc && !a.tagDone && !tagsAgree a (lineTags s pl) then .next (logAccess s a 8)
        else
          let s := homeEvent s d pl a
          let off := vaOf a % 256
          let ws := dequeWords s (pl * 256 + off)
          match dequeDo a.kind ws with
          | .ends st => .next (dequeEnd s pl p a [] 0 st false)
          | .element i =>
            let push := a.kind == .dqpush
            match dequeElement s d a.asid a.core p.pkr ws i push with
            | (.inr cause, s) => .next (logAccess s a cause)
            | (.inl (.home ea), s) =>
              let bad := !push && granuleBad s ea
              let (v, s) := dequeLocal s a.kind ea a.data
              .next (dequeEnd s pl p a (dequeUpdate a.kind off ws) v 0 bad)
            | (.inl st, s) =>
              let s := { s with posted := s.posted ++ [{ p with stage := st, elem := some pl, va := .ofNat 64 (elementVa ws i), since := s.gt }] }
              match st with
              | .peer m ea =>
                .next (if push then sendPeer s m 3 ea (wordBytes 8 a.data) id else sendRead s m ea 8 id)
              | _ => .next s
    | _, _ => .next s

/-- Write a dirty line back to DRAM and set its block's bit in the side table (R192). -/
def writebackMsc (s : State) (pl : Nat) : State :=
  if !s.mscDirty.contains pl then s
  else
    let s := bumpDie { s with mscDirty := s.mscDirty.filter (fun x => x != pl) } (dieOfPa (pl * 256)) 4 1
    let pa := pl * 256
    let dt := ((s.die (dieOfPa pa)).regs.get 0 0x0).toNat
    if dt % 2 = 0 then s
    else
      let off := pa % 2 ^ 35
      let blk := off / 4096 % 512
      let at_ := dt / 2 ^ 20 % 2 ^ 32 * 2 ^ 20 + 64 * (off / 2 ^ 21) + blk / 8
      let b := newestByte s at_ ||| (1#8 <<< (blk % 8))
      (arriveAt s (at_ / 256) { t := none, bytes := [(at_ % 256, b)] }).2

def execMscWriteback (line : Nat) (s : State) : Host.Outcome State Fault Refusal := .next (writebackMsc s line)

/-! ## Register fills (R55) -/

/-- Whether every register a parked strand waits for is full. -/
def regsFull (s : State) (c h sid : Nat) (vs ks : List Nat) : Bool :=
  let g := s.group c h
  let st := s.strand c g.team sid
  vs.all (fun p => (st.regs.get {} p).full) && ks.all (fun n => (g.k.get {} n).full)

/-- Parked fragments whose registers have filled are candidates again (R55). -/
def wakeParked (s : State) (c h : Nat) : State :=
  let now := (s.core c).cycle
  let ok (w : Wait) : Bool := match w with
    | .regs sid vs ks => regsFull s c h sid vs ks
    | _ => false
  s.modGroup c h (fun g => { g with
    frags := g.frags.map (fun p => if ok p.2.wait then (p.1, { p.2 with wait := .ready, since := Nat.max now p.2.since }) else p),
    spill := g.spill.map (fun p => if ok p.wait then { p with wait := .ready } else p) })

/-- Write the words of a fill from a position onward. -/
def fillRegs (s : State) (f : Fill) : State :=
  let g := s.group f.core f.hslot
  if f.uni then
    let logged := g.log.any (fun l => (l.acc :: l.more).any (fun a => a.uni && a.pos == f.pos && a.part != 0))
    let more := f.part != 0 && (logged || s.fills.any (fun x => x.id != f.id && x.core == f.core && x.hslot == f.hslot && x.uni
        && x.pos == f.pos && x.part != 0)
      || s.fetches.any (fun q => q.accs.any (fun a => a.core == f.core && a.hslot == f.hslot && a.uni
        && a.pos == f.pos && a.part != 0)))
    let mix (old : W64) (w : W64) : W64 :=
      match f.part with
      | 1 => (old &&& (0xFFFFFFFF00000000 : W64)) ||| (w &&& (0xFFFFFFFF : W64))
      | 2 => (old &&& (0xFFFFFFFF : W64)) ||| (w <<< 32)
      | _ => w
    let k := f.words.zipIdx.foldl (fun (m : SMap KReg) p =>
      m.update {} (f.pos + p.2) (fun o => { val := mix o.val p.1, full := !more, poison := f.poison || (more && o.poison) })) g.k
    s.setGroup f.core f.hslot { g with k := k }
  else
    s.modTeam f.core g.team (fun t => { t with strands := t.strands.update {} f.sid (fun x =>
      { x with regs := f.words.zipIdx.foldl (fun m p =>
          m.set (f.pos + p.2) { val := p.1.truncate 32, full := true, poison := f.poison }) x.regs }) })

/-- The data of a request fills its registers (R55): a fill, or a request that the L2 has answered. -/
def execRegisterFill (id : Nat) (s : State) : Host.Outcome State Fault Refusal :=
  match s.fills.find? (fun f => f.id == id) with
  | none =>
    match s.fetches.find? (fun f => f.id == id && !f.lane && f.stage == .arrived && !f.accs.any (fun a => a.after.any (stillOut s))) with
    | some f => .next (l2Arrives s f)
    | none => .next s
  | some f =>
    -- what fills in a cycle serves the passes that start in it
    if (s.core f.core).cycle + 1 < f.due then .next s
    else
      let s := { s with fills := s.fills.filter (fun x => x.id != id) }
      let s := fillRegs s f
      let groups := if f.uni then [f.hslot] else (s.teamGroups f.core (s.group f.core f.hslot).team).map Prod.fst
      .next (groups.foldl (fun s h => wakeParked s f.core h) s)

end Sys2Proof.Machine
end

