-- ==== Sys2Proof/Machine/Gate.lean ====
section
/-! DEFINITION. What an instruction waits for before it acts: acquires of its fragment (R230), a release
(R229) or a FENCE (R219), and the engine counters (R220). -/

namespace Sys2Proof.Machine

/-! ## Outstanding accesses of a group slot -/

/-- An access of a group slot that is an earlier one (R229): issued before the identity `upto` was given out. -/
def ofGroup (c h upto : Nat) (a : Acc) : Bool := a.core == c && a.hslot == h && decide (a.aid < upto) && !a.win

/-- Whether an access at another core's part returns something to its pass, and whether it changes nothing there. -/
def GangWhat.reads : GangWhat → Bool
  | .read | .ldf _ | .atomic | .cltry | .clwait => true
  | _ => false
def GangWhat.only : GangWhat → Bool
  | .read | .cltry | .clwait => true
  | .ldf clr => !clr
  | _ => false

/-- A load, atomic or deque operation of the group whose registers have not filled; one that is logged waits for its replay and
counts no more (R229). -/
def loadsPending (s : State) (c h upto : Nat) : Bool :=
  s.fetches.any (fun f => f.accs.any (ofGroup c h upto))
  || s.posted.any (fun p => (p.kind == .atomic || p.kind == .deque) && p.accs.any (ofGroup c h upto))
  || s.fills.any (fun f => f.core == c && f.hslot == h && !f.other && decide (f.aid < upto))
  || s.gang.any (fun x => (x.what.reads && x.what != .clwait && x.what != .cltry) && ofGroup c h upto x.acc)

/-- A local access of the group that has not performed; `writes` counts the writes alone (R226, R229). -/
def gangPending (s : State) (c h upto : Nat) (writes : Bool) : Bool :=
  s.gang.any (fun x => (!x.what.only || !writes) && ofGroup c h upto x.acc)

/-- A private store of the group that no L1 line holds yet (R235). -/
def keptPending (s : State) (c h upto : Nat) : Bool := s.fetches.any (fun f => f.kept.any (ofGroup c h upto))

/-- A posted access of the group at a stage. -/
def postedAt (s : State) (c h upto : Nat) (at_ : Stage → Bool) : Bool :=
  s.posted.any (fun p => p.accs.any (ofGroup c h upto) && at_ p.stage)

def Stage.isLocal : Stage → Bool
  | .walk | .home _ => true
  | _ => false

def Stage.isHost : Stage → Bool
  | .walk | .host _ => true
  | _ => false

def Stage.isPeer : Stage → Bool
  | .walk | .peer .. => true
  | _ => false

/-- A read of the group on its way to the host or to a peer. -/
def fetchAt (s : State) (c h upto : Nat) (at_ : Stage → Bool) : Bool :=
  s.fetches.any (fun f => f.accs.any (ofGroup c h upto) && at_ f.stage)

/-- An ACWR of the group whose tile write is not done (R273). -/
def acwrPending (s : State) (c h upto : Nat) : Bool :=
  (s.core c).port.any (fun m => m.op == 0xCD && m.hslot == h && decide (m.id < upto))

/-- A logged access of the group that a test picks. It has not performed, and reports when its replay does; what ended as
REMOTE-GONE has reported (R233). -/
def loggedAcc (s : State) (c h upto : Nat) (pick : Acc → Bool) : Bool :=
  (s.group c h).log.any (fun l => l.cause != 13 && (l.acc :: l.more).any (fun a => ofGroup c h upto a && pick a))

/-- Mark c of a group (R222). -/
def markC (g : GroupSlot) : Nat := g.marks.get 0 1

/-- The release condition for the observers named (R229, R233); an empty mask waits as for o. Bits 0-5 are o, c, y, m,
n, h. What runs the group's handler does not wait for what the log holds, since IRET replays it (log entry 47). -/
def observersDone (s : State) (c h upto : Nat) (handler : Bool) (obs : BitVec 6) : Bool :=
  let o := obs == 0 || obs.getLsbD 0
  let logged (pick : Acc → Bool) : Bool := !handler && loggedAcc s c h upto pick
  let global (a : Acc) : Bool := isWrite a.kind && !a.lane
  let posted := (List.range 5).any (fun i => obs.getLsbD (i + 1))
  let local_ := !postedAt s c h upto Stage.isLocal
  !loadsPending s c h upto
  && (!o || (!keptPending s c h upto && !gangPending s c h upto false && !logged (fun a => !global a)))
  && (!posted || !logged global)
  && (!obs.getLsbD 1 || (local_ && decide (markC (s.group c h) < s.gt)))
  && (!obs.getLsbD 2 || (local_ && !gangPending s c h upto true))
  && (!obs.getLsbD 3 || (local_ && !gangPending s c h upto true && !acwrPending s c h upto))
  && (!obs.getLsbD 4 || !(postedAt s c h upto Stage.isPeer || fetchAt s c h upto Stage.isPeer))
  && (!obs.getLsbD 5 || !(postedAt s c h upto Stage.isHost || fetchAt s c h upto Stage.isHost))

/-- What a FENCE or a release waits for (R219, R229). -/
def fenceDone (s : State) (c h upto : Nat) (handler acq : Bool) (obs : Option (BitVec 6)) : Bool :=
  (!acq || !loadsPending s c h upto)
  && (match obs with | some o => observersDone s c h upto handler o | none => true)

/-- Whether an acquire access has neither filled nor been logged (R230). -/
def accPending (s : State) (aid : Nat) : Bool :=
  s.fetches.any (fun f => f.accs.any (fun a => a.aid == aid)) || s.posted.any (fun p => p.accs.any (fun a => a.aid == aid))
  || s.fills.any (fun f => f.aid == aid) || s.gang.any (fun x => x.acc.aid == aid)

def acquiresDone (s : State) (f : Frag) : Bool := f.acquires.all (fun i => !accPending s i)

/-! ## Gates -/

/-- Park the fragment at the start of its instruction, before the pass starts. -/
def parkAtStart (s : State) (r : FragRef) (w : Wait) : State :=
  { s with cur := none }.modFrag r (fun f => { f with wait := w, lane := none })

/-- The acquires of earlier passes gate an instruction that accesses memory, issues an engine command, launches or fences
(R230); with E = 0 it waits as with any other E, although no strand then executes (log entry 45). -/
def acquireGate (s : State) (k : FragRef → State → State) : State :=
  match s.cur with
  | none => s
  | some r =>
    let f := s.frag r
    if !f.mid && !acquiresDone s f then parkAtStart s r .acquire
    else k r (s.modFrag r (fun f => { f with acquires := if f.mid then f.acquires else [] }))

/-- Whether the fragment of a reference runs its group's handler. -/
def inHandlerAt (s : State) (r : FragRef) : Bool := runsHandler (s.group r.core r.hslot) r.entry

/-- A release waits before its first active strand issues, for what has been issued before it came (R229). -/
def releaseGate (i : Instr) (order : BitVec 2) (obs : BitVec 6) (active : State → FragRef → Bool) (k : State → State)
    (r : FragRef) (s : State) : State :=
  let f := s.frag r
  if !order.getLsbD 1 || f.released || !active s r then k s
  else if fenceDone s r.core r.hslot s.nextId (inHandlerAt s r) false (some obs) then
    k (s.modFrag r (fun f => { f with released := true }))
  else (beginPass s r i).modFrag r (fun f => { f with wait := .fence false (some obs) false s.nextId, lane := none })

/-- Whether a pass has an active strand: of its E in the strand form, at the reference slot in the uniform
form. -/
def hasActive (u : Bool) (guard : BitVec 4) (gn : Bool) (s : State) (r : FragRef) : Bool :=
  let f := s.frag r
  if u then guardHolds (strandAt s r f.refSlot) guard gn else !(activeSlots s r guard gn f.resume).isEmpty

/-! ## Engine counters (R220) -/

def counterOf (g : GroupSlot) (cls : Nat) : Nat :=
  match cls with
  | 0 => g.cy
  | 1 => g.cm
  | _ => g.cx

def counterQueue (g : GroupSlot) (cls : Nat) : List (Nat × Option Nat) :=
  match cls with
  | 0 => g.yq
  | 1 => g.mq
  | _ => g.xq

def setCounter (g : GroupSlot) (cls n : Nat) (q : List (Nat × Option Nat)) : GroupSlot :=
  match cls with
  | 0 => { g with cy := n, yq := q }
  | 1 => { g with cm := n, mq := q }
  | _ => { g with cx := n, xq := q }

/-- A command issues: its counter rises by 1 (R220). -/
def raiseCounter (s : State) (c h cls id : Nat) : State :=
  s.modGroup c h (fun g => setCounter g cls (counterOf g cls + 1) (counterQueue g cls ++ [(id, none)]))

/-- A command completes: the counter falls in issue order, and the group receives the clocks of the engines
whose commands it stood for (R220, R328). -/
def lowerCounter (s : State) (c h cls id clk : Nat) : State :=
  let g := s.group c h
  let q := (counterQueue g cls).map (fun p => if p.1 == id then (p.1, some clk) else p)
  let fallen := q.takeWhile (fun p => p.2.isSome)
  let rest := q.drop fallen.length
  let s := s.setGroup c h (setCounter g cls (counterOf g cls - fallen.length) rest)
  if cls = 2 then s else fallen.foldl (fun s p => receiveClock s c h (p.2.getD 0)) s

end Sys2Proof.Machine
end

