-- ==== Sys2Proof/Machine/Mem.lean ====
section
/-! DEFINITION. LD, ST, LDLINE, STLINE, LDF, STF, PREF, TAGST and TAGLD (R137-R152): effective addresses, the
checks of R148, watchpoints (R325), local memory, and the nine instructions. -/

namespace Sys2Proof.Machine

/-! ## Addresses (R137) -/

/-- Access size in bytes. -/
def memBytes (f : FmtM) : Nat := sizeBytes f.size

/-- The registers an address is formed from: base, then index where the instruction takes one. -/
def addrSrcs (f : FmtM) (indexed : Bool) : List SrcReg :=
  let base : SrcReg := { isK := f.u || f.kbase, num := f.base.toNat,
                         pair := !f.u && !f.kbase && f.space == .global }
  if indexed then [base, { isK := f.u, num := f.index.toNat }] else [base]

/-- The effective address, modulo 2^64. -/
def effAddr (f : FmtM) (indexed : Bool) (vs : List W64) : W64 :=
  let n : W64 := .ofNat 64 (memBytes f)
  let raw := vs.getD 1 0
  let ix : W64 := if !indexed then 0 else if f.u then raw else (raw.truncate 32 : W32).signExtend 64
  vs.getD 0 0 + ix * n + f.offset.signExtend 64 * n

/-- Read the address registers of a strand, or stop there; a park waits for every register that the strand reads, `more` among
them (R55). -/
def formAddr (s : State) (r : FragRef) (slot : Nat) (f : FmtM) (indexed : Bool) (more : List SrcReg) : (W64 × State) ⊕ Stop :=
  let xs := addrSrcs f indexed
  match checkAmong s r slot (xs ++ more) xs with
  | some x => .inr x
  | none =>
    let (vs, s) := readAll s r slot xs
    .inl (effAddr f indexed vs, s)

/-! ## Local memory (R138, R145, R210) -/

/-- A place in the local memory of a team; `own` says that it is the accessing team's. -/
structure LocalAt where
  core : Nat
  team : Nat
  off : Nat
  own : Bool
  deriving DecidableEq, Repr

/-- The declared local size rounded up to 4 KiB (R138). -/
def gangPitch (t : Team) : Nat := (t.lsize + 4095) / 4096 * 4096

/-- The place a local or gang-local address names, none outside the space (R138). -/
def localAt (c ti : Nat) (t : Team) (gang : Bool) (a : Nat) : Option LocalAt :=
  if !gang then (if a < t.lsize then some { core := c, team := ti, off := a, own := true } else none)
  else
    let l := gangPitch t
    if t.gangSize * l ≤ a then none
    else
      match t.members[a / l]? with
      | some (c', t') => some { core := c', team := t', off := a % l, own := c' == c && t' == ti }
      | none => if a < l then some { core := c, team := ti, off := a, own := true } else none

/-- The granules of n bytes from an offset. -/
def granules (off n : Nat) : List Nat :=
  (List.range ((off + n - 1) / 16 + 1 - off / 16)).map (off / 16 + ·)

def localBytes (t : Team) (off : Nat) : Nat → List Byte
  | 0 => []
  | n + 1 => t.mem.get 0 off :: localBytes t (off + 1) n

def putLocal (m : SMap Byte) (off : Nat) : List Byte → SMap Byte
  | [] => m
  | b :: r => putLocal (SMap.put 0 m off b) (off + 1) r

def localBad (t : Team) (off n : Nat) : Bool := (granules off n).any t.lpoison.contains

def localFull (t : Team) (grans : List Nat) : Bool := grans.all t.full.contains

/-- The phase of a clasp (R210). -/
def claspPhase (t : Team) (off : Nat) : Bool := (t.mem.get 0 off).getLsbD 0

/-- A fragment that leaves CLWAIT: a uniform form is complete, a strand form retries at its strand (R212,
R213). -/
def claspWake (t : Team) (c ti : Nat) (grans : List Nat) (w : Wait) : Option Bool :=
  match w with
  | .clasp c' t' off ph uni =>
    if c' == c && t' == ti && grans.contains (off / 16) && claspPhase t off != ph then some uni else none
  | _ => none

/-- Wake the waiters of one group slot on clasps of a team's granules, entries and spilled pieces alike (R213): the group
receives the clasp's clock (R328) and emits a record for each (R330); they are candidates in the next cycle, on another core 4
cycles later, and what stands at its next instruction may merge (R115). -/
def wakeGroup (s : State) (gc gh c ti : Nat) (grans : List Nat) : State :=
  let t := s.team c ti
  let g := s.group gc gh
  let now := (s.core gc).cycle
  let at_ := now + (if gc = c then 1 else 4)
  let offOf (w : Wait) : Nat := match w with
    | .clasp _ _ off _ _ => off
    | _ => 0
  let woken := g.frags.filter (fun p => (claspWake t c ti grans p.2.wait).isSome)
  let pieces := g.spill.filter (fun p => (claspWake t c ti grans p.wait).isSome)
  let note (s : State) (slot off : Nat) (pc : W64) (e : W32) : State :=
    emitTraceAt (receiveClock s gc gh (t.claspClk.get 0 (off / 16))) gc gh 5 0 slot off pc e
  let slot (f : Frag) : Nat := match f.wait with
    | .clasp _ _ _ _ false => f.resume
    | _ => f.refSlot
  let s := woken.foldl (fun s p => note s (slot p.2) (offOf p.2.wait) p.2.pc p.2.e) s
  let s := pieces.foldl (fun s p => note s (p.toFrag now).refSlot (offOf p.wait) p.pc p.e) s
  if woken.isEmpty && pieces.isEmpty then s
  else
    let s := s.modGroup gc gh (fun g => { g with
      frags := g.frags.map (fun p => match claspWake t c ti grans p.2.wait with
        | some true => (p.1, { p.2.restart (p.2.pc + 8) (Nat.max at_ p.2.since) with delay := 2 })
        | some false => (p.1, { p.2 with wait := .ready, since := Nat.max at_ p.2.since, delay := 2 })
        | none => p),
      spill := g.spill.map (fun p => match claspWake t c ti grans p.wait with
        | some uni => { p with wait := .ready, pc := if uni then p.pc + 8 else p.pc }
        | none => p) })
    woken.foldl (fun s p => settleAt s gc gh p.1) s

/-- Wake every waiter of the gang on clasps of a team's granules (R213). -/
def wakeClasps (s : State) (c ti : Nat) (grans : List Nat) : State :=
  let t := s.team c ti
  let teams := if t.members.isEmpty then [(c, ti)] else t.members
  teams.foldl (fun s p => (s.teamGroups p.1 p.2).foldl (fun s q => wakeGroup s p.1 q.1 c ti grans) s) s

/-- Write local bytes (R143, R145, R248): `fill` sets the full bit of every granule touched; a granule written
whole loses its poison. -/
def localWrite (s : State) (c ti off : Nat) (bytes : List Byte) (fill : Bool) : State :=
  if bytes.isEmpty then s
  else
    let gs := granules off bytes.length
    let whole (g : Nat) : Bool := off ≤ 16 * g && 16 * g + 16 ≤ off + bytes.length
    let s := s.modTeam c ti (fun t => { t with
      mem := putLocal t.mem off bytes,
      full := if fill then t.full ++ gs.filter (fun g => !t.full.contains g) else t.full,
      lpoison := t.lpoison.filter (fun g => !(gs.contains g && whole g)) })
    wakeClasps s c ti gs

/-! ## Watchpoints (R323, R325) -/

/-- Whether an access of a group slot and strand lies in a watchpoint's or comparator's scope. -/
def inScope (s : State) (scope : Nat) (id : W64) (c h : Nat) (sids : List Nat) : Bool :=
  let n := id.toNat
  let h' := n / 2 ^ 16 % 64
  let g := s.group c h
  let g' := s.group c h'
  let sameTeam := g'.alloc && g'.team == g.team
  n % 2 ^ 16 == (s.teamOf c h).ctx.asid
    && (match scope with
        | 3 => true
        | 2 => sameTeam
        | 1 => h' == h
        | _ => sameTeam && sids.contains (n / 2 ^ 32 % 1024))

/-- Whether watchpoint i matches an access: space 0 is a VA, 1 an offset of the team's own local memory. -/
def watchMatches (s : State) (c h : Nat) (sids : List Nat) (i space a n : Nat) (rd wr : Bool) : Bool :=
  let regs := (s.core c).regs
  let adr := (regs.get 0 (0x200 + 0x20 * i)).toNat % 2 ^ 57
  let ctl := regs.get 0 (0x208 + 0x20 * i)
  let lsz := Nat.min 21 (ctl.toNat % 32)
  let base := adr / 2 ^ lsz * 2 ^ lsz
  ctl.getLsbD 63 && ctl.toNat / 2 ^ 57 % 4 == space && ((rd && ctl.getLsbD 59) || (wr && ctl.getLsbD 60))
    && a < base + 2 ^ lsz && base < a + n
    && inScope s (ctl.toNat / 2 ^ 61 % 4) (regs.get 0 (0x210 + 0x20 * i)) c h sids

/-- The first watchpoint that a piece of an access hits, each with its strand, place and size; LHIT takes it. -/
def watchHit (s : State) (c h space : Nat) (pieces : List (Nat × Nat × Nat)) (rd wr : Bool) : Option State :=
  match (List.range 16).find? (fun i => pieces.any (fun q => watchMatches s c h [q.1] i space q.2.1 q.2.2 rd wr)) with
  | none => none
  | some i => some (s.modCore c (fun k => { k with regs := k.regs.set 0x400 (.ofNat 64 (16 + i)) }))

/-! ## The checks of R148 -/

/-- What an access may act on once it has passed its checks: a global page, the words of a private access with
their pages, or a place in local memory. -/
inductive Target where
  | glob (leaf : Option PageLeaf)
  | priv (parts : List (W64 × Nat × Option PageLeaf))
  | loc (at_ : LocalAt)
  deriving DecidableEq, Repr

/-- Granule tags that the L1 holds of a line: none where it holds no live copy of the sector. -/
def l1Tag (s : State) (c asid va gran : Nat) : Option (BitVec 4) :=
  match findLine (s.core (l1Core s c (va / 256))).l1 asid (va / 256) with
  | some l => if lineLive s.gt l && l.sectors.getLsbD (gran / 2) then some (l.tags.getD gran 0) else none
  | none => none

/-- Steps 3 to 6 of R148 with the reach check of R202, for the granules the access touches in its line. -/
def pageCheck (s : State) (r : FragRef) (va a : W64) (rd wr : Bool) (kind : AccKind) (grans : List Nat) :
    State × (Option PageLeaf ⊕ Stop) :=
  let g := s.group r.core r.hslot
  let asid := (s.team r.core g.team).ctx.asid
  let v := va.toNat % 2 ^ 57
  match tlbFind s r.core asid v with
  | none => (tlbAsk s r.core asid v va.toNat, .inr (.park (.tlb asid v)))
  | some e =>
    let s := tlbTouch s r.core e
    match e.leaf with
    | none => (s, .inl none)
    | some l =>
      let pkr := passPkr s r
      let differs (i : Nat) : Bool := match l1Tag s r.core asid v i with
        | some t => t != .ofNat 4 (va.toNat / 2 ^ 57)
        | none => false
      if (rd && !l.rd) || (wr && !l.w) then (s, .inr (.fault 6 a))
      else if (rd && keyDenies pkr l.key false) || (wr && keyDenies pkr l.key true) then (s, .inr (.fault 7 a))
      else if !reachOk l kind then (s, .inr (.fault 12 a))
      else if l.tagc && grans.any differs then (s, .inr (.fault 8 a))
      else (s, .inl (some l))

/-- The VA of a private byte (R140). -/
def privateVa (t : Team) (sid p : Nat) : W64 :=
  t.pbase + .ofNat 64 (sid / 32 * 32 * t.laneWords * 4 + (p / 4 * 32 + sid % 32) * 4 + p % 4)

def lineGranules (off n : Nat) : List Nat :=
  (List.range 8).filter (fun i => off % 256 / 32 ≤ i && i ≤ (off % 256 + n - 1) / 32)

/-- The watched comparison of a strand's access, unless the held slot of a resumed instruction makes it
(R325, R327). -/
def watched (s : State) (r : FragRef) (slot space a n : Nat) (rd wr : Bool) : Option State :=
  if (s.frag r).skip == some slot then none
  else watchHit s r.core r.hslot space [(sidOf (s.group r.core r.hslot) slot, a, n)] rd wr

/-- That of a line access: the words of its active slots, each as its strand's (R144, R325). -/
def watchedLine (s : State) (r : FragRef) (slot space a : Nat) (slots : List Nat) (rd wr : Bool) : Option State :=
  if (s.frag r).skip == some slot then none
  else
    let sid := sidOf (s.group r.core r.hslot)
    watchHit s r.core r.hslot space ((slots.map (fun j => [(sid j, a + 4 * j, 4), (sid j, a + 128 + 4 * j, 4)])).flatten) rd wr

/-- The comparison of an access: of its bytes, or of the words of a line's slots. -/
def watchedAs (s : State) (r : FragRef) (slot space a n : Nat) (line : List Nat) (rd wr : Bool) : Option State :=
  if line.isEmpty then watched s r slot space a n rd wr else watchedLine s r slot space a line rd wr

/-- The checks of every word of a private access: all of the first word's before those of the second (log entry 54). -/
def privChecks (r : FragRef) (a : W64) (rd wr : Bool) (kind : AccKind) :
    List (W64 × Nat) → State → State × (List (W64 × Nat × Option PageLeaf) ⊕ Stop)
  | [], s => (s, .inl [])
  | (va, n) :: rest, s =>
    match pageCheck s r va a rd wr kind (lineGranules (va.toNat % 2 ^ 57) n) with
    | (s, .inr x) => (s, .inr x)
    | (s, .inl l) =>
      match privChecks r a rd wr kind rest s with
      | (s, .inr x) => (s, .inr x)
      | (s, .inl ps) => (s, .inl ((va, n, l) :: ps))

/-- Steps 1 and 2 of R148 with R138 and R139, the watchpoints, then steps 3 to 6. `line` lists the active slots of a line
access. -/
def checkAccess (s : State) (r : FragRef) (slot : Nat) (space : Space) (a : W64) (n : Nat) (rd wr : Bool)
    (kind : AccKind) (grans : List Nat) (line : List Nat := []) : State × (Target ⊕ Stop) :=
  let g := s.group r.core r.hslot
  let t := s.team r.core g.team
  let sid := sidOf g slot
  let an := a.toNat
  match space with
  | .global =>
    if 2 ^ 61 ≤ an then (s, .inr (.fault 4 a))
    else if an % n ≠ 0 then (s, .inr (.fault 5 a))
    else
      match watchedAs s r slot 0 (an % 2 ^ 57) n line rd wr with
      | some s => (s, .inr (.fault 23 a))
      | none =>
        match pageCheck s r a a rd wr kind grans with
        | (s, .inl l) => (s, .inl (.glob l))
        | (s, .inr x) => (s, .inr x)
  | .lane =>
    if 2 ^ 32 ≤ an then (s, .inr (.fault 4 a))
    else if t.laneWords ≤ (an + n - 1) / 4 then (s, .inr (.fault 10 a))
    else if an % n ≠ 0 then (s, .inr (.fault 5 a))
    else
      let words : List (W64 × Nat) :=
        if n = 8 then [(privateVa t sid an, 4), (privateVa t sid (an + 4), 4)] else [(privateVa t sid an, n)]
      let hit := words.findSome? (fun w =>
        (watched s r slot 0 (w.1.toNat % 2 ^ 57) w.2 rd wr).map (fun s => (s, w.1)))
      match hit with
      | some (s, va) => (s, .inr (.fault 23 va))
      | none =>
        match privChecks r a rd wr kind words s with
        | (s, .inl ps) => (s, .inl (.priv ps))
        | (s, .inr x) => (s, .inr x)
  | sp =>
    match localAt r.core g.team t (sp == .gang) an with
    | none => (s, .inr (.fault 4 a))
    | some p =>
      if an % n ≠ 0 then (s, .inr (.fault 5 a))
      else
        match (if p.own then watchedAs s r slot 1 p.off n line rd wr else none) with
        | some s => (s, .inr (.fault 23 a))
        | none => (s, .inl (.loc p))

/-! ## Accesses -/

/-- The record of a strand's access. -/
def accOf (s : State) (r : FragRef) (i : Instr) (f : FmtM) (slot : Nat) (kind : AccKind) (a : W64) (size pos data : Nat) :
    Acc × State :=
  let (id, s) := s.fresh
  let g := s.group r.core r.hslot
  ({ kind := kind, core := r.core, hslot := r.hslot, sid := sidOf g slot, slot := slot, uni := f.u, addr := a,
     pc := (s.frag r).pc, word := word0 i, size := size, pos := pos, data := data,
     asid := (s.team r.core g.team).ctx.asid, team := g.team, noalloc := f.na, prio := f.prio.toNat, aid := id,
     ea := a, esize := size, edata := data, epos := pos }, s)

/-- Keep an acquire with the fragment (R230). -/
def noteAcquire (s : State) (r : FragRef) (order : BitVec 2) (aid : Nat) : State :=
  if order.getLsbD 0 then s.modFrag r (fun f => { f with acquires := f.acquires ++ [aid] }) else s

/-- The registers of R141 from d onward. -/
def dataRegs (f : FmtM) : List Nat :=
  let n := if f.u then (memBytes f + 7) / 8 else memBytes f / 4
  (List.range (Nat.max 1 n)).map (f.d.toNat + ·)

/-- The first register as a fill names it: a stack position, or a k register. -/
def regPos (s : State) (r : FragRef) (u : Bool) (n : Nat) : Nat := if u then n else (s.frag r).wbase + n

def destCheck (s : State) (r : FragRef) (slot : Nat) (u : Bool) (ns : List Nat) : Option Stop :=
  if u then checkKDest s r slot ns [] else checkVDest s r slot ns

def destMark (s : State) (r : FragRef) (slot : Nat) (u : Bool) (ns : List Nat) : State :=
  if u then markK s r ns else markV s r slot ns

def dataSrcs (f : FmtM) (ns : List Nat) : List SrcReg := ns.map (fun n => { isK := f.u, num := n, trap := f.ed })

/-- Registers as one number, the lowest register first (R143). -/
def joinWords (w : Nat) : List W64 → Nat
  | [] => 0
  | x :: xs => x.toNat % 2 ^ w + 2 ^ w * joinWords w xs

/-- Whether an access would add one more to those outstanding, or a missing sector to its request (R151, R156). -/
def roomFor (s : State) (a : Acc) (far : Bool) (entries : Nat) : Option Stop :=
  if far && 255 ≤ outstandingOf s a.core a.hslot then some (.park .outstanding)
  else if entries ≠ 0 && 256 < missCount s a.core + entries then some (.park .missEntry)
  else none

/-- What a load of a global page needs. -/
def loadRoom (s : State) (r : FragRef) (a : Acc) (leaf : Option PageLeaf) : Option Stop :=
  match readPlan s (s.frag r).kept.opened a leaf with
  | .copy _ => none
  | .own | .join _ => roomFor s a true 0
  | .l2 _ | .send => roomFor s a true 1

/-- What a store needs: an entry where no open request takes it (R150). -/
def storeRoom (s : State) (r : FragRef) (a : Acc) : Option Stop :=
  let joins := s.posted.any (fun p => (s.frag r).kept.opened.contains p.id && p.line == vaOf a / 256 && p.asid == a.asid
    && p.stage == .walk)
  roomFor s a true (if joins then 0 else 1)

/-- Whether a private access takes a miss-status entry of its own: no entry is outstanding, and the L1 does not hold its sector
(R235). -/
def laneMisses (s : State) (a : Acc) : Bool := (joinable s a true).isNone && (laneLine s a).isNone

/-- What the parts of a private access on local pages need (R235): an entry for each part that misses. -/
def privRoom (s : State) (r : FragRef) (store : Bool) (parts : List (Acc × Option PageLeaf)) : Option Stop :=
  let away (p : Acc × Option PageLeaf) : Bool := match p.2 with
    | some l => l.attr != 0
    | none => false
  let misses := (parts.filter (fun p => !away p && laneMisses s p.1)).length
  parts.findSome? (fun p =>
    if away p then (if store then storeRoom s r p.1 else loadRoom s r p.1 p.2)
    else if (joinable s p.1 true).isSome then roomFor s p.1 true 0
    else if (laneLine s p.1).isSome then none
    else roomFor s p.1 true misses)

/-- Whether the L1 held every granule that the access touched, so that its tags were compared at issue
(R190). -/
def tagsSeen (s : State) (a : Acc) (grans : List Nat) : Bool := grans.all (fun i => (l1Tag s a.core a.asid (vaOf a) i).isSome)

/-- The parts of a private access as accesses of their own; `w` counts the bytes of a register. -/
def privAccs (a : Acc) (parts : List (W64 × Nat × Option PageLeaf)) : List (Acc × Option PageLeaf) :=
  match parts with
  | [(v0, n0, l0), (v1, n1, l1)] =>
    let step := if a.uni then 0 else 1
    [({ a with addr := v0, size := n0, data := a.data % 2 ^ 32, part := 1 }, l0),
     ({ a with addr := v1, size := n1, data := a.data / 2 ^ 32, part := 2, pos := a.pos + step }, l1)]
  | _ => parts.map (fun p => ({ a with addr := p.1, size := p.2.1 }, p.2.2))

/-- Issue one part of a private load or store: through the L1 on a local page, else as the page's link serves
it (R181, R235). -/
def issuePriv (r : FragRef) (store : Bool) (pkr : W64) (s : State) (p : Acc × Option PageLeaf) : State :=
  let (a, l) := ({ p.1 with lane := true }, p.2)
  let a := { a with tagDone := tagsSeen s a (granulesOf a) }
  let away : Bool := match l with
    | some l => l.attr != 0
    | none => false
  if store then
    (if away then postStore s r .store a (storeBytes a) false pkr else issueLaneStore s a l pkr l.isNone)
  else if away then passRead s r a l pkr
  else issueLaneRead s a l pkr l.isNone

/-- An access to another core's part of the gang-local view sets out in a cycle; it performs 4 cycles later (R226). -/
def gangSendAt (cycle : Nat) (s : State) (r : FragRef) (a : Acc) (p : LocalAt) (what : GangWhat) : State :=
  { s with gang := s.gang ++ [{ acc := a, core := p.core, team := p.team, off := p.off, at_ := cycle + 4, what := what,
                                clk := (s.group r.core r.hslot).lclk, entry := r.entry, m := (s.frag r).m }] }

def gangSend (s : State) (r : FragRef) (a : Acc) (p : LocalAt) (what : GangWhat) : State :=
  gangSendAt (laneNow s r) s r a p what

/-- Whether a place in local memory is another core's (R226). -/
def LocalAt.far (p : LocalAt) (r : FragRef) : Bool := p.core != r.core

/-- The latency of a load of local memory, and of another core's part of the gang-local view (R9, R226). -/
def localLatency (far : Bool) : Nat := if far then 28 else 24

/-- The words that a local load fills from the bytes at its place. -/
def localWords (a : Acc) (bs : List Byte) : List W64 :=
  match a.kind with
  | .line => [.ofNat 64 (bytesVal ((bs.drop (4 * a.slot)).take 4)), .ofNat 64 (bytesVal ((bs.drop (128 + 4 * a.slot)).take 4))]
  | _ => chunkWords (if a.uni then 8 else 4) 8 bs

/-- The granules of local memory that an access touches: of a line, those of its slot's two words. -/
def localTouched (a : Acc) (off : Nat) : List Nat :=
  match a.kind with
  | .line | .sline => granules (off + 4 * a.slot) 4 ++ granules (off + 128 + 4 * a.slot) 4
  | _ => granules off a.size

/-- Whether what an access reads is poisoned (R343). -/
def localPoisoned (t : Team) (a : Acc) (off : Nat) : Bool := (localTouched a off).any t.lpoison.contains

/-- Fill registers from local bytes, or kill on poison (R143, R343). -/
def localLoad (s : State) (a : Acc) (c ti off : Nat) : StrandRes :=
  let t := s.team c ti
  if localPoisoned t a off then .stop s .kill
  else .ok (addFill s a (localWords a (localBytes t off a.size)) false false)

/-- The granules that the words of a STLINE's slots cover whole: four slots in a row, in either half of the line (R144). -/
def coveredGranules (slots : List Nat) (off : Nat) : List Nat :=
  let whole (i : Nat) : Bool := (List.range 4).all (fun k => slots.contains (4 * i + k))
  ((List.range 8).filter whole).map (off / 16 + ·) ++ ((List.range 8).filter whole).map (off / 16 + 8 + ·)

/-- Granules written whole lose their poison (R343). -/
def cleanGranules (s : State) (c ti : Nat) (grans : List Nat) : State :=
  s.modTeam c ti (fun t => { t with lpoison := t.lpoison.filter (fun g => !grans.contains g) })

/-- Write an access's bytes to local memory. -/
def localStore (s : State) (a : Acc) (c ti off : Nat) (fill : Bool) : State :=
  match a.kind with
  | .sline =>
    let s := localWrite s c ti (off + 4 * a.slot) (wordBytes 4 (a.data % 2 ^ 32)) fill
    localWrite s c ti (off + 4 * (32 + a.slot)) (wordBytes 4 (a.data / 2 ^ 32)) fill
  | _ => localWrite s c ti off (wordBytes a.size a.data) fill

/-! ## LD, ST, LDF, STF (R143, R145) -/

/-- One strand of LD or LDF; `fe` honours the full/empty granules and `clr` clears them. -/
def loadBody (i : Instr) (f : FmtM) (fe clr : Bool) (r : FragRef) (s : State) (slot : Nat) : StrandRes :=
  let s := awaitSources s r slot (addrSrcs f true)
  match formAddr s r slot f true [] with
  | .inr x => .stop s x
  | .inl (a, s) =>
    let n := memBytes f
    let grans := lineGranules (a.toNat % 2 ^ 57) n
    match checkAccess s r slot f.space a n true false .load grans with
    | (s, .inr x) => .stop s x
    | (s, .inl tg) =>
      let ns := dataRegs f
      match destCheck s r slot f.u ns with
      | some x => .stop s x
      | none =>
        let (acc, s) := accOf s r i f slot .load a n (regPos s r f.u f.d.toNat) 0
        let pkr := passPkr s r
        let marked (s : State) : State := noteAcquire (destMark s r slot f.u ns) r f.order acc.aid
        match tg with
        | .loc p =>
          let gs := granules p.off n
          let acc := { acc with due := laneNow s r + localLatency (p.far r) }
          if p.far r then
            -- the lane holds the pass of an LDF until it has performed
            (if fe then .stop (noteAcquire (gangSend s r acc p (.ldf clr)) r f.order acc.aid) (.park (.remote false))
              else .ok (gangSend (marked s) r acc p .read))
          else if fe && !localFull (s.team p.core p.team) gs then .stop s (.park (.granules p.core p.team gs))
          else
            match localLoad (marked s) acc p.core p.team p.off with
            | .stop s x => .stop s x
            | .ok s =>
              if clr then
                .ok ((switchRegion s r i).modTeam p.core p.team (fun t =>
                  { t with full := t.full.filter (fun g => !gs.contains g) }))
              else .ok s
        | .glob l =>
          let acc := { acc with tagDone := tagsSeen s acc grans }
          match loadRoom s r acc l with
          | some x => .stop s x
          | none => .ok (passRead (marked s) r acc l pkr)
        | .priv ps =>
          match privRoom s r false (privAccs acc ps) with
          | some x => .stop s x
          | none => .ok ((privAccs acc ps).foldl (issuePriv r false pkr) (marked s))

/-- One strand of ST or STF; `fe` sets the granules full. -/
def storeBody (i : Instr) (f : FmtM) (fe : Bool) (r : FragRef) (s : State) (slot : Nat) : StrandRes :=
  let srcs := dataSrcs f (dataRegs f)
  let s := awaitSources s r slot (addrSrcs f true ++ srcs)
  match formAddr s r slot f true srcs with
  | .inr x => .stop s x
  | .inl (a, s) =>
    let n := memBytes f
    let grans := lineGranules (a.toNat % 2 ^ 57) n
    match checkAccess s r slot f.space a n false true .store grans with
    | (s, .inr x) => .stop s x
    | (s, .inl tg) =>
      match checkSources s r slot srcs with
      | some x => .stop s x
      | none =>
        let (vs, s) := readAll s r slot srcs
        let data := joinWords (if f.u then 64 else 32) vs % 2 ^ (8 * n)
        let (acc, s) := accOf s r i f slot .store a n (regPos s r f.u f.d.toNat) data
        let pkr := passPkr s r
        match tg with
        | .loc p => .ok (if p.far r then gangSend s r acc p (.write fe) else localStore s acc p.core p.team p.off fe)
        | .glob l =>
          match storeRoom s r acc with
          | some x => .stop s x
          | none =>
            let acc := { acc with tagDone := tagsSeen s acc grans }
            .ok (postStore s r .store acc (storeBytes acc) l.isNone pkr)
        | .priv ps =>
          match privRoom s r true (privAccs acc ps) with
          | some x => .stop s x
          | none => .ok ((privAccs acc ps).foldl (issuePriv r true pkr) s)

/-- A memory instruction of strand or uniform form behind its gates (R229, R230), with the charge of each execution. -/
def memPassAt (i : Instr) (w : Nat) (f : FmtM) (body : FragRef → State → Nat → StrandRes) (s : State) :
    Host.Outcome State Fault Refusal :=
  .next (acquireGate s (releaseGate i f.order f.obs (hasActive f.u f.guard f.gn) (fun s =>
    if f.u then uniformPass i f.guard f.gn w body (fun s r => advance s r i) s
    else strandPass i f.guard f.gn w body (fun s r => advance s r i) s)))

def memPass (i : Instr) (op : Nat) (f : FmtM) (body : FragRef → State → Nat → StrandRes) (s : State) :
    Host.Outcome State Fault Refusal :=
  memPassAt i (weightOf op) f body s

def execLd (f : FmtM) (s : State) : Host.Outcome State Fault Refusal :=
  memPass (.ld f) 0x80 f (loadBody (.ld f) f false false) s

def execSt (f : FmtM) (s : State) : Host.Outcome State Fault Refusal :=
  memPass (.st f) 0x81 f (storeBody (.st f) f false) s

/-- LDF; priority 1 is the clear action (R141, R145). -/
def execLdf (f : FmtM) (s : State) : Host.Outcome State Fault Refusal :=
  let g := { f with prio := 0 }
  memPass (.ldf f) 0x84 f (loadBody (.ldf f) g true (f.prio == 1)) s

def execStf (f : FmtM) (s : State) : Host.Outcome State Fault Refusal :=
  memPass (.stf f) 0x85 f (storeBody (.stf f) f true) s

/-! ## LDLINE, STLINE (R144) -/

/-- The granules of the active slots' words in the line. -/
def slotGranules (slots : List Nat) : List Nat :=
  (List.range 8).filter (fun i => slots.any (fun j => j / 8 == i || 4 + j / 8 == i))

/-- The address of the line, formed and checked once at the first active strand and kept with the pass, with the granules whose
tags the L1 let it compare (R190). Where its page has been removed since, a pass that resumes checks it again (R194, log entry 59). -/
def lineAddr (s : State) (r : FragRef) (slot : Nat) (f : FmtM) (store : Bool) (more : List SrcReg) : State × (W64 ⊕ Stop) :=
  let kind : AccKind := if store then .sline else .line
  let active := activeSlots s r f.guard f.gn slot
  let asid := (s.teamOf r.core r.hslot).ctx.asid
  let seen (s : State) (a : W64) (grans : List Nat) : List Nat :=
    grans.filter (fun i => (l1Tag s r.core asid (a.toNat % 2 ^ 57) i).isSome)
  match (s.frag r).kept.addr with
  | some a =>
    if f.space != .global || !(s.frag r).kept.stale then (s, .inl a)
    else
      let grans := slotGranules (active ++ (s.frag r).kept.done.keys)
      match pageCheck s r a a (!store) store kind grans with
      | (s, .inr x) => (s, .inr x)
      | (s, .inl _) =>
        (s.modFrag r (fun q => { q with kept := { q.kept with stale := false, seen := seen s a grans } }), .inl a)
  | none =>
    let s := awaitSources s r slot (addrSrcs f true ++ more)
    match formAddr s r slot f true more with
    | .inr x => (s, .inr x)
    | .inl (a, s) =>
      let grans := slotGranules active
      match checkAccess s r slot f.space a 256 (!store) store kind grans active with
      | (s, .inr x) => (s, .inr x)
      | (s, .inl _) => (s.modFrag r (fun q => { q with kept := { q.kept with addr := some a, seen := seen s a grans } }), .inl a)

/-- The page of a checked line: an entry that has left the TLB since is treated as absent, so that the slice
checks the access. -/
def lineLeaf (s : State) (r : FragRef) (a : W64) : Option PageLeaf :=
  ((tlbFind s r.core (s.teamOf r.core r.hslot).ctx.asid (a.toNat % 2 ^ 57)).map TlbEntry.leaf).join

def lineLoc (s : State) (r : FragRef) (f : FmtM) (a : W64) : Option LocalAt :=
  let g := s.group r.core r.hslot
  localAt r.core g.team (s.team r.core g.team) (f.space == .gang) a.toNat

def keepDone (s : State) (r : FragRef) (slot : Nat) (ws : List W64) : State :=
  s.modFrag r (fun q => { q with kept := { q.kept with done := q.kept.done.set slot 1,
                                                       words := q.kept.words.set slot ws } })

/-- The sectors of a line that the words of slots lie in. -/
def slotSectors (slots : List Nat) : List Nat :=
  (List.range 4).filter (fun i => slots.any (fun j => j / 16 == i || 2 + j / 16 == i))

/-- The miss-status entries that the line's request takes for the slots so far, none where the L1 holds their words (R151). -/
def lineNeed (s : State) (r : FragRef) (a : W64) (slots : List Nat) : Nat × Bool :=
  let asid := (s.teamOf r.core r.hslot).ctx.asid
  let line := a.toNat % 2 ^ 57 / 256
  let secs := slotSectors slots
  let held := match findLine (s.core (l1Core s r.core line)).l1 asid line with
    | some l => lineLive s.gt l && secs.all l.sectors.getLsbD
    | none => false
  (lineEntries s r.core asid line secs, held)

def ldlineBody (f : FmtM) (r : FragRef) (s : State) (slot : Nat) : StrandRes :=
  match lineAddr s r slot f false [] with
  | (s, .inr x) => .stop s x
  | (s, .inl a) =>
    let ns := [f.d.toNat, f.d.toNat + 1]
    match checkVDest s r slot ns with
    | some x => .stop s x
    | none =>
      let done := (s.frag r).kept.done.keys
      let (need, held) := lineNeed s r a (slot :: done)
      if f.space == .global && !held && 255 ≤ outstandingOf s r.core r.hslot + done.length then .stop s (.park .outstanding)
      else if f.space == .global && 256 < missCount s r.core + need then .stop s (.park .missEntry)
      else .ok (keepDone (markV s r slot ns) r slot [])

/-- The end of an LDLINE pass: one request for the line carries every strand of the pass. -/
def ldlineEnd (i : Instr) (f : FmtM) (s : State) (r : FragRef) : State :=
  let k := (s.frag r).kept
  match k.addr with
  | none => advance s r i
  | some a =>
    let pkr := passPkr s r
    let pos := regPos s r false f.d.toNat
    let (need, _) := lineNeed s r a k.done.keys
    let one (s : State) (slot : Nat) : State :=
      let (acc, s) := accOf s r i f slot .line a 256 pos 0
      let s := noteAcquire s r f.order acc.aid
      match f.space, lineLoc s r f a with
      | .global, _ => passRead s r { acc with tagDone := (granulesOf acc).all k.seen.contains } (lineLeaf s r a) pkr
      | _, some p =>
        -- it performs with the last active strand
        let acc := { acc with due := laneNow s r - 1 + localLatency (p.far r) }
        if p.far r then gangSendAt (laneNow s r - 1) s r acc p .read
        else addFill s acc (localWords acc (localBytes (s.team p.core p.team) p.off 256)) false false
      | _, none => s
    let s := k.done.keys.foldl one s
    let opened := (s.frag r).kept.opened
    let s := { s with fetches := s.fetches.map (fun (x : Fetch) => if opened.contains x.id then { x with entries := need } else x) }
    let bad : Bool := match f.space, lineLoc s r f a with
      | .global, _ => false
      | _, some p => !p.far r && k.done.keys.any (fun j =>
          (granules (p.off + 4 * j) 4 ++ granules (p.off + 128 + 4 * j) 4).any (s.team p.core p.team).lpoison.contains)
      | _, none => false
    if bad then killGroup s r.core r.hslot 0 else advance s r i

def execLdline (f : FmtM) (s : State) : Host.Outcome State Fault Refusal :=
  .next (acquireGate s (releaseGate (.ldline f) f.order f.obs (hasActive false f.guard f.gn) (fun s =>
    strandPass (.ldline f) f.guard f.gn (weightOf 0x82) (ldlineBody f) (ldlineEnd (.ldline f) f) s)))

def stlineBody (f : FmtM) (r : FragRef) (s : State) (slot : Nat) : StrandRes :=
  let srcs := dataSrcs f [f.d.toNat, f.d.toNat + 1]
  match lineAddr s r slot f true srcs with
  | (s, .inr x) => .stop s x
  | (s, .inl _) =>
    match checkSources s r slot srcs with
    | some x => .stop s x
    | none =>
      let n := outstandingOf s r.core r.hslot + (s.frag r).kept.done.length
      if f.space == .global && 255 ≤ n then .stop s (.park .outstanding)
      else if f.space == .global && 256 ≤ missCount s r.core then .stop s (.park .missEntry)
      else
        let (vs, s) := readAll s r slot srcs
        .ok (keepDone s r slot vs)

/-- The end of a STLINE pass: one request writes the words gathered. -/
def stlineEnd (i : Instr) (f : FmtM) (s : State) (r : FragRef) : State :=
  let k := (s.frag r).kept
  match k.addr with
  | none => advance s r i
  | some a =>
    let pkr := passPkr s r
    let pos := regPos s r false f.d.toNat
    let one (s : State) (w : Nat × List W64) : State :=
      let (acc, s) := accOf s r i f w.1 .sline a 256 pos (joinWords 32 w.2)
      match f.space, lineLoc s r f a with
      | .global, _ =>
        let acc := { acc with tagDone := (granulesOf acc).all k.seen.contains }
        postStore s r .store acc (slineBytes acc) (lineLeaf s r a).isNone pkr
      | _, some p =>
        if p.far r then gangSendAt (laneNow s r - 1) s r acc p (.write false) else localStore s acc p.core p.team p.off false
      | _, none => s
    let s := k.words.foldl one s
    let s := match f.space, lineLoc s r f a with
      | .global, _ | _, none => s
      | _, some p =>
        let gs := coveredGranules k.words.keys p.off
        if !p.far r then cleanGranules s p.core p.team gs
        else
          let (acc, s) := accOf s r i f 0 .sline a 256 pos 0
          gangSendAt (laneNow s r - 1) s r acc p (.clean gs)
    advance s r i

def execStline (f : FmtM) (s : State) : Host.Outcome State Fault Refusal :=
  .next (acquireGate s (releaseGate (.stline f) f.order f.obs (hasActive false f.guard f.gn) (fun s =>
    strandPass (.stline f) f.guard f.gn (weightOf 0x83) (stlineBody f) (stlineEnd (.stline f) f) s)))

/-! ## PREF (R146) -/

/-- The page of a prefetch, when none of the checks of R138, R139, R148 would fault and the attribute TLB holds it; the entry has
been used (R187). Of the line's granules only that of the address is compared (log entry 57). -/
def prefLeaf (s : State) (r : FragRef) (a : W64) : State × Option PageLeaf :=
  let g := s.group r.core r.hslot
  let asid := (s.team r.core g.team).ctx.asid
  let v := a.toNat % 2 ^ 57
  if 2 ^ 61 ≤ a.toNat then (s, none)
  else
    match tlbFind s r.core asid v with
    | none => (s, none)
    | some e =>
      (tlbTouch s r.core e,
       match e.leaf with
       | some l =>
         let differs := match l1Tag s r.core asid v (v % 256 / 32) with
           | some t => l.tagc && t != .ofNat 4 (a.toNat / 2 ^ 57)
           | none => false
         if l.rd && !keyDenies (passPkr s r) l.key false && l.attr == 0 && !differs then some l else none
       | none => none)

/-- Prefetch one sector: nothing where a copy has it or where no miss-status entry is free; a request that is outstanding takes
the hints (R146, R151). -/
def prefSector (r : FragRef) (f : FmtM) (asid : Nat) (a : W64) (tagc : Bool) (s : State) (i : Nat) : State :=
  let line := a.toNat % 2 ^ 57 / 256
  let live (l : Option CacheLine) : Option CacheLine := l.filter (fun l => lineLive s.gt l && l.sectors.getLsbD i)
  let l2 := live (findLine (s.die (dieOf r.core)).l2 asid line)
  if (live (findLine (s.core (l1Core s r.core line)).l1 asid line)).isSome || (entryOf s r.core asid line i true).isSome then s
  else
    match entryOf s r.core asid line i false with
    | some x => { s with fetches := s.fetches.map (fun (y : Fetch) => if y.id == x.id then joinHints y f.na f.prio.toNat else y) }
    | none =>
      if f.na && l2.isSome then s
      else if 256 ≤ missCount s r.core then s
      else
        let s := if l2.isSome then s else bumpDie s (dieOf r.core) 1 1
        (openFetch s { id := 0, core := r.core, asid := asid, line := line, sector := i, noalloc := f.na, prio := f.prio.toNat,
                       prefetch := true, tagc := tagc, shown := a.toNat } l2).2

/-- One strand of PREF (R146); it never parks, so with an empty base or index it does nothing (log entry 14). -/
def prefBody (f : FmtM) (r : FragRef) (s : State) (slot : Nat) : StrandRes :=
  let s := awaitSources s r slot (addrSrcs f true)
  match formAddr s r slot f true [] with
  | .inr .kill => .stop s .kill
  | .inr _ => .ok s
  | .inl (a, s) =>
    match prefLeaf s r a with
    | (s, none) => .ok s
    | (s, some l) =>
      let asid := (s.teamOf r.core r.hslot).ctx.asid
      .ok ((List.range 4).foldl (prefSector r f asid a l.tagc) s)

def execPref (f : FmtM) (s : State) : Host.Outcome State Fault Refusal :=
  memPass (.pref f) 0x86 f (prefBody f) s

/-! ## TAGST, TAGLD (R147) -/

def tagstBody (i : Instr) (f : FmtM) (r : FragRef) (s : State) (slot : Nat) : StrandRes :=
  let s := awaitSources s r slot (addrSrcs f true)
  match formAddr s r slot f true [] with
  | .inr x => .stop s x
  | .inl (a, s) =>
    match checkAccess s r slot .global a 32 false true .tagst [] with
    | (s, .inr x) => .stop s x
    | (s, .inl tg) =>
      let (acc, s) := accOf s r i f slot .tagst a 32 0 0
      if 255 ≤ outstandingOf s r.core r.hslot then .stop s (.park .outstanding)
      else if 256 ≤ missCount s r.core then .stop s (.park .missEntry)
      else
        let replay : Bool := match tg with
          | .glob none => true
          | _ => false
        .ok (postSingle s .tagst acc [] replay (passPkr s r) none)

def execTagst (f : FmtM) (s : State) : Host.Outcome State Fault Refusal :=
  memPass (.tagst f) 0x87 f (tagstBody (.tagst f) f) s

def tagldBody (i : Instr) (f : FmtM) (r : FragRef) (s : State) (slot : Nat) : StrandRes :=
  let s := awaitSources s r slot (addrSrcs f true)
  match formAddr s r slot f true [] with
  | .inr x => .stop s x
  | .inl (a, s) =>
    match checkAccess s r slot .global a 32 true false .tagld [] with
    | (s, .inr x) => .stop s x
    | (s, .inl tg) =>
      match destCheck s r slot f.u [f.d.toNat] with
      | some x => .stop s x
      | none =>
        let (acc, s) := accOf s r i f slot .tagld a 32 (regPos s r f.u f.d.toNat) 0
        let leaf := match tg with
          | .glob l => l
          | _ => none
        match loadRoom s r acc leaf with
        | some x => .stop s x
        | none => .ok (passRead (destMark s r slot f.u [f.d.toNat]) r acc leaf (passPkr s r))

def execTagld (f : FmtM) (s : State) : Host.Outcome State Fault Refusal :=
  memPass (.tagld f) 0x88 f (tagldBody (.tagld f) f) s

end Sys2Proof.Machine
end

