-- ==== Sys2Proof/Machine/Atomic.lean ====
section
/-! DEFINITION. The ten atomics (R197-R203) and the deque operations (R204-R207) up to their executing point:
operands, checks, the request, and the local and gang-local atomics, which perform at once. -/

namespace Sys2Proof.Machine

/-- The nr bit and the sgn bit of an atomic (R197). -/
def noResult (f : FmtM) : Bool := f.prio.getLsbD 0
def sgnBit (f : FmtM) : Bool := f.prio.getLsbD 1

/-- How an atomic appears in its access record (R199). -/
def atomicKind (op : Nat) (f : FmtM) : AccKind :=
  .atomic op (sgnBit f && op != 0x98) (sgnBit f && op == 0x98) (noResult f)

/-- Registers of one operand (R198). -/
def operandRegs (f : FmtM) : Nat := if f.u then 1 else memBytes f / 4

/-- The pass of an atomic with nr = 1 to a host or peer page is an x command (R220): its identity, kept with
the pass, or the park at 255. -/
def remotePass (s : State) (r : FragRef) : (Nat × State) ⊕ Stop :=
  match (s.frag r).kept.acc with
  | some id => .inl (id.toNat, s)
  | none =>
    if 255 ≤ counterOf (s.group r.core r.hslot) 2 then .inr (.park (.counterFull 2))
    else
      let (id, s) := s.fresh
      let s := raiseCounter s r.core r.hslot 2 id
      .inl (id, s.modFrag r (fun q => { q with kept := { q.kept with acc := some (id : Int) } }))

/-- The pass of an x command is complete when every request of it has been acknowledged (R220). -/
def remoteDone (s : State) (c h id : Nat) : State :=
  let open_ := s.posted.any (fun p => p.xid == some id)
    || (s.group c h).frags.any (fun p => p.2.kept.acc == some (id : Int))
  if open_ then s else lowerCounter s c h 2 id 0

/-- A local atomic in local memory (R200). -/
def localAtomic (s : State) (c ti off : Nat) (acc : Acc) : StrandRes :=
  let t := s.team c ti
  if localBad t off acc.size then .stop s .kill
  else
    let old := bytesVal (localBytes t off acc.size)
    let new := match acc.kind with
      | .atomic op sg h2 _ => atomicNew op sg h2 (8 * acc.size) old acc.data
      | _ => old
    .ok (atomicResult (localWrite s c ti off (wordBytes acc.size new) false) acc old false)

/-- One strand of an atomic. -/
def atomicBody (i : Instr) (op : Nat) (f : FmtM) (r : FragRef) (s : State) (slot : Nat) : StrandRes :=
  let k := operandRegs f
  let srcs := dataSrcs f ((List.range (if op = 0x97 then 2 * k else k)).map (f.d.toNat + ·))
  let s := awaitSources s r slot (addrSrcs f true ++ srcs)
  match formAddr s r slot f true srcs with
  | .inr x => .stop s x
  | .inl (a, s) =>
    let n := memBytes f
    let kind := atomicKind op f
    let grans := lineGranules (a.toNat % 2 ^ 57) n
    match checkAccess s r slot f.space a n true true kind grans with
    | (s, .inr x) => .stop s x
    | (s, .inl tg) =>
      let outs := if noResult f then [] else (List.range k).map (f.d.toNat + ·)
      match (checkSources s r slot srcs).orElse (fun _ => destCheck s r slot f.u outs) with
      | some x => .stop s x
      | none =>
        let (vs, s) := readAll s r slot srcs
        let data := joinWords (if f.u then 8 * n else 32) vs
        let (acc, s) := accOf s r i f slot kind a n (regPos s r f.u f.d.toNat) data
        let issue (s : State) : State := noteAcquire (destMark (switchRegion s r i) r slot f.u outs) r f.order acc.aid
        match tg with
        | .loc p =>
          let acc := { acc with due := laneNow s r + localLatency (p.far r) }
          if p.far r then .ok (gangSend (issue s) r acc p .atomic) else localAtomic (issue s) p.core p.team p.off acc
        | .priv _ => .ok s
        | .glob l =>
          if 255 ≤ outstandingOf s r.core r.hslot then .stop s (.park .outstanding)
          else
            let acc := { acc with tagDone := tagsSeen s acc grans }
            let pkr := passPkr s r
            let remote : Bool := match l with
              | some l => l.attr != 0
              | none => false
            if remote && noResult f then
              match remotePass s r with
              | .inr x => .stop s x
              | .inl (id, s) => .ok (postSingle (issue s) .atomic acc [] l.isNone pkr (some id))
            else .ok (postSingle (issue s) .atomic acc [] l.isNone pkr none)

/-- The end of an atomic's pass. -/
def atomicEnd (i : Instr) (s : State) (r : FragRef) : State :=
  match (s.frag r).kept.acc with
  | none => advance s r i
  | some id =>
    let s := s.modFrag r (fun q => { q with kept := {} })
    advance (remoteDone s r.core r.hslot id.toNat) r i

/-- A strand of an atomic of i64, n64 or h2 is charged twice (R198, R304). -/
def atomicFactor (op : Nat) (f : FmtM) : Nat := if !f.u && (memBytes f == 8 || (op == 0x98 && sgnBit f)) then 2 else 1

def atomicPass (i : Instr) (op : Nat) (f : FmtM) (body : FragRef → State → Nat → StrandRes) (s : State) :
    Host.Outcome State Fault Refusal :=
  let w := weightOf op * atomicFactor op f
  .next (acquireGate s (releaseGate i f.order f.obs (hasActive f.u f.guard f.gn) (fun s =>
    if f.u then uniformPass i f.guard f.gn w body (atomicEnd i) s
    else strandPass i f.guard f.gn w body (atomicEnd i) s)))

def execAadd (f : FmtM) (s : State) : Host.Outcome State Fault Refusal :=
  atomicPass (.aadd f) 0x90 f (atomicBody (.aadd f) 0x90 f) s
def execAmin (f : FmtM) (s : State) : Host.Outcome State Fault Refusal :=
  atomicPass (.amin f) 0x91 f (atomicBody (.amin f) 0x91 f) s
def execAmax (f : FmtM) (s : State) : Host.Outcome State Fault Refusal :=
  atomicPass (.amax f) 0x92 f (atomicBody (.amax f) 0x92 f) s
def execAand (f : FmtM) (s : State) : Host.Outcome State Fault Refusal :=
  atomicPass (.aand f) 0x93 f (atomicBody (.aand f) 0x93 f) s
def execAor (f : FmtM) (s : State) : Host.Outcome State Fault Refusal :=
  atomicPass (.aor f) 0x94 f (atomicBody (.aor f) 0x94 f) s
def execAxor (f : FmtM) (s : State) : Host.Outcome State Fault Refusal :=
  atomicPass (.axor f) 0x95 f (atomicBody (.axor f) 0x95 f) s
def execAswp (f : FmtM) (s : State) : Host.Outcome State Fault Refusal :=
  atomicPass (.aswp f) 0x96 f (atomicBody (.aswp f) 0x96 f) s
def execAcas (f : FmtM) (s : State) : Host.Outcome State Fault Refusal :=
  atomicPass (.acas f) 0x97 f (atomicBody (.acas f) 0x97 f) s
def execAfadd (f : FmtM) (s : State) : Host.Outcome State Fault Refusal :=
  atomicPass (.afadd f) 0x98 f (atomicBody (.afadd f) 0x98 f) s
def execAinc (f : FmtM) (s : State) : Host.Outcome State Fault Refusal :=
  atomicPass (.ainc f) 0x99 f (atomicBody (.ainc f) 0x99 f) s

/-! ## Deques (R205, R206) -/

/-- One strand of a deque operation: the value in d:d+1 or K(d), the status in the register after it. -/
def dequeBody (i : Instr) (kind : AccKind) (f : FmtM) (r : FragRef) (s : State) (slot : Nat) : StrandRes :=
  let k := if f.u then 1 else 2
  let vals := (List.range k).map (f.d.toNat + ·)
  let push := kind == .dqpush
  let srcs := if push then dataSrcs f vals else []
  let s := awaitSources s r slot (addrSrcs f false ++ srcs)
  match formAddr s r slot f false srcs with
  | .inr x => .stop s x
  | .inl (a, s) =>
    let grans := lineGranules (a.toNat % 2 ^ 57) 64
    match checkAccess s r slot .global a 64 true true kind grans with
    | (s, .inr x) => .stop s x
    | (s, .inl tg) =>
      let outs := (if push then [] else vals) ++ [f.d.toNat + k]
      match (checkSources s r slot srcs).orElse (fun _ => destCheck s r slot f.u outs) with
      | some x => .stop s x
      | none =>
        if 255 ≤ outstandingOf s r.core r.hslot then .stop s (.park .outstanding)
        else
          let (vs, s) := readAll s r slot srcs
          let (acc, s) := accOf s r i f slot kind a 64 (regPos s r f.u f.d.toNat) (joinWords (if f.u then 64 else 32) vs)
          let acc := { acc with esize := 8, tagDone := tagsSeen s acc grans }
          let replay : Bool := match tg with
            | .glob none => true
            | _ => false
          let s := noteAcquire (destMark (switchRegion s r i) r slot f.u outs) r f.order acc.aid
          .ok (postSingle s .deque acc [] replay (passPkr s r) none)

/-- A strand of a deque operation is charged twice, for its type is i64 or n64 (R205, R304). -/
def dequePass (i : Instr) (op : Nat) (kind : AccKind) (f : FmtM) (s : State) : Host.Outcome State Fault Refusal :=
  memPassAt i (weightOf op * if f.u then 1 else 2) f (dequeBody i kind f) s

def execDqpush (f : FmtM) (s : State) : Host.Outcome State Fault Refusal :=
  dequePass (.dqpush f) 0x9A .dqpush f s
def execDqpop (f : FmtM) (s : State) : Host.Outcome State Fault Refusal :=
  dequePass (.dqpop f) 0x9B .dqpop f s
def execDqsteal (f : FmtM) (s : State) : Host.Outcome State Fault Refusal :=
  dequePass (.dqsteal f) 0x9C .dqsteal f s

end Sys2Proof.Machine
end

