-- ==== Sys2Proof/Machine/Sync.lean ====
section
/-! DEFINITION. FENCE (R219), WAITC (R221), the team barriers (R208, R209), the clasps (R210-R214) and QTRY
(R217). -/

namespace Sys2Proof.Machine

/-- Block the fragment at its instruction (R52): the pass has run and the instruction is complete when the wait
ends. -/
def blockOn (s : State) (r : FragRef) (w : Wait) : State := leaveLane s r w

/-! ## FENCE, WAITC -/

/-- What a FENCE of an order waits for: an acquire, and the observers of a release (R219). -/
def fenceWait (f : FmtM) : Bool × Option (BitVec 6) :=
  (f.order.getLsbD 0, if f.order.getLsbD 1 then some f.obs else none)

def execFence (f : FmtM) (s : State) : Host.Outcome State Fault Refusal :=
  let i : Instr := .fence f
  let (acq, obs) := fenceWait f
  .next (acquireGate s (fun _ s => uniformPass i 15#4 false (weightOf 0xA0)
    (fun r s _ => .ok (switchRegion s r i))
    (fun s r => if fenceDone s r.core r.hslot s.nextId (inHandlerAt s r) acq obs then advance s r i
      else blockOn s r (.fence acq obs true s.nextId)) s))

def execWaitc (f : FmtA) (n : Byte) (s : State) : Host.Outcome State Fault Refusal :=
  let i : Instr := .waitc f n
  let cls := f.fn.toNat
  .next (uniformPass i 15#4 false (weightOf 0xA1) (fun _ s _ => .ok s)
    (fun s r => if counterOf (s.group r.core r.hslot) cls ≤ n.toNat then advance s r i
      else blockOn s r (.waitc cls n.toNat)) s)

/-! ## Barriers -/

/-- The strands of E arrive at barrier b, carrying the group's clock (R209, R328). -/
def arriveAll (s : State) (r : FragRef) (b : Nat) : State :=
  let s := tickClock s r.core r.hslot
  let g := s.group r.core r.hslot
  arriveBarrier s r.core g.team b ((slotsOf (s.frag r).e).map (sidOf g)) g.lclk

def barrierOf (s : State) (r : FragRef) (b : Nat) : Barrier :=
  (s.teamOf r.core r.hslot).bars.get {} b

def execBar (f : FmtA) (s : State) : Host.Outcome State Fault Refusal :=
  let i : Instr := .bar f
  let b := f.fn.toNat
  .next (uniformPass i 15#4 false (weightOf 0xA2)
    (fun r s slot => match checkKDest s r slot [f.d.toNat] [] with
      | some x => .stop s x
      | none => .ok (switchRegion s r i))
    (fun s r => arriveAll (blockOn s r (.bar b (barrierOf s r b).phase f.d.toNat)) r b) s)

def execBara (f : FmtA) (s : State) : Host.Outcome State Fault Refusal :=
  let i : Instr := .bara f
  let b := f.fn.toNat
  .next (uniformPass i 15#4 false (weightOf 0xA3)
    (fun r s slot => match checkKDest s r slot [f.d.toNat] [] with
      | some x => .stop s x
      | none =>
        let s := switchRegion s r i
        let s := writeK s r f.d.toNat (if (barrierOf s r b).phase then 1 else 0)
        .ok s)
    (fun s r => advance (arriveAll s r b) r i) s)

/-- BARW blocks until the phase differs from bit 0 of K(a). -/
def execBarw (f : FmtA) (s : State) : Host.Outcome State Fault Refusal :=
  let i : Instr := .barw f
  let b := f.fn.toNat
  let src : SrcReg := { isK := true, num := f.a.toNat, trap := f.ea }
  .next (uniformPass i 15#4 false (weightOf 0xA4)
    (fun r s slot =>
      let s := awaitSources s r slot [src]
      let st := (checkSources s r slot [src]).orElse (fun _ => checkPorts s r [src])
      match st.orElse (fun _ => checkKDest s r slot [f.d.toNat] []) with
      | some x => .stop s x
      | none =>
        let s := if 56 ≤ f.a.toNat then switchRegion s r i else s
        let (v, s) := readSource s r slot src
        .ok (s.modFrag r (fun q => { q with kept := { q.kept with addr := some v } })))
    (fun s r =>
      let ph := ((s.frag r).kept.addr.getD 0).getLsbD 0
      let bar := barrierOf s r b
      if bar.phase != ph then
        let st : W64 := if bar.status then 1 else 0
        let s := emitTrace (receiveClock s r.core r.hslot bar.relClk) r 4 b (s.frag r).refSlot st.toNat
        advance (if 56 ≤ f.a.toNat then fillLater s r (s.frag r).refSlot true f.d.toNat [st] else writeK s r f.d.toNat st) r i
      else blockOn s r (.barw b ph f.d.toNat)) s)

/-! ## Clasps (R210-R214) -/

/-- A clasp's fields: phase, expect, parr, pbytes. -/
structure Clasp where
  phase : Bool
  expect : Nat
  parr : Nat
  pbytes : Nat
  deriving DecidableEq, Repr

def readClasp (t : Team) (off : Nat) : Clasp :=
  let w := bytesVal (localBytes t off 8)
  { phase := w % 2 = 1, expect := w / 2 % 2 ^ 15, parr := w / 2 ^ 16 % 2 ^ 16, pbytes := w / 2 ^ 32 }

/-- The first eight bytes of a clasp; the reserved ones stay. -/
def claspBytes (c : Clasp) : List Byte :=
  wordBytes 8 ((if c.phase then 1 else 0) + c.expect * 2 + c.parr * 2 ^ 16 + c.pbytes % 2 ^ 32 * 2 ^ 32)

/-- The flip rule (R213). -/
def claspFlip (c : Clasp) : Clasp :=
  if c.parr = 0 && c.pbytes = 0 then { c with phase := !c.phase, parr := c.expect } else c

/-- An update of a clasp by a holder of a clock: the clasp receives the clock (R328), applies the flip rule and
wakes its waiters (R213). -/
def updateClasp (s : State) (c ti off clk : Nat) (u : Clasp → Clasp) : State :=
  let t := s.team c ti
  let s := s.modTeam c ti (fun t => { t with
    claspClk := t.claspClk.update 0 (off / 16) (fun v => clockNext (Nat.max v clk)) })
  localWrite s c ti off (claspBytes (claspFlip (u (readClasp t off)))) false

/-- CLARR: bytes pending grow by the low 32 bits, then one arrival (R212). -/
def claspArrive (x : W64) (c : Clasp) : Clasp :=
  { c with pbytes := (c.pbytes + x.toNat % 2 ^ 32) % 2 ^ 32, parr := c.parr - 1 }

/-- A delivery of n bytes (R249). -/
def claspDeliver (n : Nat) (c : Clasp) : Clasp := { c with pbytes := (c.pbytes + 2 ^ 32 - n % 2 ^ 32) % 2 ^ 32 }

/-- Address, checks and operand of one strand of a clasp operation, then its act; what reads the clasp consumes its poison
(R343). -/
def claspBody (i : Instr) (f : FmtM) (rd wr res : Bool) (act : FragRef → State → Nat → LocalAt → Acc → StrandRes) (r : FragRef)
    (s : State) (slot : Nat) : StrandRes :=
  let src : List SrcReg := dataSrcs f [f.d.toNat]
  let s := awaitSources s r slot (addrSrcs f false ++ src)
  match formAddr s r slot f false src with
  | .inr x => .stop s x
  | .inl (a, s) =>
    match checkAccess s r slot f.space a 16 rd wr .load [] with
    | (s, .inr x) => .stop s x
    | (s, .inl (.loc p)) =>
      match (checkSources s r slot src).orElse (fun _ => if res then destCheck s r slot f.u [f.d.toNat] else none) with
      | some x => .stop s x
      | none =>
        let (vs, s) := readAll s r slot src
        let (acc, s) := accOf s r i f slot .store a 16 (regPos s r f.u f.d.toNat) (vs.headD 0).toNat
        act r s slot p acc
    | (s, .inl _) => .ok s

/-- Whether a clasp that an operation reads is poisoned. -/
def claspBad (s : State) (p : LocalAt) : Bool := localBad (s.team p.core p.team) p.off 16

/-- CLINIT (R212). -/
def clinitBytes (x : W64) : List Byte :=
  let n := x.toNat % 2 ^ 15
  claspBytes { phase := false, expect := n, parr := n, pbytes := 0 } ++ wordBytes 8 0

/-- CLINIT in local memory: the clasp is initialised, and its granule set full (R212). It takes the clock of the group. -/
def initClasp (s : State) (c ti off clk : Nat) (x : W64) : State :=
  let s := s.modTeam c ti (fun t => { t with claspClk := t.claspClk.update 0 (off / 16) (fun v => clockNext (Nat.max v clk)) })
  localWrite s c ti off (clinitBytes x) true

def execClinit (f : FmtM) (s : State) : Host.Outcome State Fault Refusal :=
  let i : Instr := .clinit f
  memPass i 0xA5 f (claspBody i f true true false (fun r s _ p a =>
    let s := tickClock (switchRegion s r i) r.core r.hslot
    .ok (if p.far r then gangSend s r a p .clinit
      else initClasp s p.core p.team p.off (s.group r.core r.hslot).lclk (.ofNat 64 a.data)))) s

def execClarr (f : FmtM) (s : State) : Host.Outcome State Fault Refusal :=
  let i : Instr := .clarr f
  memPass i 0xA6 f (claspBody i f true true false (fun r s _ p a =>
    if !p.far r && claspBad s p then .stop s .kill
    else
      let s := tickClock (switchRegion s r i) r.core r.hslot
      .ok (if p.far r then gangSend s r a p .clarr
        else updateClasp s p.core p.team p.off (s.group r.core r.hslot).lclk (claspArrive (.ofNat 64 a.data))))) s

/-- What a CLWAIT waits for at a clasp that stands in the phase of its operand. -/
def claspWait (s : State) (r : FragRef) (a : Acc) (c ti off cycle : Nat) (ph : Bool) : State × Wait :=
  -- the uniform form has run when it blocks; the strand form retries its strand
  (if a.uni then bumpCount (chargeAt s r.core r.hslot (weightOf 0xA7) cycle) r.core 0x518 1 else s, .clasp c ti off ph a.uni)

/-- CLWAIT: the strand form parks at its strand, the uniform form blocks and is complete once woken (R212). At another core's
part the lane holds its pass until it has performed, as it does that of an LDF (log entry 9). -/
def execClwait (f : FmtM) (s : State) : Host.Outcome State Fault Refusal :=
  let i : Instr := .clwait f
  memPass i 0xA7 f (claspBody i f true false false (fun r s _ p a =>
    let t := s.team p.core p.team
    let ph : Bool := a.data % 2 = 1
    if p.far r then .stop (gangSend s r a p .clwait) (.park (.remote false))
    else if claspBad s p then .stop s .kill
    else if claspPhase t p.off != ph then .ok (receiveClock s r.core r.hslot (t.claspClk.get 0 (p.off / 16)))
    else
      let (s, w) := claspWait s r a p.core p.team p.off (laneNow s r) ph
      .stop s (.park w))) s

/-- What CLTRY writes (R212). -/
def claspTry (s : State) (c ti off : Nat) (a : Acc) : W64 :=
  if claspPhase (s.team c ti) off != (a.data % 2 = 1 : Bool) then 1 else 0

/-- The result of an acquire that its instruction writes itself is there from a cycle on (R230). -/
def resultDue (s : State) (a : Acc) (cycle : Nat) : State :=
  let (id, s) := s.fresh
  { s with fills := s.fills ++ [{ id := id, core := a.core, hslot := a.hslot, uni := a.uni, sid := a.sid, pos := a.pos, words := [],
                                  other := true, aid := a.aid, due := cycle }] }

/-- CLTRY (R212). At another core's part its register is empty until it has performed (log entry 9). -/
def execCltry (f : FmtM) (s : State) : Host.Outcome State Fault Refusal :=
  let i : Instr := .cltry f
  memPass i 0xA8 f (claspBody i f true false true (fun r s slot p a =>
    let s := noteAcquire s r f.order a.aid
    if p.far r then .ok (gangSend (destMark s r slot f.u [f.d.toNat]) r a p .cltry)
    else if claspBad s p then .stop s .kill
    else
      let v := claspTry s p.core p.team p.off a
      let s := resultDue s a (laneNow s r + localLatency false)
      .ok (if f.u then writeKAt s r f.d.toNat v (localLatency false)
        else writeVsAt (localLatency false) s r slot f.d.toNat [v.truncate 32]))) s

/-! ## Accesses to another core's part of the gang (R226) -/

/-- The fragment whose pass an access holds. -/
def holder (x : GangAcc) : FragRef := { core := x.acc.core, hslot := x.acc.hslot, entry := x.entry }

/-- The strand has performed: it is charged in its own cycle, and its pass goes on in the cycle after (R145). -/
def holdDone (s : State) (x : GangAcc) (w : Nat) : State :=
  let r := holder x
  (chargeAt s r.core r.hslot w (x.at_ - 4)).modFrag r (fun f => { f with wait := .remote true, kept := { f.kept with held := true } })

/-- The pass parks at the strand, which has found what it waits for absent (R145, R212). -/
def holdParks (s : State) (x : GangAcc) (w : Wait) : State := leaveLane (tickLane s (holder x) 1) (holder x) w

/-- The registers of a load as a pass names them. -/
def accRegs (s : State) (r : FragRef) (a : Acc) : List Nat :=
  let n := if a.uni then (a.size + 7) / 8 else a.size / 4
  (List.range (Nat.max 1 n)).map (a.pos - (if a.uni then 0 else (s.frag r).wbase) + ·)

/-- An LDF performs (R145): with every granule full its registers are marked, it reads, and `clr` clears the granules. -/
def performLdf (s : State) (x : GangAcc) (clr : Bool) : State :=
  let a := x.acc
  let r := holder x
  let gs := granules x.off a.size
  if !localFull (s.team x.core x.team) gs then holdParks s x (.granules x.core x.team gs)
  else
    match localLoad (destMark s r a.slot a.uni (accRegs s r a)) a x.core x.team x.off with
    | .stop s _ => killGroup s a.core a.hslot 0
    | .ok s =>
      let f := s.frag r
      let s := match clr, f.instr with
        | true, some i => { (switchRegion { s with follow := f.follow } r i) with follow := s.follow }.modTeam x.core x.team
            (fun t => { t with full := t.full.filter (fun g => !gs.contains g) })
        | _, _ => s
      holdDone s x (weightOf 0x84)

/-- A CLTRY performs (R212): its register becomes full, and is read from the end of the result latency on (R51). -/
def performCltry (s : State) (x : GangAcc) : State :=
  let a := x.acc
  let v := claspTry s x.core x.team x.off a
  let at_ := x.at_ + 24
  let s := resultDue s a at_
  if a.uni then
    (s.modGroup a.core a.hslot (fun g =>
      { g with late := addLate (s.core a.core).cycle g.late (.kreg a.pos (g.k.get {} a.pos).val x.m at_) })).setKreg a.core a.hslot a.pos
        { val := v }
  else
    (s.setVreg a.core a.team a.sid a.pos { val := v.truncate 32 }).modCore a.core (fun k =>
      { k with made := ((a.team * 1024 + a.sid) * 1024 + a.pos, at_) :: k.made })

/-- A CLWAIT performs (R212). -/
def performClwait (s : State) (x : GangAcc) : State :=
  let a := x.acc
  let t := s.team x.core x.team
  let ph : Bool := a.data % 2 = 1
  if claspPhase t x.off != ph then
    holdDone (receiveClock s a.core a.hslot (t.claspClk.get 0 (x.off / 16))) x (weightOf 0xA7)
  else
    let (s, w) := claspWait s (holder x) a x.core x.team x.off (x.at_ - 4) ph
    holdParks s x w

/-- Whether an access keeps the lane of its pass until it performs. -/
def GangWhat.holds : GangWhat → Bool
  | .ldf _ | .clwait => true
  | _ => false

/-- An access performs at another core's part, if its team is still there; a pass that it holds makes it again where it is not. -/
def performGang (s : State) (x : GangAcc) : State :=
  let a := x.acc
  let t := s.team x.core x.team
  let killed (s : State) : State := killGroup s a.core a.hslot 0
  let waits := (s.frag (holder x)).wait == .remote false
  if x.what.holds && !waits then s
  else if ((s.core x.core).teams.find? x.team).isNone then
    (if x.what.holds then s.modFrag (holder x) (fun f => { f with wait := .remote true }) else s)
  else
    match x.what with
    | .read =>
      if a.dead then s
      else
        match localLoad s a x.core x.team x.off with
        | .ok s => s
        | .stop s _ => killed s
    | .write fill => localStore s a x.core x.team x.off fill
    | .atomic =>
      match localAtomic s x.core x.team x.off a with
      | .ok s => s
      | .stop s _ => killed s
    | .ldf clr => performLdf s x clr
    | .clinit => initClasp s x.core x.team x.off x.clk (.ofNat 64 a.data)
    | .clarr => if localBad t x.off 16 then killed s else updateClasp s x.core x.team x.off x.clk (claspArrive (.ofNat 64 a.data))
    | .cltry => if a.dead then s else if localBad t x.off 16 then killed s else performCltry s x
    | .clwait => if localBad t x.off 16 then killed s else performClwait s x
    | .clean grans => cleanGranules s x.core x.team grans

/-- Perform what is due in the present cycle of a core: the accesses of lower group slots first (R214). -/
def performDue (s : State) (c : Nat) : State :=
  let due := (s.gang.filter (fun x => x.acc.core == c && decide (x.at_ ≤ (s.core c).cycle))).mergeSort (fun a b =>
    a.acc.hslot ≤ b.acc.hslot)
  due.foldl performGang { s with gang := s.gang.filter (fun x => !(x.acc.core == c && decide (x.at_ ≤ (s.core c).cycle))) }

/-! ## QTRY (R217) -/

def execQtry (f : FmtA) (s : State) : Host.Outcome State Fault Refusal :=
  let i : Instr := .qtry f
  .next (uniformPass i 15#4 false (weightOf 0xA9)
    (fun r s slot => match checkKDest s r slot [f.d.toNat] [] with
      | some x => .stop s x
      | none =>
        let s := switchRegion s r i
        let n := heldIn (s.teamOf r.core r.hslot) f.fn.toNat (laneNow s r)
        .ok (writeK s r f.d.toNat (.ofNat 64 n)))
    (fun s r => advance s r i) s)

end Sys2Proof.Machine
end

