-- ==== Sys2Proof/Machine/Flow.lean ====
section
/-! DEFINITION. Control flow: BR, BRU, JMPI, CALL, CALLI, RET (R123-R127), the transfers of the register window
(R54), RJN, REGROUP, EXIT (R128-R130), TRAP, BKPT, SIGCHK, SIGRST (R163-R165), REGION (R166), IRET with the
replay of the operand log (R161), and the entry of handlers (R158). -/

namespace Sys2Proof.Machine

/-! ## Successors (R113, R123) -/

/-- A Format B target: modulo 2^57, with the tag bits of the PC kept. -/
def branchTarget (pc : W64) (off : BitVec 40) : W64 :=
  ((pc + off.signExtend 64 * 8) &&& (.ofNat 64 (2 ^ 57 - 1))) ||| (pc &&& (.ofNat 64 (2 ^ 61 - 2 ^ 57)))

/-- A target held in a register (R124): ADDRESS, then ALIGN. -/
def checkTarget (t : W64) : Option Stop :=
  if 2 ^ 61 ≤ t.toNat then some (.fault 4 t) else if t.toNat % 8 ≠ 0 then some (.fault 5 t) else none

/-- Record the successor that a strand chose. -/
def setSucc (s : State) (r : FragRef) (slot : Nat) (x : Succ) : State :=
  s.modFrag r (fun f => { f with succs := f.succs.set slot x })

/-- The end of a pass that chose successors: a member without one falls through (R113). -/
def splitEnd (i : Instr) (s : State) (r : FragRef) : State :=
  let f := s.frag r
  let fall := nextPc f i
  splitBy s r (fun sl => (f.succs.find? sl).getD (.go fall f.wbase)) fall (word0 i)

/-! ## BR, BRU, JMPI -/

def execBr (f : FmtB) (s : State) : Host.Outcome State Fault Refusal :=
  let i : Instr := .br f
  .next (strandPass i f.guard f.gn (weightOf 0x41)
    (fun r s slot =>
      let q := s.frag r
      .ok (setSucc s r slot (.go (branchTarget q.pc f.offset) q.wbase)))
    (splitEnd i) s)

/-- Whether a BRU is taken: kinds 1-3 ask the strands of E (R123). -/
def bruTaken (s : State) (r : FragRef) (f : FmtB) : Bool :=
  let hold (sl : Nat) : Bool := guardHolds (strandAt s r sl) f.guard f.gn
  let e := slotsOf (s.frag r).e
  match f.kind.toNat with
  | 0 => true
  | 1 => e.any hold
  | 2 => e.all hold
  | _ => !e.any hold

def execBru (f : FmtB) (s : State) : Host.Outcome State Fault Refusal :=
  let i : Instr := .bru f
  .next (uniformPass i 15#4 false (weightOf 0x42)
    (fun r s _ => .ok (if f.kind = 0 then s
      else (slotsOf (s.frag r).e).foldl (fun s sl => awaitPreds s r sl [f.guard.toNat]) s))
    (fun s r => if bruTaken s r f then goTo s r (branchTarget (s.frag r).pc f.offset) else advance s r i) s)

/-- The register of an indirect target. -/
def targetSrc (f : FmtA) : SrcReg :=
  { isK := f.u || f.ka, num := f.a.toNat, pair := !f.u && !f.ka, trap := f.ea }

/-- Read and check an indirect target at a slot; a port is popped once it is good for the whole strand. -/
def readTarget (i : Instr) (f : FmtA) (r : FragRef) (s : State) (slot : Nat) : (W64 × State) ⊕ (State × Stop) :=
  let x := targetSrc f
  let s := awaitSources s r slot [x]
  match (checkSources s r slot [x]).orElse (fun _ => checkPorts s r [x]) with
  | some st => .inr (s, st)
  | none =>
    let (t, s') := readSource (if usesPort [x] false 0 then switchRegion s r i else s) r slot x
    match checkTarget t with
    | some st => .inr (s, st)
    | none => .inl (t, s')

def execJmpi (f : FmtA) (s : State) : Host.Outcome State Fault Refusal :=
  let i : Instr := .jmpi f
  let body (go : State → FragRef → Nat → W64 → State) (r : FragRef) (s : State) (slot : Nat) : StrandRes :=
    match readTarget i f r s slot with
    | .inr (s, x) => .stop s x
    | .inl (t, s) => .ok (go s r slot t)
  if f.u then
    .next (uniformPass i f.guard f.gn (weightOf 0x43)
      (body (fun s r _ t => s.modFrag r (fun q => { q with kept := { q.kept with addr := some t } })))
      (fun s r => goTo s r ((s.frag r).kept.addr.getD (nextPc (s.frag r) i))) s)
  else
    .next (strandPass i f.guard f.gn (weightOf 0x43)
      (body (fun s r slot t => setSucc s r slot (.go t (s.frag r).wbase))) (splitEnd i) s)

/-! ## Calls and returns (R54, R125-R127) -/

/-- The link (R125). -/
def linkWord (next : W64) (n8 : Nat) : W64 := (next &&& (.ofNat 64 (2 ^ 61 - 8))) ||| .ofNat 64 n8

/-- STACK-LIMIT of a call that slides the window by n (R54). -/
def stackLimit (s : State) (r : FragRef) (n : Nat) : Bool :=
  let g := s.group r.core r.hslot
  let t := s.team r.core g.team
  let b := (s.frag r).wbase + n
  let w := windowOf t g.role
  decide (512 < b + w) || decide (budgetOf t g.role < b % 32 + w)

/-- One calling strand writes its link. -/
def writeLink (i : Instr) (n : Nat) (r : FragRef) (s : State) (slot : Nat) : StrandRes :=
  match checkVDest s r slot [n - 2, n - 1] with
  | some x => .stop s x
  | none => .ok (writeVs s r slot (n - 2) (vWords true (linkWord (nextPc (s.frag r) i) (n / 8))))

/-- Name the instruction whose transfers the window of the fragment will need (R54). -/
def noteTransfer (s : State) (r : FragRef) (i : Instr) : State :=
  s.modFrag r (fun f => { f with xpc := f.pc, xword := word0 i })

/-- A call of every strand of M (R126): the guard at the reference slot, STACK-LIMIT, the target, then the links. -/
def callAll (i : Instr) (op : Nat) (guard : BitVec 4) (gn : Bool) (n : Nat)
    (target : FragRef → State → Nat → (W64 × State) ⊕ (State × Stop)) (s : State) : State :=
  match s.cur with
  | none => s
  | some r =>
    let s := beginPass s r i
    let f := s.frag r
    let ref := f.refSlot
    let s := awaitPreds s r ref [guard.toNat]
    if !guardHolds (strandAt s r ref) guard gn then advance (tickLane s r 1) r i
    else if stackLimit s r n then startFault s r 10 f.pc (word0 i)
    else
      let found : (W64 × State) ⊕ (State × Stop) := match f.kept.addr with
        | some t => .inl (t, s)
        | none => target r s ref
      match found with
      | .inr (s, x) => stopFirst s r i ref x
      | .inl (t, s) =>
        let s := s.modFrag r (fun q => { q with kept := { q.kept with addr := some t } })
        let slots := (slotsOf f.m).filter (fun sl => f.resume ≤ sl)
        match runStrands r (weightOf op) 1 (writeLink i n r) slots s with
        | (s, some (sl, x)) => stopPass (bumpCount s r.core 0x510 (doneSlots slots sl)) r i sl x
        | (s, none) =>
          let s := noteTransfer (bumpCount s r.core 0x510 slots.length) r i
          goTo (s.modFrag r (fun q => { q with wbase := q.wbase + n })) r t

def execCall (f : FmtB) (s : State) : Host.Outcome State Fault Refusal :=
  .next (callAll (.call f) 0x44 f.guard f.gn (8 * f.kind.toNat)
    (fun r s _ => .inl (branchTarget (s.frag r).pc f.offset, s)) s)

/-- One calling strand of the strand form of CALLI. -/
def calliBody (i : Instr) (f : FmtA) (n : Nat) (r : FragRef) (s : State) (slot : Nat) : StrandRes :=
  match readTarget i f r s slot with
  | .inr (s, x) => .stop s x
  | .inl (t, s') =>
    match writeLink i n r s' slot with
    | .stop _ x => .stop s x
    | .ok s => .ok (setSucc s r slot (.go t ((s.frag r).wbase + n)))

def execCalli (f : FmtA) (s : State) : Host.Outcome State Fault Refusal :=
  let i : Instr := .calli f
  let n := 8 * f.fn.toNat
  if f.u then .next (callAll i 0x45 f.guard f.gn n (readTarget i f) s)
  else
    match s.cur with
    | none => .next s
    | some r =>
      if hasActive false f.guard f.gn s r && stackLimit s r n then
        let s := beginPass s r i
        .next (startFault s r 10 (s.frag r).pc (word0 i))
      else
        .next (strandPass i f.guard f.gn (weightOf 0x45) (calliBody i f n)
          (fun s r => splitEnd i (noteTransfer s r i) r) s)

/-- One returning strand (R127). A link in a spilled block is read from the copy that is still held (log entry 56). -/
def retBody (r : FragRef) (s : State) (slot : Nat) : StrandRes :=
  let g := s.group r.core r.hslot
  let wb := (s.frag r).wbase
  let st := s.strand r.core g.team (sidOf g slot)
  let lo := st.regs.get {} (wb - 2)
  let hi := st.regs.get {} (wb - 1)
  let empty := [(wb - 2, lo), (wb - 1, hi)].filter (fun p => !p.2.full)
  if !empty.isEmpty then .stop s (.park (.regs (sidOf g slot) (empty.map Prod.fst) []))
  else if lo.poison || hi.poison then .stop s .kill
  else
    let link : W64 := hi.val ++ lo.val
    let n8 := link.toNat % 8
    let s := awaitRegs s r [posKey s r slot (wb - 2), posKey s r slot (wb - 1)]
    if 2 ^ 61 ≤ link.toNat || n8 = 0 || wb < 8 * n8 then .stop s (.fault 10 link)
    else .ok (setSucc s r slot (.go (.ofNat 64 (link.toNat / 8 * 8)) (wb - 8 * n8)))

/-- A fragment whose window base lies below its region base opens an implicit region (R169). -/
def lowerRegion (c h : Nat) (s : State) (e : Nat) : State :=
  let g := s.group c h
  match g.frags.find? e with
  | none => s
  | some f =>
    if f.wbase < f.region.base then
      let (reg, s) := implicitRegion s c h f.pc f.wbase f.m f.e f.region.klive
      s.setFrag { core := c, hslot := h, entry := e } { f with region := reg }
    else s

/-- The same for spilled pieces. -/
def lowerSpilled (c h : Nat) : List SpillRec → State → List SpillRec × State
  | [], s => ([], s)
  | p :: r, s =>
    let (q, s) :=
      if p.wbase < p.region.base then
        let (reg, s) := implicitRegion s c h p.pc p.wbase p.m p.e p.region.klive
        ({ p with region := reg }, s)
      else (p, s)
    let (l, s) := lowerSpilled c h r s
    (q :: l, s)

def lowerRegions (s : State) (c h : Nat) : State :=
  let s := (List.range 8).foldl (lowerRegion c h) s
  let (l, s) := lowerSpilled c h (s.group c h).spill s
  s.modGroup c h (fun g => { g with spill := l })

def execRet (f : FmtA) (s : State) : Host.Outcome State Fault Refusal :=
  match s.cur with
  | none => .next s
  | some r =>
    let i : Instr := .ret f
    let s := beginPass s r i
    let q := s.frag r
    if q.wbase = 0 then .next (startFault s r 10 q.pc (word0 i))
    else
      let slots := (slotsOf q.m).filter (fun sl => q.resume ≤ sl)
      match runStrands r (weightOf 0x46) 1 (retBody r) slots s with
      | (s, some (sl, x)) => .next (stopPass (bumpCount s r.core 0x510 (doneSlots slots sl)) r i sl x)
      | (s, none) =>
        let s := noteTransfer (bumpCount s r.core 0x510 slots.length) r i
        .next (lowerRegions (splitEnd i s r) r.core r.hslot)

/-! ## The register window (R53, R54) -/

/-- The blocks of 32 positions of a window. -/
def windowBlocks (wbase w : Nat) : List Nat :=
  (List.range ((wbase + w - 1) / 32 + 1 - wbase / 32)).map (wbase / 32 + ·)

/-- The blocks that a strand lacks. -/
def lacking (x : Strand) (wbase w : Nat) : List Nat := (windowBlocks wbase w).filter (fun b => !x.resident.contains b)

/-- Whether every member's window is resident (R54). -/
def windowResident (s : State) (c h : Nat) (f : Frag) : Bool :=
  let g := s.group c h
  let t := s.team c g.team
  (slotsOf f.m).all (fun sl => (lacking (t.strands.get {} (sidOf g sl)) f.wbase (windowOf t g.role)).isEmpty)

/-- The address of word p of a strand's save area. -/
def saveVa (t : Team) (sid p : Nat) : W64 := t.sbase + .ofNat 64 (sid / 32 * 32 * 512 * 4 + (p * 32 + sid % 32) * 4)

/-- The record of one word's transfer, reported against the CALL, CALLI or RET. -/
def saveAcc (s : State) (c h : Nat) (f : Frag) (slot p : Nat) (store : Bool) (v : VReg) : Acc × State :=
  let (id, s) := s.fresh
  let g := s.group c h
  let t := s.team c g.team
  let va := saveVa t (sidOf g slot) p
  ({ kind := if store then .store else .load, core := c, hslot := h, sid := sidOf g slot, slot := slot, uni := false,
     addr := va, pc := f.xpc, word := f.xword, size := 4, pos := p, data := v.val.toNat, asid := t.ctx.asid, team := g.team,
     aid := id, lane := true, win := true, poison := v.poison, ea := va, esize := 4, edata := v.val.toNat, epos := p }, s)

/-- Store one resident block of a strand to the save area. -/
def spillBlock (c h : Nat) (f : Frag) (slot b : Nat) (s : State) : State :=
  let g := s.group c h
  let sid := sidOf g slot
  let regs := (s.strand c g.team sid).regs
  let s := (List.range 32).foldl (fun s j =>
    let p := 32 * b + j
    let (a, s) := saveAcc s c h f slot p true (regs.get {} p)
    issueLaneStore s a none g.pkr false) s
  s.modTeam c g.team (fun t => { t with strands := t.strands.update {} sid (fun x =>
    { x with resident := x.resident.filter (· != b), saved := b :: x.saved.filter (· != b) }) })

/-- Bring a saved block back: its registers are empty until the data arrives. -/
def refillBlock (c h : Nat) (f : Frag) (slot b : Nat) (s : State) : State :=
  let g := s.group c h
  let sid := sidOf g slot
  let empty (m : SMap VReg) (j : Nat) : SMap VReg :=
    m.update {} (32 * b + j) (fun v => { v with full := false })
  let s := s.modTeam c g.team (fun t => { t with strands := t.strands.update {} sid (fun x =>
    { x with resident := b :: x.resident, saved := x.saved.filter (· != b),
             regs := (List.range 32).foldl empty x.regs }) })
  (List.range 32).foldl (fun s j =>
    let (a, s) := saveAcc s c h f slot (32 * b + j) false {}
    issueLaneRead s a none g.pkr false) s

/-- Open a block that no frame has used since it was last dropped: what its registers hold is open (log entry
12). -/
def openBlock (c h : Nat) (slot b : Nat) (s : State) : State :=
  let g := s.group c h
  let sid := sidOf g slot
  let n := s.freeCtr
  let put (m : SMap VReg) (j : Nat) : SMap VReg := m.set (32 * b + j) { val := Sys2Proof.Config.freshReg (n + j) }
  let s := s.modTeam c g.team (fun t => { t with strands := t.strands.update {} sid (fun x =>
    { x with resident := b :: x.resident, regs := (List.range 32).foldl put x.regs }) })
  { s with freeCtr := n + 32 }

/-- Whether a register of a block is still to be filled. -/
def blockBusy (x : Strand) (b : Nat) : Bool := (List.range 32).any (fun j => !(x.regs.get {} (32 * b + j)).full)

/-- One block of one strand's window, with how many blocks have been moved: drop blocks above, spill the oldest while room lacks,
then refill or open (R54). A block with a register still to be filled is not spilled yet. -/
def makeBlock (c h : Nat) (f : Frag) (slot : Nat) (q : State × Nat) (b : Nat) : State × Nat :=
  let (s, n) := q
  let g := s.group c h
  let t := s.team c g.team
  let sid := sidOf g slot
  let w := windowOf t g.role
  let cap := budgetOf t g.role / 32
  let x := s.strand c g.team sid
  if x.resident.contains b then (s, n)
  else
    let kept := if cap ≤ x.resident.length then x.resident.filter (fun k => 32 * k < f.wbase + w) else x.resident
    let x := { x with resident := kept }
    let s := s.setStrand c g.team sid x
    let place (s : State) (n : Nat) : State × Nat :=
      if x.saved.contains b then (refillBlock c h f slot b s, n + 1) else (openBlock c h slot b s, n)
    if kept.length < cap then place s n
    else
      let old := kept.foldl Nat.min 16
      if blockBusy x old then (s, n) else place (spillBlock c h f slot old s) (n + 1)

/-- The transfers of a fragment's window (R54): 8 cycles for each block of a strand, in which it holds no lane and is no
candidate. -/
def transferWindow (s : State) (r : FragRef) : State :=
  let f := s.frag r
  let g := s.group r.core r.hslot
  let t := s.team r.core g.team
  let (s, n) := (slotsOf f.m).foldl (fun (q : State × Nat) sl =>
    let x := q.1.strand r.core g.team (sidOf g sl)
    (lacking x f.wbase (windowOf t g.role)).foldl (makeBlock r.core r.hslot f sl) q) (s, 0)
  if n = 0 && windowResident s r.core r.hslot f then s
  else
    let at_ := (s.core r.core).cycle + 8 * n
    s.modFrag r (fun f => { f with lane := none, run := 0, since := Nat.max f.since at_, delay := 8 })

/-! ## RJN (R128) -/

/-- Whether a fragment lets an RJN at p go on. -/
def rjnReleaser (p : W64) (pc : W64) (w : Wait) : Bool :=
  pc == p || (match w with | .rjn | .bar .. | .barw .. | .regroup => true | _ => false)

/-- Whether the fragment in an entry, waiting at its RJN, is released. -/
def rjnDone (g : GroupSlot) (e : Nat) (f : Frag) : Bool :=
  (g.frags.filter (fun p => p.1 != e)).all (fun p => rjnReleaser f.pc p.2.pc p.2.wait)
    && g.spill.all (fun p => rjnReleaser f.pc p.pc p.wait)

/-- The same of a spilled piece, given by its place in the FIFO. -/
def rjnSpilledDone (g : GroupSlot) (p : SpillRec × Nat) : Bool :=
  p.1.wait == .rjn && g.frags.all (fun q => rjnReleaser p.1.pc q.2.pc q.2.wait)
    && (g.spill.eraseIdx p.2).all (fun q => rjnReleaser p.1.pc q.pc q.wait)

def execRjn (f : FmtA) (s : State) : Host.Outcome State Fault Refusal :=
  let i : Instr := .rjn f
  .next (uniformPass i 15#4 false (weightOf 0x47) (fun _ s _ => .ok s)
    (fun s r =>
      let g := s.group r.core r.hslot
      let q := s.frag r
      if g.frags.length = 1 && g.spill.isEmpty then advance s r i
      else settleMerge (s.setFrag r { q.restart q.pc (s.core r.core).cycle with wait := .rjn, lane := none }) r) s)

/-- Fragments at an RJN whose condition holds continue at the next instruction, resident or spilled; of a group stopped on
a fault only the one that runs the handler (R154, R155). -/
def execRjnRelease (core hslot : Nat) (s : State) : Host.Outcome State Fault Refusal :=
  let g := s.group core hslot
  let may (e : Nat) : Bool := g.fault.isNone || runsHandler g e
  let go : List Nat := (g.frags.filter (fun p => p.2.wait == .rjn && may p.1 && rjnDone g p.1 p.2)).map Prod.fst
  let goSpilled : List Nat := if g.fault.isSome then [] else (g.spill.zipIdx.filter (rjnSpilledDone g)).map Prod.snd
  if !g.alloc then .next s
  else
    let now := (s.core core).cycle
    let s := s.setGroup core hslot { g with
      frags := g.frags.map (fun p => if go.contains p.1 then (p.1, p.2.restart (p.2.pc + 8) now) else p),
      spill := g.spill.zipIdx.map (fun p =>
        if goSpilled.contains p.2 then { p.1 with wait := .ready, pc := p.1.pc + 8 } else p.1) }
    .next (go.foldl (fun s e => settleMerge s { core := core, hslot := hslot, entry := e }) s)

/-! ## REGROUP (R129) -/

/-- The group slots of a team and role, in %gid order. -/
def roleGroups (s : State) (c team role : Nat) : List (Nat × GroupSlot) :=
  ((s.teamGroups c team).filter (fun p => p.2.role == role)).mergeSort (fun a b => a.2.gid ≤ b.2.gid)

/-- PC, window base and members of every fragment of a group, with its wait. -/
def allPieces (g : GroupSlot) : List (W64 × Nat × W32 × Wait) :=
  g.frags.map (fun p => (p.2.pc, p.2.wbase, p.2.m, p.2.wait)) ++ g.spill.map (fun p => (p.pc, p.wbase, p.m, p.wait))

/-- The window base that the first arrival fixed. -/
def regroupBase (s : State) (c team role : Nat) : Option Nat :=
  (((roleGroups s c team role).map (fun p => allPieces p.2)).flatten.find? (fun q => q.2.2.2 == .regroup)).map
    (fun q => q.2.1)

def execRegroup (f : FmtA) (s : State) : Host.Outcome State Fault Refusal :=
  match s.cur with
  | none => .next s
  | some r =>
    let i : Instr := .regroup f
    let s := beginPass s r i
    let g := s.group r.core r.hslot
    let q := s.frag r
    let other : Bool := match regroupBase s r.core g.team g.role with
      | some b => b != q.wbase
      | none => false
    if other then .next (startFault s r 10 q.pc (word0 i))
    else .next (blockOn (bumpCount (spend s r (weightOf 0x48) 1) r.core 0x518 1) r .regroup)

/-- Whether every live strand of a role waits at one REGROUP and the counters are 0; the PC and base. -/
def regroupReady (gs : List (Nat × GroupSlot)) : Option (W64 × Nat) :=
  let ps := (gs.map (fun p => allPieces p.2)).flatten
  let quiet := gs.all (fun p => p.2.cy == 0 && p.2.cm == 0 && p.2.cx == 0 && p.2.fault.isNone)
  match ps with
  | [] => none
  | q :: _ => if quiet && ps.all (fun x => x.2.2.2 == .regroup && x.1 == q.1) then some (q.1, q.2.1) else none

/-- Fill one group slot with strands in %sid order, which stand after the REGROUP from a cycle on. What a pass of the group has
still to bring about is its new fragment's own. -/
def refillGroup (c h : Nat) (p : W64) (wbase : Nat) (fl : BitVec 5) (marks : SMap Nat) (acq : List Nat) (from_ : Nat)
    (sids : List Nat) (s : State) : State :=
  let pc := p + 8
  let m : W32 := maskOf (List.range sids.length)
  let named := sids.zipIdx.map (fun p => (p.2, p.1))
  let own (x : Late) : Late := match x with | .kreg n old _ t => .kreg n old m t | x => x
  let s := s.modGroup c h (fun g => { g with sids := named, frags := [], spill := [], flags := fl, flags0 := fl, marks := marks,
                                             late := (g.late.filter (fun x => !x.isFlag)).map own })
  if sids.isEmpty then s
  else
    let (reg, s) := implicitRegion s c h pc wbase m m (BitVec.allOnes 56)
    let f : Frag := { pc := pc, m := m, e := m, wbase := wbase, region := reg, acquires := acq, since := from_,
                      lastStart := (s.core c).cycle, delay := 2 }
    let s := s.modGroup c h (fun g => setSig { g with frags := [(0, f)] } 0 (crc 0 pc))
    emitTraceAt s c h 2 0 f.refSlot m.toNat p m

/-- Repack the strands of a role, which takes 4 cycles and one for each strand (R129). -/
def execRegroupRelease (core team role : Nat) (s : State) : Host.Outcome State Fault Refusal :=
  let gs := roleGroups s core team role
  match regroupReady gs with
  | none => .next s
  | some (p, wb) =>
    let sids := ((gs.map (fun q => (allPieces q.2).map (fun x => (slotsOf x.2.2.1).map (sidOf q.2)))).flatten.flatten).mergeSort
      (fun a b => a ≤ b)
    let fl := gs.foldl (fun m q => m ||| q.2.flags) 0
    let top (m : SMap Nat) (x : Nat × Nat) : SMap Nat := m.update 0 x.1 (Nat.max x.2)
    let marks := gs.foldl (fun m q => q.2.marks.foldl top m) ([] : SMap Nat)
    let acq := (gs.map (fun q => (q.2.frags.vals.map Frag.acquires ++ q.2.spill.map SpillRec.acquires).flatten)).flatten
    .next (gs.zipIdx.foldl (fun s q =>
      refillGroup core q.1.1 p wb fl marks acq ((s.core core).cycle + 4 + sids.length) ((sids.drop (32 * q.2)).take 32) s) s)

/-! ## EXIT (R130) -/

def execExit (f : FmtA) (s : State) : Host.Outcome State Fault Refusal :=
  let i : Instr := .exit f
  .next (strandPass i f.guard f.gn (weightOf 0x49) (fun r s slot => .ok (setSucc s r slot .exit)) (splitEnd i) s)

/-! ## REGION (R166) -/

def execRegion (klive : BitVec 56) (vlive : W64) (s : State) : Host.Outcome State Fault Refusal :=
  let i : Instr := .region klive vlive
  .next (uniformPass i 15#4 false (weightOf 0x4A)
    (fun r s _ =>
      let (id, s) := s.fresh
      let f := s.frag r
      let g := s.group r.core r.hslot
      let t := s.team r.core g.team
      .ok (s.setFrag r { f with region :=
        { opening := id, pc := f.pc, base := f.wbase, vlive := vlive, klive := klive,
          entryE := (slotsOf f.e).map (sidOf g), snap := snapshot t g f.m } }))
    (fun s r => advance s r i) s)

/-! ## TRAP, BKPT, SIGCHK, SIGRST (R163-R165) -/

/-- TRAP at a slot: the fragment stands at the next instruction and resumes there with a full pass. -/
def raiseTrap (s : State) (r : FragRef) (i : Instr) (slot n : Nat) : State :=
  let f := s.frag r
  let next := nextPc f i
  let s := s.setFrag r (f.restart next (s.core r.core).cycle)
  takeExceptionAt s r f.pc { entry := r.entry, cause := 25, fslot := slot, fpc := next, faddr := .ofNat 64 n,
                             fword := word0 i, heldE := f.e, pc := next, slot := 0 }

def execTrap (f : FmtA) (s : State) : Host.Outcome State Fault Refusal :=
  let i : Instr := .trap f
  let n := f.fn.toNat
  if f.u then
    .next (uniformPass i f.guard f.gn (weightOf 0x4B) (fun _ s _ => .ok s)
      (fun s r => raiseTrap s r i (s.frag r).refSlot n) s)
  else
    match s.cur with
    | none => .next s
    | some r =>
      let s := beginPass s r i
      match activeSlots s r f.guard f.gn 0 with
      | [] => .next (advance (tickLane s r 1) r i)
      | sl :: rest =>
        -- charged for every active strand (R304), in a pass of one cycle
        let n' := rest.length + 1
        let s := awaitPreds s r sl [f.guard.toNat]
        .next (raiseTrap (bumpCount (spend s r (weightOf 0x4B * n') 1) r.core 0x510 n') r i sl n)

def execBkpt (f : FmtA) (s : State) : Host.Outcome State Fault Refusal :=
  match s.cur with
  | none => .next s
  | some r =>
    let i : Instr := .bkpt f
    .next (startFault { s with cur := none } r 24 (.ofNat 64 f.fn.toNat) (word0 i))

def execSigchk (f : FmtA) (s : State) : Host.Outcome State Fault Refusal :=
  match s.cur with
  | none => .next s
  | some r =>
    let i : Instr := .sigchk f
    let s := beginPass s r i
    let v := sigOf (s.group r.core r.hslot) (s.frag r)
    if v != (f.lit.getD 0).truncate 32 then .next (startFault (tickLane s r 1) r 20 (v.zeroExtend 64) (word0 i))
    else .next (advance (bumpCount (spend s r (weightOf 0x4E) 1) r.core 0x518 1) r i)

def execSigrst (f : FmtA) (s : State) : Host.Outcome State Fault Refusal :=
  let i : Instr := .sigrst f
  .next (uniformPass i 15#4 false (weightOf 0x4F)
    (fun r s _ => .ok (s.modGroup r.core r.hslot (fun g => setSig g (sigSlot (s.frag r)) ((f.lit.getD 0).truncate 32))))
    (fun s r => advance s r i) s)

/-! ## IRET and the replay of the log (R161) -/

/-- The registers that an access fills: the first and how many. -/
def fillSpan (a : Acc) : Nat × Nat :=
  let n := if a.uni then 1 else Nat.max 1 (a.size / 4)
  match a.kind with
  | .load | .atomic _ _ _ false => (a.pos, n)
  | .line => (a.pos, 2)
  | .tagld => (a.pos, 1)
  | .dqpush => (a.pos + (if a.uni then 1 else 2), 1)
  | .dqpop | .dqsteal => (a.pos, if a.uni then 2 else 3)
  | _ => (a.pos, 0)

/-- Mark the registers that a replayed access fills empty (R55). -/
def markReplay (s : State) (a : Acc) : State :=
  let (p, n) := fillSpan a
  let ks := (List.range n).map (p + ·)
  if a.uni then
    let f (v : KReg) : KReg := { v with full := false }
    s.modGroup a.core a.hslot (fun g => { g with late := forgetK g.late ks, k := ks.foldl (fun m k => m.update {} k f) g.k })
  else
    let f (v : VReg) : VReg := { v with full := false }
    s.modTeam a.core a.team (fun t => { t with strands := t.strands.update {} a.sid (fun x =>
      { x with regs := ks.foldl (fun m k => m.update {} k f) x.regs }) })

/-- Reissue one logged access for its strand; it goes to the slice, which walks (R188). -/
def reissue (s : State) (a : Acc) : State :=
  let s := markReplay s a
  let g := s.group a.core a.hslot
  let a := { a with tagDone := false }
  let post (s : State) (bytes : SMap Byte) : State :=
    let line := vaOf a / 256
    let s := dropCopies s a.core a.asid line (sectorsOf (vaOf a % 256) (if a.kind == .sline then 256 else a.size))
    let (id, s) := s.fresh
    let p : Posted := { id := id, kind := .store, core := a.core, hslot := a.hslot, asid := a.asid, line := line,
                        bytes := bytes, accs := [a], pkr := g.pkr, replay := true, clk := g.lclk }
    { s with posted := s.posted ++ [p] }
  match a.kind with
  | .load => if a.lane then issueLaneRead s a none g.pkr true else replayRead s a g.pkr
  | .line | .tagld => replayRead s a g.pkr
  | .store => if a.lane then issueLaneStore s a none g.pkr true else post s (storeBytes a)
  | .sline => post s (slineBytes a)
  | .tagst => postSingle s .tagst a [] true g.pkr none
  | .atomic .. => postSingle s .atomic a [] true g.pkr none
  | .dqpush | .dqpop | .dqsteal => postSingle s .deque a [] true g.pkr none

/-- Reissue every record of a group's log, oldest first, and clear it (R157, R161). -/
def replayLog (s : State) (c h : Nat) : State :=
  let log := (s.group c h).log
  let s := clearLog s c h
  log.foldl (fun s l => (l.acc :: l.more).foldl reissue s) s

/-- Complete a wait that ended while its fragment ran the handler. -/
def settleKept (s : State) (c h e : Nat) : State :=
  match (s.frag { core := c, hslot := h, entry := e }).wait with
  | .bar b ph _ | .barw b ph _ =>
    let bar := (s.teamOf c h).bars.get {} b
    if bar.phase != ph then releaseGroup s c h b ph bar.status bar.relClk else s
  | .clasp c' t' off _ _ => wakeGroup s c h c' t' [off / 16]
  | _ => s

/-- What a fragment holds of the pass in which its fault stopped it, laid over the fragment as its handler leaves it: E, PC
and slot are restored, the window and the region are not (R161). -/
def resumePass (k cur : Frag) (e : W32) : Frag :=
  { k with m := cur.m, e := e &&& cur.m, wbase := cur.wbase, region := cur.region, acquires := cur.acquires, lane := cur.lane,
           run := cur.run, urgent := cur.urgent, lastStart := cur.lastStart }

/-- The end of a stop (R161): replay the log, restore E, leave the handler state, and let the fragment go on at
%fpc. -/
def endStop (s : State) (c h : Nat) (f : FaultRec) : State :=
  let s := replayLog s c h
  let g := s.group c h
  let now := (s.core c).cycle
  let cand (p : Nat × Frag) : Nat × Frag :=
    (p.1, { p.2 with faulted := false, since := if p.2.wait == .ready then Nat.max p.2.since now else p.2.since })
  let base : GroupSlot := { g with fault := none, inHandler := false, heldSig := [],
                                   sig := g.heldSig.foldl (fun m p => m.set p.1 p.2) g.sig,
                                   frags := g.frags.map cand }
  match (if f.away then none else g.frags.find? f.entry) with
  | none => s.setGroup c h base
  | some cur =>
    let k := if f.supervisor then cur else f.keep
    let back : Frag := { resumePass k cur f.heldE with since := now, faulted := false, delay := 0 }
    let w : Wait := match back.wait with
      | .regs .. => .ready
      | w => w
    let nf : Frag :=
      if g.fpc == f.pc && k.pc == f.pc then { back with wait := w, resume := f.slot, skip := some f.slot, instr := none }
      else if g.fpc == f.pc then { back.restart f.pc now with skip := some f.slot }
      else back.restart g.fpc now
    settleKept (s.setGroup c h { base with frags := base.frags.set f.entry nf }) c h f.entry

def execIret (f : FmtA) (s : State) : Host.Outcome State Fault Refusal :=
  match s.cur with
  | none => .next s
  | some r =>
    let i : Instr := .iret f
    let g := s.group r.core r.hslot
    match (if runsHandler g r.entry then g.fault else none) with
    | none =>
      -- outside a handler ILLENC, of the decode class (R153, R161)
      let q := s.frag r
      .next (takeException { s with cur := none } r
        { entry := r.entry, cause := 2, fslot := (lowest q.e).getD 0, fpc := q.pc, faddr := q.pc, fword := word0 i,
          heldE := q.e, pc := q.pc, slot := 0 })
    | some x =>
      let s := beginPass s r i
      if 2 ^ 61 ≤ g.fpc.toNat then .next (startFault s r 4 g.fpc (word0 i))
      else if g.fpc.toNat % 8 ≠ 0 then .next (startFault s r 5 g.fpc (word0 i))
      else
        -- one cycle, and one for each record replayed
        let s := tickLane (bumpCount (spend s r (weightOf 0x4C) 1) r.core 0x518 1) r g.log.length
        let s := endStop s r.core r.hslot x
        .next (if (s.group r.core r.hslot).fault.isNone then settleMerge s r else s)

/-! ## Rotation of spilled pieces (R116) and entry of handlers (R158) -/

/-- Write the fragment of an entry to the tail of the FIFO and return piece j into the entry, a candidate 8 cycles later
(R116). -/
def exchange (s : State) (c h e j : Nat) : State :=
  let g := s.group c h
  match g.frags.find? e, g.spill[j]? with
  | some f, some p =>
    let now := (s.core c).cycle
    s.setGroup c h { g with spill := g.spill.eraseIdx j ++ [f.toSpill now], frags := g.frags.set e { p.toFrag now with since := now + 8, delay := 8 } }
  | _, _ => s

def execSpillRotation (core hslot : Nat) (s : State) : Host.Outcome State Fault Refusal :=
  let g := s.group core hslot
  match g.spill with
  | [] => .next s
  | p :: _ =>
    if (s.core core).cycle < p.since + 4096 then .next s
    else
      match rotationChoice g none with
      | none => .next s
      | some e => .next (settleMerge (exchange s core hslot e 0) { core := core, hslot := hslot, entry := e })

/-- The entry that holds a slot of a group, exchanging a spilled piece into one (R158). -/
def bringSlot (s : State) (c h slot : Nat) : Option Nat × State :=
  let g := s.group c h
  match List.find? (fun p => p.2.m.getLsbD slot) g.frags with
  | some p => (some p.1, s)
  | none =>
    let j := g.spill.findIdx (fun p => p.m.getLsbD slot)
    match g.spill[j]?, rotationChoice g none with
    | some _, some e => (some e, exchange s c h e j)
    | _, _ => (none, s)

/-- The entry and slot a stop is taken in: those of the named slot, else the lowest entry's reference slot
(R158). -/
def stopPlace (s : State) (c h : Nat) (slot : Option Nat) : Option (Nat × Nat) × State :=
  let lowestEntry (s : State) : Option (Nat × Nat) :=
    ((s.group c h).frags.head?).map (fun p => (p.1, p.2.refSlot))
  match slot with
  | none => (lowestEntry s, s)
  | some sl =>
    match bringSlot s c h sl with
    | (some e, s) => (some (e, sl), s)
    | (none, s) => (lowestEntry s, s)

/-- The slot that now holds a strand. -/
def slotOfSid (g : GroupSlot) (sid : Nat) : Option Nat := (List.find? (fun p => p.2 == sid) g.sids).map Prod.fst

/-- Record a deferred fault, an engine fault or a notice, and take it. -/
def recordStop (s : State) (c h : Nat) (place : Option (Nat × Nat)) (cause slot0 : Nat) (faddr fword : W64)
    (eng : Option Bool) : State :=
  match place with
  | some (e, sl) =>
    let f := s.frag { core := c, hslot := h, entry := e }
    takeExceptionAt s { core := c, hslot := h, entry := e } f.pc
      { entry := e, cause := cause, fslot := sl, fpc := f.pc, faddr := faddr, fword := fword, heldE := f.e, pc := f.pc,
        slot := f.resume, eng := eng }
  | none =>
    -- no fragment is left: the fault goes to the supervisor
    takeExceptionAt s { core := c, hslot := h, entry := 8 } 0
      { entry := 8, cause := cause, fslot := slot0, fpc := 0, faddr := faddr, fword := fword, heldE := 0, pc := 0,
        slot := 0, eng := eng }

/-- SIG-FAIL of a merge names word 0 of the instruction that the fragment stands at, where a page holds it (R159, R342). -/
def nameWord (s : State) (c h : Nat) (x : FaultRec) : State :=
  if x.cause != 20 || x.fword != 0 then s
  else
    let w := (wordAt s c (s.teamOf c h).ctx.asid (x.fpc.toNat % 2 ^ 57)).getD 0
    s.modGroup c h (fun g => { g with fault := some { x with fword := w } })

/-- Take what a group holds at its boundary (R154, R155): a delayed entry, a trap that was held, the oldest log record, an
engine fault, a notice. -/
def execHandlerEntry (core hslot : Nat) (s : State) : Host.Outcome State Fault Refusal :=
  let g := s.group core hslot
  if !g.alloc || g.inHandler || (s.team core g.team).preempting != 0 then .next s
  else
    match g.fault with
    | some x => .next (enterHandler (if x.entered then s else nameWord s core hslot x) core hslot)
    | none =>
      match g.heldTraps, g.log with
      | (pc, x) :: rest, _ =>
        let s := s.setGroup core hslot { g with heldTraps := rest }
        .next (if (g.frags.find? x.entry).isNone then s
          else takeExceptionAt s { core := core, hslot := hslot, entry := x.entry } pc x)
      | [], l :: _ =>
        let (p, s) := stopPlace s core hslot (slotOfSid g l.acc.sid)
        .next (recordStop s core hslot p l.cause l.acc.slot l.acc.ea l.acc.word none)
      | [], [] =>
        let pick := (g.heldEng.find? (fun x => !x.notice)).orElse (fun _ => g.heldEng.head?)
        match pick with
        | none => .next s
        | some x =>
          let s := s.setGroup core hslot { g with heldEng := g.heldEng.erase x }
          let (p, s) := stopPlace s core hslot (some x.slot)
          .next (recordStop s core hslot p x.cause x.slot x.faddr x.fword (some x.notice))

end Sys2Proof.Machine
end

