-- ==== Sys2Proof/Machine/Cross.lean ====
section
/-! DEFINITION. Cross-strand exchange (R131-R136): XCHG, XSHF, SHFX and RBAL in two traversals, SCAN, RED, VOTE
and BCST in one. -/

namespace Sys2Proof.Machine

open Sys2Proof.Num

/-! ## Two traversals (R132) -/

/-- LIVEIN-WRITE alone, as the first traversal makes it (R132, R167). -/
def liveStop (s : State) (r : FragRef) (ns : List Nat) : Option Stop :=
  let f := s.frag r
  (ns.find? (fun n => vLive f (f.wbase + n))).map (fun n => .fault 17 (regAddr false n))

/-- The words that the second traversal writes at a slot, with the validity; the entries popped; and the lane cycles the
first traversal has taken, its bubbles among them (R51). -/
structure Gather where
  words : SMap (List W64) := []
  pops : List (Nat × Nat) := []
  ticks : Nat := 0
  deriving DecidableEq, Repr

/-- The first traversal: every source read, nothing written; the first strand that stops decides, after its own bubbles. -/
def gatherAll (get : Gather → Nat → Except (Nat × Stop) Gather) : List Nat → Gather → Except (Nat × Nat × Stop) Gather
  | [], k => .ok k
  | sl :: rest, k =>
    match get k sl with
    | .error x => .error (sl, x)
    | .ok k => gatherAll get rest { k with ticks := k.ticks + 1 }

/-- Wait with bubbles in the first traversal, by an operation on the lane (R51). -/
def Gather.after (k : Gather) (s : State) (r : FragRef) (wait : State → State) : Gather :=
  { k with ticks := laneNow (wait (tickLane s r k.ticks)) r - laneNow s r }

/-- Read a register that is full in the first traversal. -/
def Gather.read (k : Gather) (s : State) (r : FragRef) (slot : Nat) (x : SrcReg) : W64 × Gather :=
  ((readSource (tickLane s r k.ticks) r slot x).1, k.after s r (fun s => (readSource s r slot x).2))

/-- A pass in two traversals: gather, keep the words with the fragment, then write in slot order. `start` acts
once between the traversals. -/
def twoPass (i : Instr) (f : FmtA) (w : Nat) (get : State → FragRef → Gather → Nat → Except (Nat × Stop) Gather)
    (start : State → FragRef → Gather → Gather × State) (put : FragRef → State → Nat → List W64 → StrandRes) (s : State) : State :=
  match s.cur with
  | none => s
  | some r =>
    let s := beginPass s r i
    let second (s : State) : State :=
      let slots := activeSlots s r f.guard f.gn (s.frag r).resume
      let body (s : State) (sl : Nat) : StrandRes := put r s sl ((s.frag r).kept.words.get [] sl)
      match runStrands r w 1 body slots s with
      | (s, none) => advance (bumpCount s r.core 0x510 slots.length) r i
      | (s, some (sl, x)) => stopPass (bumpCount s r.core 0x510 (doneSlots slots sl)) r i sl x
    if (s.frag r).kept.traversal = 1 then second s
    else
      match gatherAll (fun k sl => get s r (k.after s r (fun s => awaitPreds s r sl [f.guard.toNat])) sl) (activeSlots s r f.guard f.gn 0) {} with
      | .error (sl, n, x) => stopFirst (tickLane s r n) r i sl x
      | .ok k =>
        if k.words.isEmpty then advance (tickLane s r 1) r i
        else
          let s := if k.pops.isEmpty then s else switchRegion s r i
          let s := k.pops.foldl (fun s q => (popQueue s r q.1 q.2).2) s
          let s := tickLane s r k.ticks
          let (k, s) := start s r k
          second (s.modFrag r (fun q => { q with resume := 0, kept := { q.kept with traversal := 1, words := k.words } }))

/-- The words of a pass in two traversals, with the slots and queues it pops. -/
abbrev popCount (pops : List (Nat × Nat)) (q : Nat) : Nat := (pops.filter (fun p => p.2 == q)).length

/-- Read a source of the first traversal that is known to be full; the n-th pop of a queue reads its n-th entry. -/
def gatherSrc (s : State) (r : FragRef) (slot : Nat) (k : Gather) (x : SrcReg) : Except Stop (W64 × Gather) :=
  if x.isK && 56 ≤ x.num then
    let q := x.num - 56
    let n := popCount k.pops q
    match (readyOf (s.teamOf r.core r.hslot) q (laneNow s r + k.ticks))[n]? with
    | some e => if popHeld s r q then .error (.park (.pops [(q, n + 1)])) else .ok (e.val, { k with pops := k.pops ++ [(slot, q)] })
    | none => .error (.park (.pops [(q, n + 1)]))
  else .ok (k.read s r slot x)

/-- The sources that a copy names: its data where a k register holds them, and source b (R49, R215). -/
def crossSrcs (f : FmtA) : List SrcReg :=
  (if f.ka then [{ isK := true, num := f.a.toNat, trap := f.ea : SrcReg }] else [])
    ++ (if f.lit.isNone then [{ isK := f.kb, num := f.b.toNat, trap := f.eb : SrcReg }] else [])

/-- The strand enters the lane once the sources it names can be read (R51). -/
def Gather.enter (k : Gather) (s : State) (r : FragRef) (slot : Nat) (xs : List SrcReg) : Gather :=
  k.after s r (fun s => awaitSources s r slot xs)

/-- The data of a k register, where the instruction names one, and source b as a natural 32-bit value. -/
def readNamed (s : State) (r : FragRef) (slot : Nat) (k : Gather) (f : FmtA) : Except Stop (Option W64 × Nat × Gather) :=
  let index (a : Option W64) (k : Gather) : Except Stop (Option W64 × Nat × Gather) :=
    match f.lit with
    | some v => .ok (a, v.toNat % 2 ^ 32, k)
    | none =>
      match gatherSrc s r slot k { isK := f.kb, num := f.b.toNat, trap := f.eb } with
      | .error e => .error e
      | .ok (v, k) => .ok (a, v.toNat % 2 ^ 32, k)
  if f.ka then
    match gatherSrc s r slot k { isK := true, num := f.a.toNat, trap := f.ea } with
    | .error e => .error e
    | .ok (v, k) => index (some v) k
  else index none k

/-- The word of a source slot with its validity (R132): 0 and false for an invalid one. A v register parks or traps at the
reader; `a` is the value of a k register in its place. -/
def readData (s : State) (r : FragRef) (k : Gather) (src : Option Nat) (n : Nat) (trap : Bool) (a : Option W64) :
    Except (Nat × Stop) (W64 × Bool × Gather) :=
  match src.filter (fun j => decide (j < 32) && (s.frag r).m.getLsbD j), a with
  | none, _ => .ok (0, false, k)
  | some _, some v => .ok (v, true, k)
  | some j, none =>
    let x : SrcReg := { isK := false, num := n, trap := trap }
    match checkSources s r j [x] with
    | some st => .error (k.ticks, st)
    | none =>
      let (v, k) := k.read s r j x
      .ok (v, true, k)

/-- The register of another slot that a strand reads is a source too, for which it waits before its cycle. -/
def Gather.await (k : Gather) (s : State) (r : FragRef) (src : Option Nat) (n : Nat) (a : Option W64) : Gather :=
  match src, a with
  | some j, none => k.enter s r j [{ isK := false, num := n }]
  | _, _ => k

/-- Read one strand of a copy, all in the strand's own cycle: `pick` maps its slot and source b to a source slot and a
register. A strand that parks on what it names waits for all of that (R55). -/
def readCopy (f : FmtA) (pick : Nat → Nat → Option Nat × Nat) (s : State) (r : FragRef) (k : Gather) (slot : Nat) :
    Except (Nat × Stop) (W64 × Bool × Gather) :=
  let k := k.enter s r slot (crossSrcs f)
  match checkSources s r slot (crossSrcs f) with
  | some x => .error (k.ticks, x)
  | none =>
    match readNamed s r slot k f with
    | .error x => .error (k.ticks, x)
    | .ok (a, b, _) =>
      let k := k.await s r (pick slot b).1 (pick slot b).2 a
      match readNamed s r slot k f with
      | .error x => .error (k.ticks, x)
      | .ok (a, b, k) => readData s r k (pick slot b).1 (pick slot b).2 f.ea a

/-- The validity predicate; c = 15 writes none (R131). -/
def writeValid (lat : Nat) (s : State) (r : FragRef) (slot : Nat) (f : FmtA) (ok : Bool) : State :=
  if f.c.toNat < 15 then writePreds lat s r slot [(f.c.toNat, ok)] else s

/-- Gather one strand of a copy. -/
def copyGet (f : FmtA) (pick : Nat → Nat → Option Nat × Nat) (s : State) (r : FragRef) (k : Gather) (slot : Nat) :
    Except (Nat × Stop) Gather :=
  match readCopy f pick s r k slot with
  | .error e => .error e
  | .ok (v, ok, k) =>
    match liveStop s r [f.d.toNat] with
    | some x => .error (k.ticks, x)
    | none => .ok { k with words := k.words.set slot [v, if ok then 1 else 0] }

/-- Whether an exchange reads a queue port. -/
def crossPops (f : FmtA) : Bool := (f.ka && 56 ≤ f.a.toNat) || (f.kb && f.lit.isNone && 56 ≤ f.b.toNat)

/-- Write one strand of a copy; a destination whose fill is pending parks. -/
def copyPut (f : FmtA) (r : FragRef) (s : State) (slot : Nat) (ws : List W64) : StrandRes :=
  match checkVDest s r slot [f.d.toNat] with
  | some x => .stop s x
  | none =>
    let s := putVs (crossPops f) 5 s r slot f.d.toNat [(ws.getD 0 0).truncate 32]
    .ok (writeValid 5 s r slot f (ws.getD 1 0 == 1))

def copyPass (i : Instr) (op : Nat) (f : FmtA) (pick : Nat → Nat → Option Nat × Nat) (s : State) :
    Host.Outcome State Fault Refusal :=
  .next (twoPass i f (weightOf op * typeFactor op f.ty) (copyGet f pick) (fun s _ k => (k, s)) (copyPut f) s)

def execXchg (f : FmtA) (s : State) : Host.Outcome State Fault Refusal :=
  copyPass (.xchg f) 0x50 f (fun _ b => (some b, f.a.toNat)) s

/-- The source slot of XSHF (R133). -/
def shiftSlot (fn slot b : Nat) : Option Nat :=
  match fn with
  | 0 => if b ≤ slot then some (slot - b) else none
  | 1 => some (slot + b)
  | _ => some (slot ^^^ b)

def execXshf (f : FmtA) (s : State) : Host.Outcome State Fault Refusal :=
  copyPass (.xshf f) 0x51 f (fun slot b => (shiftSlot f.fn.toNat slot b, f.a.toNat)) s

/-- SHFX: word i of a block of fn + 1 registers (R133). -/
def execShfx (f : FmtA) (s : State) : Host.Outcome State Fault Refusal :=
  copyPass (.shfx f) 0x57 f (fun _ b =>
    (if b < 32 * (f.fn.toNat + 1) then some (b % 32) else none, f.a.toNat + b / 32)) s

/-! ## BCST -/

def bcstBody (i : Instr) (f : FmtA) (r : FragRef) (s : State) (slot : Nat) : StrandRes :=
  let kept := (s.frag r).kept.words.find? 0
  let read : Except (Nat × Stop) (W64 × Bool × Gather) := match kept with
    | some ws => .ok (ws.getD 0 0, ws.getD 1 0 == 1, {})
    | none => readCopy f (fun _ b => (some b, f.a.toNat)) s r {} slot
  match read with
  | .error (n, x) => .stop (tickLane s r n) x
  | .ok (v, ok, k) =>
    let s := tickLane s r k.ticks
    match checkVDest s r slot [f.d.toNat] with
    | some x => .stop s x
    | none =>
      let s := if k.pops.isEmpty then s else switchRegion s r i
      let s := k.pops.foldl (fun s q => (popQueue s r q.1 q.2).2) s
      let ws : List W64 := [v, if ok then 1 else 0]
      let s := s.modFrag r (fun q => { q with kept := { q.kept with words := [(0, ws)] } })
      .ok (writeValid 4 (putVs (crossPops f) 4 s r slot f.d.toNat [v.truncate 32]) r slot f ok)

def execBcst (f : FmtA) (s : State) : Host.Outcome State Fault Refusal :=
  let i : Instr := .bcst f
  .next (strandPass i f.guard f.gn (weightOf 0x55 * typeFactor 0x55 f.ty) (bcstBody i f) (fun s r => advance s r i) s)

/-! ## SCAN, RED (R134) -/

/-- The code of an infinity in every element of a type. -/
def infBits (t : Ty) (neg : Bool) : Nat :=
  let one := (fmt (elemTy t)).signed neg (fmt (elemTy t)).infCode
  if t.isPair then one + one * 65536 else one

/-- The identity of an operation (R134): an integer, or the code of a float. -/
def scanIdentity (t : Ty) (op : Nat) : Int :=
  match op with
  | 1 => if isIntTy t then intMax t else infBits t false
  | 2 => if isIntTy t then intMin t else infBits t true
  | 3 => -1
  | _ => 0

/-- Combine the running value with one source (R78, R134): integer sums exact, float steps rounded. -/
def scanCombine (t : Ty) (m : Mode) (op : Nat) (acc : Int) (x : W64) : Int × BitVec 5 :=
  if isIntTy t then
    let v := intOf t x
    match op with
    | 0 => (acc + v, 0)
    | 1 => (if acc ≤ v then acc else v, 0)
    | 2 => (if acc ≤ v then v else acc, 0)
    | 3 => (intOf t (.ofInt 64 acc &&& .ofInt 64 v), 0)
    | 4 => (intOf t (.ofInt 64 acc ||| .ofInt 64 v), 0)
    | _ => (intOf t (.ofInt 64 acc ^^^ .ofInt 64 v), 0)
  else
    let (r, fl) := match op with
      | 0 => lift2 t (fadd1 (elemTy t) m) acc.toNat x.toNat
      | 1 => lift2 t (fminmax1 (elemTy t) false) acc.toNat x.toNat
      | _ => lift2 t (fminmax1 (elemTy t) true) acc.toNat x.toNat
    ((r.toNat : Int), fl)

/-- What a register receives of the running value (R83). -/
def scanDeliver (t : Ty) (m : Mode) (acc : Int) : W64 × BitVec 5 :=
  if isIntTy t then deliverInt t m acc else (.ofNat 64 acc.toNat, 0)

def scanSrc (f : FmtA) : SrcReg := { isK := f.ka, num := f.a.toNat, pair := f.ty.is64 && !f.ka, trap := f.ea }

/-- The result latency of SCAN and RED: 5 for 64-bit integers, which take 2 lane cycles per strand (R50; log entry 51). -/
def scanLatency (f : FmtA) : Nat := if f.ty.is64 then 5 else 4

/-- The running value of a pass, kept across a park (R132). -/
def keepAcc (s : State) (r : FragRef) (v : Int) : State :=
  s.modFrag r (fun q => { q with kept := { q.kept with acc := some v } })

def scanBody (i : Instr) (f : FmtA) (r : FragRef) (s : State) (slot : Nat) : StrandRes :=
  let op := f.fn.toNat % 8
  let x := scanSrc f
  let ds := if f.ty.is64 then [f.d.toNat, f.d.toNat + 1] else [f.d.toNat]
  let s := awaitSources s r slot [x]
  match ((checkSources s r slot [x]).orElse (fun _ => checkPorts s r [x])).orElse (fun _ => checkVDest s r slot ds) with
  | some st => .stop s st
  | none =>
    let s := if usesPort [x] false 0 then switchRegion s r i else s
    let (v, s) := readSource s r slot x
    let acc := ((s.frag r).kept.acc).getD (scanIdentity f.ty op)
    let (acc', f1) := scanCombine f.ty f.mode op acc v
    let (out, f2) := scanDeliver f.ty f.mode (if f.fn.getLsbD 3 then acc else acc')
    let s := orFlags (keepAcc s r acc') r (f1 ||| f2) (scanLatency f)
    .ok (putVs (popsPort [x]) (scanLatency f) s r slot f.d.toNat (vWords f.ty.is64 out))

def execScan (f : FmtA) (s : State) : Host.Outcome State Fault Refusal :=
  let i : Instr := .scan f
  .next (strandPass i f.guard f.gn (weightOf 0x52 * typeFactor 0x52 f.ty) (scanBody i f) (fun s r => advance s r i) s)

/-- Whether a slot is the last active one of its pass. -/
def isLast (s : State) (r : FragRef) (f : FmtA) (slot : Nat) : Bool :=
  (activeSlots s r f.guard f.gn 0).getLast? == some slot

def redBody (i : Instr) (f : FmtA) (r : FragRef) (s : State) (slot : Nat) : StrandRes :=
  let op := f.fn.toNat
  let x := scanSrc f
  let last := isLast s r f slot
  let dst := if last then checkKDest s r slot [f.d.toNat] [x] else none
  let s := awaitSources s r slot [x]
  match ((checkSources s r slot [x]).orElse (fun _ => checkPorts s r [x])).orElse (fun _ => dst) with
  | some st => .stop s st
  | none =>
    let s := if usesPort [x] false 0 then switchRegion s r i else s
    let (v, s) := readSource s r slot x
    let acc := ((s.frag r).kept.acc).getD (scanIdentity f.ty op)
    let (acc', f1) := scanCombine f.ty f.mode op acc v
    let s := orFlags (keepAcc s r acc') r f1 (scanLatency f)
    if last then
      let (out, f2) := scanDeliver f.ty f.mode acc'
      let s := orFlags s r f2 (scanLatency f)
      .ok (if popsPort [x] then fillLater s r slot true f.d.toNat [out] else writeKAt s r f.d.toNat out (scanLatency f))
    else .ok s

def execRed (f : FmtA) (s : State) : Host.Outcome State Fault Refusal :=
  let i : Instr := .red f
  .next (strandPass i f.guard f.gn (weightOf 0x53 * typeFactor 0x53 f.ty) (redBody i f) (fun s r => advance s r i) s)

/-! ## VOTE (R135) -/

def voteBody (f : FmtA) (r : FragRef) (s : State) (slot : Nat) : StrandRes :=
  let last := isLast s r f slot
  match (if last then checkKDest s r slot [f.d.toNat] [] else none) with
  | some x => .stop s x
  | none =>
    let s := awaitPreds s r slot [f.a.toNat % 16]
    let q := (strandAt s r slot).preds16.getLsbD (f.a.toNat % 16)
    let acc := ((s.frag r).kept.acc).getD 0 + (if q then 2 ^ slot else 0)
    let s := keepAcc s r acc
    if !last then .ok s
    else
      let mask := (maskOf (activeSlots s r f.guard f.gn 0)).toNat
      let v : W64 := match f.fn.toNat with
        | 0 => .ofNat 64 acc.toNat
        | 1 => if acc = 0 then 0 else 1
        | _ => if acc.toNat = mask then 1 else 0
      .ok (writeK s r f.d.toNat v)

def execVote (f : FmtA) (s : State) : Host.Outcome State Fault Refusal :=
  let i : Instr := .vote f
  .next (strandPass i f.guard f.gn (weightOf 0x54) (voteBody f) (fun s r => advance s r i) s)

/-! ## RBAL (R136) -/

/-- The first traversal: each strand's length; the cursor at the first active strand. -/
def rbalGet (f : FmtA) (s : State) (r : FragRef) (k : Gather) (slot : Nat) : Except (Nat × Stop) Gather :=
  let first := k.words.isEmpty
  let len : SrcReg := { isK := f.ka, num := f.a.toNat, trap := f.ea }
  let xs : List SrcReg := if first then [len, { isK := true, num := f.c.toNat, trap := f.ec }] else [len]
  let k := k.enter s r slot xs
  match checkSources s r slot xs with
  | some x => .error (k.ticks, x)
  | none =>
    match gatherSrc s r slot k len with
    | .error x => .error (k.ticks, x)
    | .ok (len, k) =>
      match (if first then checkKDest s r slot [f.c.toNat] [] else none).orElse (fun _ => liveStop s r [f.d.toNat, f.d.toNat + 1]) with
      | some x => .error (k.ticks, x)
      | none => .ok { k with words := k.words.set slot [len] }

/-- The row and position of p among rows laid end to end, by slot. -/
def rbalFind : List (Nat × Nat) → Nat → W64 × W64
  | [], _ => (0xFFFFFFFF, 0)
  | (slot, len) :: rest, p => if p < len then (.ofNat 64 slot, .ofNat 64 p) else rbalFind rest (p - len)

/-- Between the traversals: the pairs dealt, and the cursor, which is read and written in the first cycle of the second
(log entry 52). -/
def rbalStart (f : FmtA) (s : State) (r : FragRef) (k : Gather) : Gather × State :=
  let rows := k.words.map (fun p => (p.1, (p.2.getD 0 0).toNat % 2 ^ 32))
  let cur := (kSeen (s.group r.core r.hslot) (s.frag r).m f.c.toNat (laneNow s r)).toNat
  let dealt := k.words.zipIdx.map (fun p =>
    let (a, b) := rbalFind rows (cur + p.2)
    (p.1.1, [a, b]))
  ({ k with words := dealt }, writeKAt s r f.c.toNat (.ofNat 64 (cur + k.words.length)) 5)

def rbalPut (f : FmtA) (r : FragRef) (s : State) (slot : Nat) (ws : List W64) : StrandRes :=
  match checkVDest s r slot [f.d.toNat, f.d.toNat + 1] with
  | some x => .stop s x
  | none => .ok (putVs (f.ka && 56 ≤ f.a.toNat) 5 s r slot f.d.toNat [(ws.getD 0 0).truncate 32, (ws.getD 1 0).truncate 32])

def execRbal (f : FmtA) (s : State) : Host.Outcome State Fault Refusal :=
  .next (twoPass (.rbal f) f (weightOf 0x56) (rbalGet f) (rbalStart f) (rbalPut f) s)

end Sys2Proof.Machine
end

