-- ==== Sys2Proof/Machine/Array.lean ====
section
/-! DEFINITION. The array of the matrix engine (R255, R258, R259, R264-R270, R275): its tiles and commands, and which command fills next,
what a started command does in each core cycle of its fill and of its run, and the known-answer operations (R277). -/

namespace Sys2Proof.Machine

/-! ## Tiles (R255) -/

def State.tile (s : State) (c bank z : Nat) : Tile := ((s.core c).banks.get {} bank).tiles.get {} z

def State.setTile (s : State) (c bank z : Nat) (t : Tile) : State :=
  s.modCore c (fun k => { k with banks := k.banks.update {} bank (fun (b : Bank) => { b with tiles := b.tiles.set z t }) })

def Tile.elem (t : Tile) (row col : Nat) : W32 := t.elems.get 0 (64 * row + col)

def Tile.put (t : Tile) (row col : Nat) (v : W32) : Tile := { t with elems := SMap.put 0 t.elems (64 * row + col) v }

/-- The status word. -/
def Tile.status (t : Tile) : W64 := .ofNat 64 ((if t.wrap then 256 else 0) + t.tag)

/-! ## Descriptors (R261) -/

def MxCmd.w (m : MxCmd) (n : Nat) : W64 := m.desc.getD n 0
def MxCmd.abase (m : MxCmd) : Nat := bitsAt (m.w 0) 0 20
def MxCmd.bbase (m : MxCmd) : Nat := bitsAt (m.w 0) 32 20
def MxCmd.astr (m : MxCmd) : Nat := bitsAt (m.w 1) 32 16 * 1024
def MxCmd.bstr (m : MxCmd) : Nat := bitsAt (m.w 1) 48 16 * 1024
def MxCmd.nb (m : MxCmd) : Nat := bitsAt (m.w 1) 0 6 + 1
def MxCmd.mbase (m : MxCmd) : Nat := bitsAt (m.w 2) 32 20
def MxCmd.hoff (m : MxCmd) : Nat := bitsAt (m.w 2) 16 16 * 1024
def MxCmd.mstr (m : MxCmd) : Nat := bitsAt (m.w 2) 0 16 * 256
def MxCmd.st (m : MxCmd) : Bool := m.op == 0xCC && (m.w 0).getLsbD 63
def MxCmd.wclr (m : MxCmd) : Bool := (m.w 0).getLsbD 62
def MxCmd.cols (m : MxCmd) : Nat := bitsAt (m.w 0) 16 4
def MxCmd.col0 (m : MxCmd) : Nat := bitsAt (m.w 0) 8 6
def MxCmd.row0 (m : MxCmd) : Nat := bitsAt (m.w 0) 0 6

/-- The registers that a strand gives or receives. -/
def MxCmd.width (m : MxCmd) : Nat := if m.st then 1 else m.cols

def MxCmd.isMma (m : MxCmd) : Bool := m.op == 0xC8 || m.op == 0xC9
def MxCmd.isArray (m : MxCmd) : Bool := 0xC8 ≤ m.op && m.op ≤ 0xCB

/-- MMAS, which takes a compressed B (R259). -/
def MxCmd.sparse (m : MxCmd) : Bool := m.op == 0xC9

/-- The tiles a command names: MSCA names two (R264). -/
def MxCmd.names (m : MxCmd) : List Nat := if m.op == 0xCA then [m.zd, m.zs] else [m.zd]

/-! ## Queues and order (R263-R266) -/

/-- Commands of a queue that hold an entry: those not started (R264). -/
def heldEntries (q : List MxCmd) (bank : Nat) : Nat := (q.filter (fun m => m.bank == bank && !m.started)).length

/-- Arrival order: by cycle, then by group slot (R263). -/
def MxCmd.before (a b : MxCmd) : Bool :=
  if a.at_ ≠ b.at_ then a.at_ < b.at_ else if a.hslot ≠ b.hslot then a.hslot < b.hslot else a.id < b.id

/-- Whether an earlier command of either queue of the bank names a tile of this one and has not completed, or ran in the
present cycle (R264-R266). -/
def tileBusy (k : Core) (m : MxCmd) : Bool :=
  (k.array ++ k.port).any (fun x => x.bank == m.bank && x.before m && x.names.any m.names.contains)
    || m.names.any (fun z => match k.zlast.find? (8 * m.bank + z) with | some t => decide (k.cycle ≤ t) | none => false)

/-- The cycles of a command's run (R265). -/
def runCycles (m : MxCmd) : Nat := if m.isMma then m.pa * m.pb * m.nb else if m.op == 0xCA then 16 else 4

/-! ## Metadata and scales (R259, R268-R270, R274) -/

/-- The nibble of a group of a column of block b, as the fill read it: its byte's address and its value. -/
def metaNibble (m : MxCmd) (b col g : Nat) : Nat × Nat :=
  (m.mbase + m.mstr * b + 32 * col + g / 2, (((m.nibbles.get [] b).getD (32 * col + g / 2) 0).toNat) / 16 ^ (g % 2) % 16)

/-- The first metadata entry that is not well formed, as %faddr of SPARSE-META (R274). -/
def metaFault (m : MxCmd) : Option W64 :=
  (List.range m.nb).findSome? (fun b => (List.range 64).findSome? (fun col => (List.range 64).findSome? (fun g =>
    let (a, v) := metaNibble m b col g
    if v % 4 < v / 4 then none
    else some (.ofNat 64 (b % 64 * 2 ^ 48 + m.zd * 2 ^ 45 + col * 2 ^ 36 + g * 2 ^ 30 + a % 2 ^ 20)))))

/-- Read the metadata of one block. An uncorrectable error in it stops the command, with cause 0. -/
def readMeta (t : Team) (m : MxCmd) (b : Nat) : MxCmd :=
  let a := m.mbase + m.mstr * b
  let m := { m with nibbles := m.nibbles.set b (localBytes t a 2048) }
  if localBad t a 2048 then { m with stop := some (0, 0) } else m

/-- The check of one scale tile (R270): a misaligned base or the first empty granule, as %faddr. -/
def scaleFault (t : Team) (base : Nat) (isB : Bool) : Option W64 :=
  let tile := if isB then 2 ^ 32 else 0
  if base % 128 ≠ 0 then some (.ofNat 64 (2 ^ 33 + tile + base))
  else ((granules base 128).find? (fun g => !t.full.contains g)).map (fun g => .ofNat 64 (tile + 16 * g))

/-- Scale i of the tile at a base (R269). -/
def scaleAt (t : Team) (base i : Nat) : Nat := bytesVal (localBytes t (base + 2 * (i % 8 * 8 + i / 8)) 2)

/-- The first cycle of an MSCA's fill: both scale tiles are checked and read (R270). -/
def readScales (t : Team) (m : MxCmd) : MxCmd :=
  match (scaleFault t m.abase false).orElse (fun _ => scaleFault t m.bbase true) with
  | some a => { m with stop := some (19, a), len := 4 }
  | none =>
    if localBad t m.abase 128 || localBad t m.bbase 128 then { m with stop := some (0, 0), len := 4 }
    else { m with scales := (List.range 64).map (scaleAt t m.abase) ++ (List.range 64).map (scaleAt t m.bbase) }

/-- Cycle n of a fill. An MMAS reads the metadata of 16 blocks in it (R268: up to 16), and is stopped, or not, as the fill ends. -/
def fillCycle (t : Team) (m : MxCmd) (n : Nat) : MxCmd :=
  if m.op == 0xCA then (if n = 0 then readScales t m else m)
  else if m.sparse then
    let m := ((List.range 16).map (16 * n + ·)).foldl (fun m b => if b < m.nb then readMeta t m b else m) m
    if n < 3 then m
    else
      let stop := m.stop.orElse (fun _ => (metaFault m).map (fun a => (18, a)))
      if stop.isSome then { m with stop := stop, len := 4 } else m
  else m

/-! ## Planes (R258, R259, R267) -/

/-- Ones of a number of at most 2^n. -/
def ones : Nat → Nat → Nat
  | 0, _ => 0
  | n + 1, x => x % 2 + ones n (x / 2)

/-- The weight of plane p of an operand of precision n. -/
def planeWeight (signed : Bool) (n p : Nat) : Int := if signed && p + 1 = n then -(2 ^ p : Nat) else (2 ^ p : Nat)

/-- Row or column i of a plane as one number: bit k is the bit of K position k. -/
def planeBits (t : Team) (plane i : Nat) : Nat := bytesVal (localBytes t (plane + 16 * i) 16)

/-- Where plane p of A and of B of block b stand. -/
def MxCmd.planeA (m : MxCmd) (b p : Nat) : Nat := m.abase + m.astr * b + 1024 * p
def MxCmd.planeB (m : MxCmd) (b p : Nat) : Nat := m.bbase + m.bstr * b + 1024 * p

/-- Row i of plane p of A of block b: both halves for MMAS. -/
def rowA (t : Team) (m : MxCmd) (b p i : Nat) : Nat :=
  let lo := planeBits t (m.planeA b p) i
  if m.sparse then lo + 2 ^ 128 * planeBits t (m.planeA b p + m.hoff) i else lo

/-- The K positions that the kept positions of a column stand for. -/
def keptPositions (m : MxCmd) (b col : Nat) : List Nat :=
  (List.range 128).map (fun q => 4 * (q / 2) + (metaNibble m b col (q / 2)).2 / 4 ^ (q % 2) % 4)

/-- The bits of a 256-bit row at listed positions, as one number. -/
def pickBits (x : Nat) : List Nat → Nat
  | [] => 0
  | p :: r => (if x.testBit p then 1 else 0) + 2 * pickBits x r

/-- The bits of a row of A that meet the bits of column j of B. -/
def meetBits (m : MxCmd) (row : Nat) (kept : List Nat) : Nat := if m.sparse then pickBits row kept else row

/-- What plane pair (p, q) of block b adds to each element, by 64 × row + column. -/
def pairSums (t : Team) (m : MxCmd) (b p q : Nat) : List Int :=
  let w := planeWeight m.sgnA m.pa p * planeWeight m.sgnB m.pb q
  let cols := (List.range 64).map (fun j => (planeBits t (m.planeB b q) j, if m.sparse then keptPositions m b j else []))
  ((List.range 64).map (fun i =>
    let row := rowA t m b p i
    cols.map (fun c => w * (ones 128 (meetBits m row c.2 &&& c.1) : Nat)))).flatten

/-- Whether a plane that pair (p, q) of block b reads is poisoned. -/
def pairPoison (t : Team) (m : MxCmd) (b p q : Nat) : Bool :=
  localBad t (m.planeA b p) 1024 || (m.sparse && localBad t (m.planeA b p + m.hoff) 1024) || localBad t (m.planeB b q) 1024

/-- Run cycle n of MMA or MMAS: one plane pair, A's planes in the outer loop. A command that an error has stopped reads no
more. -/
def runPair (t : Team) (m : MxCmd) (n : Nat) : MxCmd :=
  let b := n / (m.pa * m.pb)
  let p := n / m.pb % m.pa
  let q := n % m.pb
  if m.stop.isSome then m
  else if pairPoison t m b p q then { m with stop := some (0, 0) }
  else
    let new := pairSums t m b p q
    { m with sums := m.sums.set b (match m.sums.find? b with | some old => List.zipWith (· + ·) old new | none => new) }

/-! ## The cycles of a started command -/

/-- The next cycle of a started command. -/
def mxCycle (t : Team) (m : MxCmd) : MxCmd :=
  let n := m.spent
  let m := { m with spent := n + 1 }
  if n < 4 then fillCycle t m n else if m.isMma then runPair t m (n - 4) else m

/-- The carats of the next cycle of a command (R306): 128 in the fill; in the run as the command does, once stopped none. -/
def cycleCharge (m : MxCmd) : Nat :=
  if m.spent < 4 then 128
  else if m.stop.isSome then 0
  else if m.isMma then 1280
  else if m.op == 0xCA then 1024 else 64

/-- The array runs the next cycle of a command; a run cycle counts in LCNT14 (R337). -/
def mxTick (s : State) (c : Nat) (m : MxCmd) : State :=
  let s := charge s c m.hslot (cycleCharge m)
  let m' := mxCycle (s.team c m.team) m
  s.modCore c (fun k => { k with array := k.array.map (fun x => if x.id == m.id then m' else x),
                                 regs := if m.spent < 4 then k.regs else k.regs.set 0x570 (k.regs.get 0 0x570 + 1) })

/-- At most `n` further cycles of the command of an identity, up to the core's present cycle. -/
def mxCatch (c id : Nat) : Nat → State → State
  | 0, s => s
  | n + 1, s =>
    match (s.core c).array.find? (fun m => m.id == id) with
    | none => s
    | some m => if m.spent < m.len && m.t0 + m.spent ≤ (s.core c).cycle then mxCatch c id n (mxTick s c m) else s

/-- The cycles that a started command has yet to run up to the core's present one. -/
def mxOwed (s : State) (c : Nat) (m : MxCmd) : Nat := (s.core c).cycle + 1 - (m.t0 + m.spent)

/-! ## The slot table (R257) and the next fill (R265) -/

/-- Whether a self-test drain has stopped a cluster from taking teams (R301). -/
def clusterDraining (s : State) (cl : Nat) : Bool := s.parts.any (fun p => p.2.draining.any (fun d => d.1 == cl))

/-- The head of a bank's array queue. -/
def arrayHead (k : Core) (bank : Nat) : Option MxCmd := k.array.find? (fun m => m.bank == bank && !m.started)

/-- Whether every slot is treated as granting a bank, until its array queue is empty: pre-emption, a drain or a retirement
waits for it. -/
def bankForced (s : State) (c bank : Nat) : Bool :=
  let k := s.core c
  match (k.banks.get {} bank).owner with
  | none => false
  | some ti =>
    let t := s.team c ti
    (t.preempting ≠ 0 || clusterDraining s (clusterOf c) || (t.started && (liveSids t).isEmpty)) && (arrayHead k bank).isSome

/-- Whether the current slot, (GT div 1,000) mod 16, grants a bank. -/
def bankGranted (s : State) (c bank : Nat) : Bool :=
  let k := s.core c
  let grant := bitsAt (k.regs.get 0xFFFFFFFF 0) (2 * (s.gt / 1000 % 16)) 2
  if bankForced s c 0 || bankForced s c 1 then bankForced s c bank
  else if (k.banks.get {} (1 - bank)).owner.isNone then grant ≠ 0
  else grant / 2 ^ bank % 2 = 1

/-- Whether the array takes another fill: no known-answer operation runs in it (R277), and the last command that began has at most
three cycles to go after this one and, if an MMAS, its fill is over (R265). -/
def arrayFree (k : Core) : Bool :=
  (match k.kat with
  | some x => decide (x.ends ≤ k.cycle)
  | none => true)
  && k.zlast.find? 17 != some k.cycle
  && match (k.array.filter (fun m => m.started)).getLast? with
  | none => true
  | some p => decide (p.t0 + p.len ≤ k.cycle + 4) && (!p.sparse || decide (p.t0 + 4 ≤ k.cycle))

/-- The head of a bank's array queue, where it is ready to fill in this cycle (R257, R265). -/
def readyToFill (s : State) (c bank : Nat) : Option MxCmd :=
  let k := s.core c
  (arrayHead k bank).filter (fun m => decide (m.at_ ≤ k.cycle) && !tileBusy k m && bankGranted s c bank)

/-! ## Known-answer operations (R277) -/

/-- The partition that a cluster belongs to. -/
def partitionOf (s : State) (cl : Nat) : Option Nat :=
  (List.range 8).find? (fun p => ((s.part p).regs.get 0 0).getLsbD cl)

/-- Write an entry of a die's error ring. -/
def logError (s : State) (d unit_ kind who addr : Nat) : State :=
  let x := s.die d
  let n := (x.regs.get 0 0x4030).toNat % 16
  let a := 0x4100 + 32 * n
  let w2 := unit_ % 256 * 2 ^ 24 + kind % 256 * 2 ^ 16 + who % 65536
  let put (m : SMap W64) (p : Nat × Nat) : SMap W64 := m.set p.1 (.ofNat 64 p.2)
  let regs := [(a, s.gt), (a + 8, addr), (a + 16, w2), (a + 24, 0)].foldl put x.regs
  s.modDie d (fun x => { x with regs := regs.set 0x4030 (regs.get 0 0x4030 + 1) })

/-- Whether the array of a core is idle: no command is in it, and no queue holds one that is ready to fill (R277). -/
def arrayIdle (s : State) (core : Nat) : Bool :=
  !(s.core core).array.any MxCmd.started && (readyToFill s core 0).isNone && (readyToFill s core 1).isNone

/-- A mismatch is counted and logged, and its cluster will be drained. -/
def katMismatch (s : State) (core : Nat) : State :=
  let s := s.modCore core (fun k => { k with regs := k.regs.set 0x18 (k.regs.get 0 0x18 + 1) })
  let s := logError s (dieOf core) 7 3 core 0
  let cl := clusterOf core
  match partitionOf s cl with
  | some p => s.modPart p (fun x =>
      if x.dueDrain.contains cl || x.draining.any (fun d => d.1 == cl) then x else { x with dueDrain := x.dueDrain ++ [cl] })
  | none => s

/-- The known-answer operation of a core at the end of a cycle: one that waits has begun in it where the array was idle, and is in
the array for 5 cycles; after the last of them its result is compared. -/
def katCycle (s : State) (c : Nat) : State :=
  let k := s.core c
  match k.kat with
  | none => s
  | some x =>
    if x.ends = 0 then
      if arrayIdle s c then s.setCore c { k with kat := some { x with ends := k.cycle + 5 } } else s
    else if x.ends ≤ k.cycle + 1 then
      let s := s.setCore c { k with kat := none }
      if x.mismatch then katMismatch s c else s
    else s

/-- The array ends a core cycle: its reads follow every local write of the cycle (R275, log entry 20). -/
def arrayCycle (s : State) (c : Nat) : State :=
  katCycle (((s.core c).array.filter (fun m => m.started)).foldl (fun s m => mxCatch c m.id (mxOwed s c m) s) s) c

end Sys2Proof.Machine
end

