-- ==== Sys2Proof/Machine/System.lean ====
section
/-! DEFINITION. Special registers (R110-R112), STEP (R308-R310), TRC and LCLK (R332), HALTB and INSP (R333-R335,
R348), CMNT and ATLBI (R194-R196), LAUNCH up to its run (R294, R295), and the stall reasons (R336). -/

namespace Sys2Proof.Machine

/-! ## MFS, MTS (R110-R112) -/

/-- %step (R310). -/
def stepWord (x : StepRec) : W64 :=
  .ofNat 64 ((if x.opened then 2 ^ 63 else 0) + (if x.risk then 2 ^ 62 else 0) + x.count % 2 ^ 14 * 2 ^ 48
    + x.deadline % 2 ^ 48)

/-- The value of a special register as a slot of a fragment reads it in its cycle (R69, R110, R111, R307). -/
def readSreg (s : State) (r : FragRef) (slot : Nat) (x : SReg) : W64 :=
  let g := s.group r.core r.hslot
  let t := s.team r.core g.team
  let f := s.frag r
  match x with
  | .sid => .ofNat 64 (sidOf g slot)
  | .slot => .ofNat 64 slot
  | .gid => .ofNat 64 g.gid
  | .team => .ofNat 64 t.index
  | .gang => .ofNat 64 t.gang
  | .nstr => .ofNat 64 t.nstr
  | .nteam => .ofNat 64 t.nteam
  | .role => .ofNat 64 g.role
  | .core => .ofNat 64 r.core
  | .exm => f.e.zeroExtend 64
  | .wbase => .ofNat 64 f.wbase
  | .flags => flagsWord (flagsSeen g (laneNow s r))
  | .gt => .ofNat 64 (gtIn s r.core (laneNow s r))
  | .lclk => .ofNat 64 g.lclk
  | .sig => (sigOf g f).zeroExtend 64
  | .pkr => lateSeen g f.m 64 (laneNow s r) g.pkr
  | .ebase => t.ctx.ebase
  | .cause => .ofNat 64 g.cause
  | .fslot => .ofNat 64 g.fslot
  | .fpc => lateSeen g f.m 65 (laneNow s r) g.fpc
  | .faddr => g.faddr
  | .fword => g.fword
  | .step => stepWord g.step
  | .carat => .ofNat 64 (caratSeen g (laneNow s r))
  | .quota => .ofInt 64 (s.quotas.get 0 t.ctx.asid)

/-- MFS waits for what the fragment's own earlier passes have written to the register (R51, R110). -/
def awaitSreg (s : State) (r : FragRef) (x : SReg) : State :=
  match x with
  | .flags => awaitFlags s r
  | .pkr => awaitK s r 64
  | .fpc => awaitK s r 65
  | .exm => awaitK s r 66
  | _ => s

def execMfs (f : FmtS) (s : State) : Host.Outcome State Fault Refusal :=
  let i : Instr := .mfs f
  let body (r : FragRef) (s : State) (slot : Nat) : StrandRes :=
    let ns := if f.sreg.is64 then [f.reg.toNat, f.reg.toNat + 1] else [f.reg.toNat]
    match (if f.u then checkKDest s r slot [f.reg.toNat] [] else checkVDest s r slot ns) with
    | some x => .stop s x
    | none =>
      let s := if usesPort [] f.u f.reg.toNat then switchRegion s r i else s
      let s := awaitSreg s r f.sreg
      let v := readSreg s r slot f.sreg
      .ok (if f.u then writeK s r f.reg.toNat v else writeVs s r slot f.reg.toNat (vWords f.sreg.is64 v))
  .next (if f.u then uniformPass i f.guard f.gn (weightOf 0x38) body (fun s r => advance s r i) s
    else strandPass i f.guard f.gn (weightOf 0x38) body (fun s r => advance s r i) s)

/-- MTS %flags in a cycle: the value replaces the flags, sets that take effect later stay, and others see the write 4 cycles
later (R69, R112). -/
def writeFlags (g : GroupSlot) (m : W32) (at_ now : Nat) (v : BitVec 5) : GroupSlot :=
  let later (x : Late) : BitVec 5 := match x with | .fset b _ t => if at_ < t then b else 0 | _ => 0
  { noteFlags g now (.fput v m at_) with flags := g.late.foldl (fun a x => a ||| later x) v }

/-- MTS has written a register of the group or of the fragment, whose old value others read for 4 cycles (R110, R112). -/
def noteSreg (s : State) (r : FragRef) (n : Nat) (old : W64) : State :=
  let m := (s.frag r).m
  let t := laneNow s r + 4
  let cycle := (s.core r.core).cycle
  s.modGroup r.core r.hslot (fun g => { g with late := addLate cycle g.late (.kreg n old m t) })

/-- Write a writable special register; a write to another has no effect, since it does not decode (R57, R69, R112). -/
def writeSreg (s : State) (r : FragRef) (x : SReg) (v : W64) : State :=
  let g := s.group r.core r.hslot
  match x with
  | .exm => (noteSreg s r 66 ((s.frag r).e.zeroExtend 64)).modFrag r (fun f => { f with e := v.truncate 32 &&& f.m })
  | .flags => s.modGroup r.core r.hslot (fun g => writeFlags g (s.frag r).m (laneNow s r) (s.core r.core).cycle (flagsOf v))
  | .pkr => (noteSreg s r 64 g.pkr).modGroup r.core r.hslot (fun g => { g with pkr := v })
  | .fpc => (noteSreg s r 65 g.fpc).modGroup r.core r.hslot (fun g => { g with fpc := v })
  | _ => s

def mtsSrc (f : FmtS) : SrcReg :=
  let k := f.u || f.kr
  { isK := k, num := f.reg.toNat, pair := !k && f.sreg.is64, trap := f.er }

/-- One write of MTS, with the source at the reference slot: a queue port gives the pass one entry (log entry 41). -/
def mtsBody (i : Instr) (f : FmtS) (r : FragRef) (s : State) (slot : Nat) : StrandRes :=
  let x := mtsSrc f
  let s := awaitSources s r slot [x]
  match (checkSources s r slot [x]).orElse (fun _ => checkPorts s r [x]) with
  | some st => .stop s st
  | none =>
    let s := if usesPort [x] false 0 then switchRegion s r i else s
    let (v, s) := readSource s r slot x
    .ok (writeSreg s r f.sreg v)

/-- Strands execute one after the other, each charged in its own cycle (R304). -/
def spendEach (s : State) (r : FragRef) (w : Nat) : Nat → State
  | 0 => s
  | n + 1 => spendEach (spend s r w 1) r w n

def execMts (f : FmtS) (s : State) : Host.Outcome State Fault Refusal :=
  let i : Instr := .mts f
  if f.u then .next (uniformPass i f.guard f.gn (weightOf 0x39) (mtsBody i f) (fun s r => advance s r i) s)
  else
    match s.cur with
    | none => .next s
    | some r =>
      let s := beginPass s r i
      let n := (activeSlots s r f.guard f.gn 0).length
      let ref := (s.frag r).refSlot
      if n = 0 then .next (advance (tickLane s r 1) r i)
      else
        let s := (activeSlots s r f.guard f.gn 0).foldl (fun s sl => awaitPreds s r sl [f.guard.toNat]) s
        match mtsBody i f r s ref with
        | .stop s x => .next (stopFirst s r i ref x)
        | .ok s => .next (advance (bumpCount (spendEach s r (weightOf 0x39) n) r.core 0x510 n) r i)

/-! ## STEP (R308, R309) -/

/-- Close the group's step. -/
def closeStep (x : StepRec) : StepRec := { x with opened := false, risk := false, atRisk := false }

/-- Open a step in a cycle of a core: what its passes have charged in later cycles counts to it. -/
def openStep (x : StepRec) (slot cycle ahead tick phase work deadline : Nat) : StepRec :=
  { opened := true, risk := false, count := x.count + 1, deadline := deadline, work := work, charged := ahead, slot := slot,
    rho := 0, rhoDen := 1, periodCarat := ahead, periodCycle := cycle, atRisk := false, cycle := cycle, tick := tick,
    phase := phase }

/-- The step that a STEP of a fragment opens in the cycle of its pass (R309). -/
def openStepAt (s : State) (r : FragRef) (x : StepRec) (work deadline : Nat) : StepRec :=
  let k := s.core r.core
  let cl := clusterOf r.core
  let at_ := laneNow s r - 1
  openStep (closeStep x) (s.frag r).refSlot at_ (caratsAfter (s.group r.core r.hslot).late at_)
    (s.gov.domains.get {} (domainOf s cl)).tick (k.phase + (at_ - k.cycle) * periodAt (pointOf s cl)) work deadline

def stepPass (i : Instr) (f : FmtA) (act : State → FragRef → StepRec → StepRec) (s : State) : Host.Outcome State Fault Refusal :=
  let srcs : List SrcReg := match i with
    | .stepEnd _ => []
    | _ => [{ isK := true, num := f.a.toNat, trap := f.ea }, { isK := true, num := f.b.toNat, trap := f.eb }]
  .next (uniformPass i f.guard f.gn (weightOf 0x58)
    (fun r s slot =>
      let s := awaitSources s r slot srcs
      match checkSources s r slot srcs with
      | some x => .stop s x
      | none => .ok (switchRegion (readAll s r slot srcs).2 r i))
    (fun s r =>
      let s := s.modGroup r.core r.hslot (fun g => { g with step := act s r g.step })
      let s := emitTrace s r 9 f.fn.toNat (s.frag r).refSlot (stepWord (s.group r.core r.hslot).step).toNat
      advance s r i) s)

/-- The cycle of a uniform pass that has just been charged. -/
def passCycle (s : State) (r : FragRef) : Nat := laneNow s r - 1

/-- The work and deadline registers, as the pass reads them. -/
def stepArgs (s : State) (r : FragRef) (f : FmtA) : Nat × Nat :=
  let read (n : Nat) : Nat := (kSeen (s.group r.core r.hslot) (s.frag r).m n (passCycle s r)).toNat
  (read f.a.toNat, read f.b.toNat)

def execStepRel (f : FmtA) (s : State) : Host.Outcome State Fault Refusal :=
  stepPass (.stepRel f) f (fun s r x =>
    let (w, b) := stepArgs s r f
    openStepAt s r x w (gtIn s r.core (passCycle s r) + b)) s

def execStepAbs (f : FmtA) (s : State) : Host.Outcome State Fault Refusal :=
  stepPass (.stepAbs f) f (fun s r x =>
    let (w, b) := stepArgs s r f
    openStepAt s r x w b) s

def execStepEnd (f : FmtA) (s : State) : Host.Outcome State Fault Refusal :=
  stepPass (.stepEnd f) f (fun _ _ x => closeStep x) s

/-! ## TRC, LCLK (R332) -/

def execTrc (f : FmtA) (s : State) : Host.Outcome State Fault Refusal :=
  let i : Instr := .trc f
  let x : SrcReg := { isK := f.u || f.ka, num := f.a.toNat, trap := f.ea }
  let body (r : FragRef) (s : State) (slot : Nat) : StrandRes :=
    let s := awaitSources s r slot [x]
    match (checkSources s r slot [x]).orElse (fun _ => checkPorts s r [x]) with
    | some st => .stop s st
    | none =>
      let s := if usesPort [x] false 0 then switchRegion s r i else s
      let (v, s) := readSource s r slot x
      .ok (emitTrace s r 0 f.fn.toNat slot v.toNat)
  .next (if f.u then uniformPass i f.guard f.gn (weightOf 0x5A) body (fun s r => advance s r i) s
    else strandPass i f.guard f.gn (weightOf 0x5A) body (fun s r => advance s r i) s)

/-- Set the group's clock and K(d), which a popped port fills (R55). -/
def setClock (popped : Bool) (s : State) (r : FragRef) (slot d v : Nat) : State :=
  let s := s.modGroup r.core r.hslot (fun g => { g with lclk := v })
  if popped then fillLater s r slot true d [.ofNat 64 v] else writeK s r d (.ofNat 64 v)

def execLclk (f : FmtA) (s : State) : Host.Outcome State Fault Refusal :=
  let i : Instr := .lclk f
  .next (uniformPass i f.guard f.gn (weightOf 0x5B)
    (fun r s slot => match checkKDest s r slot [f.d.toNat] [] with
      | some x => .stop s x
      | none => .ok (setClock false s r slot f.d.toNat (clockNext (s.group r.core r.hslot).lclk)))
    (fun s r => advance s r i) s)

def execLclkMrg (f : FmtA) (s : State) : Host.Outcome State Fault Refusal :=
  let i : Instr := .lclkMrg f
  let src : SrcReg := { isK := true, num := f.a.toNat, trap := f.ea }
  .next (uniformPass i f.guard f.gn (weightOf 0x5B)
    (fun r s slot =>
      let s := awaitSources s r slot [src]
      match ((checkSources s r slot [src]).orElse (fun _ => checkPorts s r [src])).orElse
          (fun _ => checkKDest s r slot [f.d.toNat] []) with
      | some x => .stop s x
      | none =>
        let s := if usesPort [src] false 0 then switchRegion s r i else s
        let (v, s) := readSource s r slot src
        .ok (setClock (popsPort [src]) s r slot f.d.toNat (clockNext (Nat.max (s.group r.core r.hslot).lclk v.toNat))))
    (fun s r => advance s r i) s)

/-! ## Stall reasons (R336) -/

/-- The stall reason of a wait (R336). -/
def waitReason (w : Wait) : Nat :=
  match w with
  | .ready | .remote _ => 9
  | .rjn | .regroup | .bar .. | .barw .. | .clasp .. => 2
  | .regs .. | .granules .. => 3
  | .waitc .. | .counterFull _ => 4
  | .pops _ | .push _ => 5
  | .fence .. | .acquire | .maintenance _ | .halt _ => 6
  | .tlb .. | .ifetch .. | .missEntry | .outstanding | .commandQueue _ => 8

/-- Whether a fragment is in a pass: chosen to start one in this cycle, running it, or with lane cycles of it still to come. -/
def inPass (s : State) (c h e : Nat) (f : Frag) : Bool :=
  s.chosen c h e || (match f.lane with
    | some l => (f.mid && f.wait == .ready && !f.faulted) || f.wait.isRemote || (s.core c).cycle < (s.core c).lanes.get 0 l
    | none => f.wait != .ready && (s.core c).cycle < f.since)

/-- Whether a fragment of a group slot is in a pass. -/
def runsPass (s : State) (c h : Nat) : Bool := (s.group c h).frags.any (fun p => inPass s c h p.1 p.2)

/-- The stall reason of a resident fragment: the first of R336 that applies; 0 for one in a pass (R335). -/
def stallReason (s : State) (c h e : Nat) (f : Frag) : Nat :=
  let g := s.group c h
  let w := if f.wait == .ready && (s.core c).cycle < f.since && f.delay != 0 then f.delay else waitReason f.wait
  if inPass s c h e f then 0
  else if g.halted || (g.fault.isSome && !runsHandler g e) then 1
  else if w < 7 then w
  else if s.held.contains (s.teamOf c h).ctx.asid && !runsHandler g e && !f.mid then 7
  else if w = 8 || !windowResident s c h f then 8
  else 9

/-! ## HALTB, INSP (R333-R335) -/

/-- The core and group slot a target word names. -/
def targetOf (v : W64) : Nat × Nat := (v.toNat % 256, v.toNat / 256 % 64)

/-- ADDRESS and PERM of R333; `form` says that the form needs system rights whatever its target. -/
def targetStop (s : State) (r : FragRef) (v : W64) (form : Bool) : Option Stop :=
  let (c, h) := targetOf v
  let mine := s.teamOf r.core r.hslot
  if !(s.group c h).alloc then some (.fault 4 v)
  else if !mine.ctx.sys && (form || (s.teamOf c h).ctx.asid != mine.ctx.asid) then some (.fault 6 (s.frag r).pc)
  else none

/-- Set or clear the halt of the teams of the package that a test picks by their place, the issuing team apart: those on the
cores, and those swapped out, whose halt is kept with them (R334). -/
def haltTeams (s : State) (r : FragRef) (on : Bool) (pick : Nat → Nat → Bool) : State :=
  let mine := (s.group r.core r.hslot).team
  let halt (c : Nat) (p : Nat × GroupSlot) : Nat × GroupSlot :=
    if p.2.alloc && !(c == r.core && p.2.team == mine) && pick c p.2.team then (p.1, { p.2 with halted := on }) else p
  { s with cores := s.cores.map (fun p => (p.1, { p.2 with groups := p.2.groups.map (halt p.1) })),
           saved := s.saved.map (fun (v : SavedTeam) =>
             if pick v.place 0 then { v with groups := v.groups.map (fun g => { g with halted := on }) } else v) }

/-- The group slots on cores that a HALTB acts on: those that a test picks, the issuing team apart. -/
def haltTargets (s : State) (r : FragRef) (pick : Nat → Nat → Bool) : List (Nat × Nat) :=
  let mine := (s.group r.core r.hslot).team
  (s.cores.map (fun p => (p.2.groups.filter (fun q =>
    q.2.alloc && !(p.1 == r.core && q.2.team == mine) && pick p.1 q.2.team)).map (fun q => (p.1, q.1)))).flatten

/-- What a HALTB with a target acts on, by core and team. -/
def haltPick (s : State) (whole : Bool) (c h : Nat) (c' t' : Nat) : Bool :=
  let t := s.teamOf c h
  if whole then (s.team c' t').ctx.asid == t.ctx.asid && (s.team c' t').part == t.part
  else c' == c && t' == (s.group c h).team

/-- A HALTB: the checks at the reference slot, then the halt, which blocks its fragment until every target has stopped, that
is, until no fragment of it is in a pass (R334). -/
def haltbPass (i : Instr) (f : FmtA) (on whole : Bool) (s : State) : Host.Outcome State Fault Refusal :=
  let x : SrcReg := { isK := true, num := f.a.toNat, trap := f.ea }
  .next (uniformPass i f.guard f.gn (weightOf 0x5C)
    (fun r s slot =>
      let s := awaitSources s r slot [x]
      match (checkSources s r slot [x]).orElse (fun _ => checkPorts s r [x]) with
      | some st => .stop s st
      | none =>
        let (v, s') := readSource (if usesPort [x] false 0 then switchRegion s r i else s) r slot x
        match targetStop s r v whole with
        | some st => .stop s st
        | none =>
          let (c, h) := targetOf v
          let gs := if on then haltTargets s r (haltPick s whole c h) else []
          .ok ((haltTeams s' r on (haltPick s whole c h)).modFrag r (fun q => { q with wait := .halt gs })))
    (fun s r => match (s.frag r).wait with
      | .halt gs => if gs.all (fun q => !runsPass s q.1 q.2) then advance s r i else leaveLane s r (.halt gs)
      | _ => advance s r i) s)

def execHaltbTeam (f : FmtA) (s : State) : Host.Outcome State Fault Refusal := haltbPass (.haltbTeam f) f true false s
def execHaltbTrel (f : FmtA) (s : State) : Host.Outcome State Fault Refusal := haltbPass (.haltbTrel f) f false false s
def execHaltbCtx (f : FmtA) (s : State) : Host.Outcome State Fault Refusal := haltbPass (.haltbCtx f) f true true s
def execHaltbCrel (f : FmtA) (s : State) : Host.Outcome State Fault Refusal := haltbPass (.haltbCrel f) f false true s

/-- The two halves of a spilled record (R48). -/
def spillImage (p : SpillRec) : Nat × Nat :=
  let pc := p.pc.toNat
  (p.m.toNat + p.e.toNat * 2 ^ 32, pc / 8 % 2 ^ 54 + pc / 2 ^ 57 % 16 * 2 ^ 54 + p.wbase / 8 * 2 ^ 58)

/-- The word an INSP form reads at an index of a target; 0 out of range (R335). -/
def inspWord (s : State) (c h : Nat) (form idx : Nat) : Nat :=
  let g := s.group c h
  let t := s.team c g.team
  match form with
  | 0 =>
    if idx < 56 then (s.kreg c h idx).val.toNat
    else if idx < 64 then ((queueOf t (idx - 56)).head?.map (fun p => p.1.toNat)).getD 0
    else 0
  | 1 =>
    let pos := idx % 512
    let slot := idx / 512
    if 32 ≤ slot || !((g.frags.vals.map Frag.m ++ g.spill.map SpillRec.m).any (fun m => m.getLsbD slot)) then 0
    else
      let x := t.strands.get {} (sidOf g slot)
      let v := x.regs.get {} pos
      if !x.resident.contains (pos / 32) then 0
      else v.val.toNat + (if v.full then 2 ^ 32 else 0) + 2 ^ 33
  | 2 =>
    match idx with
    | 0 => g.cy + g.cm * 2 ^ 8 + g.cx * 2 ^ 16
    | 1 => (flagsWord g.flags).toNat
    | 2 => g.carat % 2 ^ 64
    | 3 => (stepWord g.step).toNat
    | 4 => g.cause
    | 5 => g.fslot
    | 6 => g.fpc.toNat
    | 7 => g.faddr.toNat
    | 8 => g.fword.toNat
    | 9 => g.log.length
    | _ => 0
  | 3 =>
    if idx < 32 then
      match g.frags.find? (idx / 4) with
      | none => 0
      | some f =>
        match idx % 4 with
        | 0 => f.pc.toNat
        | 1 => f.m.toNat + f.e.toNat * 2 ^ 32
        | 2 => 2 ^ 63 + f.wbase
        | _ => stallReason s c h (idx / 4) f
    else if idx < 80 then
      match g.spill[(idx - 32) / 2]? with
      | none => 0
      | some p => if idx % 2 = 0 then (spillImage p).1 else (spillImage p).2
    else 0
  | 4 => if idx % 8 = 0 && idx < t.lsize then bytesVal (localBytes t idx 8) else 0
  | 5 =>
    if idx % 64 = 0 && 16 * idx < t.lsize then
      ((List.range 64).map (fun i => if t.full.contains (idx + i) then 2 ^ i else 0)).sum
    else 0
  | 6 =>
    if idx < 16 then
      let b := t.bars.get {} idx
      (if b.phase then 1 else 0) + (if b.status then 2 else 0) + (if b.abandoned then 4 else 0) + b.arrived.length * 2 ^ 32
    else 0
  | _ =>
    if idx < 136 then
      let q := queueOf t (idx / 17)
      if idx % 17 = 0 then q.length else (q[idx % 17 - 1]?.map (fun p => p.1.toNat)).getD 0
    else 0

/-- An INSP: its checks, the empty mark, and the fill with the value of its issue (R348). -/
def inspPass (i : Instr) (f : FmtA) (form : Nat) (s : State) : Host.Outcome State Fault Refusal :=
  let xs : List SrcReg := [{ isK := true, num := f.a.toNat, trap := f.ea }, { isK := true, num := f.b.toNat, trap := f.eb }]
  .next (uniformPass i f.guard f.gn (weightOf 0x5D)
    (fun r s slot =>
      let s := awaitSources s r slot xs
      match (checkSources s r slot xs).orElse (fun _ => checkPorts s r xs) with
      | some st => .stop s st
      | none =>
        let (vs, s') := readAll (if usesPort xs false 0 then switchRegion s r i else s) r slot xs
        let v := vs.getD 0 0
        let (c, h) := targetOf v
        let g := s.group c h
        let shown := g.halted || (g.fault.isSome && !g.inHandler) || (c == r.core && h == r.hslot)
        match (targetStop s r v false).orElse (fun _ => if shown then none else some (.fault 6 v)) with
        | some st => .stop s st
        | none =>
          match checkKDest s r slot [f.d.toNat] [] with
          | some st => .stop s st
          | none =>
            let w := inspWord s c h form (vs.getD 1 0).toNat
            let (id, s) := (markK s' r [f.d.toNat]).fresh
            let fl : Fill := { id := id, core := r.core, hslot := r.hslot, uni := true,
                               sid := sidOf (s.group r.core r.hslot) slot, pos := f.d.toNat, words := [.ofNat 64 w], other := true }
            .ok { s with fills := s.fills ++ [fl] })
    (fun s r => advance s r i) s)

def execInspKreg (f : FmtA) (s : State) : Host.Outcome State Fault Refusal := inspPass (.inspKreg f) f 0 s
def execInspVreg (f : FmtA) (s : State) : Host.Outcome State Fault Refusal := inspPass (.inspVreg f) f 1 s
def execInspGrp (f : FmtA) (s : State) : Host.Outcome State Fault Refusal := inspPass (.inspGrp f) f 2 s
def execInspFrag (f : FmtA) (s : State) : Host.Outcome State Fault Refusal := inspPass (.inspFrag f) f 3 s
def execInspLmem (f : FmtA) (s : State) : Host.Outcome State Fault Refusal := inspPass (.inspLmem f) f 4 s
def execInspLfe (f : FmtA) (s : State) : Host.Outcome State Fault Refusal := inspPass (.inspLfe f) f 5 s
def execInspBar (f : FmtA) (s : State) : Host.Outcome State Fault Refusal := inspPass (.inspBar f) f 6 s
def execInspQueue (f : FmtA) (s : State) : Host.Outcome State Fault Refusal := inspPass (.inspQueue f) f 7 s

/-! ## CMNT, ATLBI (R194-R196) -/

def execCmntInst (f : FmtA) (s : State) : Host.Outcome State Fault Refusal :=
  let i : Instr := .cmntInst f
  .next (uniformPass i f.guard f.gn (weightOf 0x5E)
    (fun r s _ => .ok (s.modCore r.core (fun k => { k with ibuf := [] }))) (fun s r => advance s r i) s)

def execCmntIpkg (f : FmtA) (s : State) : Host.Outcome State Fault Refusal :=
  let i : Instr := .cmntIpkg f
  .next (uniformPass i f.guard f.gn (weightOf 0x5E)
    (fun _ s _ => .ok { s with cores := s.cores.map (fun p => (p.1, { p.2 with ibuf := [] })) })
    (fun s r => advance s r i) s)

/-- PERM of an instruction that needs system rights (R196). -/
def rightsStop (s : State) (r : FragRef) : Option Stop :=
  if (s.teamOf r.core r.hslot).ctx.sys then none else some (.fault 6 (s.frag r).pc)

/-- Local physical addresses (R183): below 2^38. -/
def localPa (pa : Nat) : Bool := pa < 2 ^ 38

def execCmntWb (f : FmtA) (s : State) : Host.Outcome State Fault Refusal :=
  let i : Instr := .cmntWb f
  let x : SrcReg := { isK := true, num := f.a.toNat }
  .next (uniformPass i f.guard f.gn (weightOf 0x5E)
    (fun r s slot =>
      let s := awaitSources s r slot [x]
      match (rightsStop s r).orElse (fun _ => checkSources s r slot [x]) with
      | some st => .stop s st
      | none =>
        let (v, s) := readSource s r slot x
        if !localPa v.toNat then .stop s (.fault 4 v)
        else .ok ((List.range 16).foldl (fun s k => writebackMsc s (v.toNat / 4096 * 16 + k)) s))
    (fun s r => advance s r i) s)

/-- What an ATLBI removes: which entries, by ASID, page base and size, and which lines, by ASID, line and the size of the page
they were read through. -/
structure Removal where
  entry : Nat → Nat → Nat → Bool
  line : Nat → Nat → Nat → Bool
  cover : Nat

/-- Drop lines of an L1 that a test picks; dirty private data is written back first (R180). -/
def dropL1 (s : State) (c : Nat) (pick : CacheLine → Bool) : State :=
  let gone := (s.core c).l1.filter pick
  let s := gone.foldl (fun s l => postWriteback s c l) s
  s.modCore c (fun k => { k with l1 := k.l1.filter (fun l => !pick l) })

/-- Whether a request, or a posted access, is of a removed page; one still on its way to its slice has no page size yet. -/
def Removal.ofFetch (x : Removal) (f : Fetch) : Bool := x.line f.asid f.line (if f.stage == .walk then x.cover else f.bits)
def Removal.ofPosted (x : Removal) (p : Posted) : Bool := x.line p.asid p.line (if p.stage == .walk then x.cover else p.bits)

/-- Accesses that were checked before the removal and are not over (R194). -/
def checkedIds (s : State) (x : Removal) : List Nat :=
  (s.fetches.filter x.ofFetch).map Fetch.id ++ (s.posted.filter x.ofPosted).map Posted.id

/-- What is under way of the removed pages installs no copy any more: private data that has come is installed first, so that its
stores are written back with the line, and write-backs are translated at once, through the entries that go (R180, R194). -/
def flushRemoved (s : State) (x : Removal) : State :=
  let came := s.fetches.filter (fun f => x.ofFetch f && f.lane && f.stage == .arrived)
  let s := came.foldl (fun s f => laneArrives s f none) s
  let s := (s.cores.map Prod.fst).foldl (fun s c => dropL1 s c (fun l => x.line l.asid l.line l.bits)) s
  let back := s.posted.filter (fun p => p.kind == .writeback && p.stage == .walk && x.line p.asid p.line p.bits)
  let s := back.foldl walkPosted s
  let pend (p : Pend) : Pend := { p with wb := p.wb.filter (fun w => !x.line w.2.1 w.2.2.1 w.2.2.2) }
  { s with fetches := s.fetches.map (fun (f : Fetch) => if f.stage != .walk && x.ofFetch f then { f with stale := true } else f),
           posted := s.posted.map (fun (p : Posted) => if p.stage != .walk && x.ofPosted p then { p with stale := true } else p),
           homes := s.homes.map (fun q => (q.1, { q.2 with pending := q.2.pending.map pend })) }

/-- A pass that has checked the address of a line there and not sent its request yet checks it again when it goes on (R194). -/
def uncheckPass (x : Removal) (asid : Nat) (f : Frag) : Frag :=
  match f.kept.addr with
  | some a => if x.line asid (a.toNat % 2 ^ 57 / 256) x.cover then { f with kept := { f.kept with stale := true } } else f
  | none => f

/-- The removal, on every core and die (R194). -/
def removeAll (s : State) (x : Removal) : State :=
  let s := flushRemoved s x
  let group (k : Core) (g : GroupSlot) : GroupSlot :=
    { g with frags := g.frags.map (fun p => (p.1, uncheckPass x (k.teams.get {} g.team).ctx.asid p.2)) }
  let core (k : Core) : Core := { k with atlb := k.atlb.filter (fun e => !x.entry e.asid e.va e.bits),
                                         groups := k.groups.map (fun p => (p.1, group k p.2)) }
  let die (d : Die) : Die := { d with
    l2 := d.l2.filter (fun l => !x.line l.asid l.line l.bits), ptrs := [],
    slices := d.slices.map (fun p => (p.1, p.2.filter (fun e => !x.entry e.asid e.va e.bits))) }
  { s with cores := s.cores.map (fun p => (p.1, core p.2)), dies := s.dies.map (fun p => (p.1, die p.2)),
           atlbReqs := s.atlbReqs.map (fun (q : AtlbReq) => { q with answer := none }) }

/-- The log2 of the page that covers a VA, as the entries and lines held anywhere know it. -/
def coveringBits (s : State) (asid va : Nat) : Nat :=
  let covers (bits base : Nat) : Bool := leafBase bits va == base
  let tl := (s.cores.map (fun p => (p.2.atlb.filter (fun e => e.asid == asid && covers e.bits e.va)).map TlbEntry.bits
    ++ (p.2.l1.filter (fun l => l.asid == asid && covers l.bits (leafBase l.bits (l.line * 256)))).map CacheLine.bits)).flatten
  let sl := (s.dies.map (fun p => (p.2.slices.vals.flatten.filter (fun e => e.asid == asid && covers e.bits e.va)).map SliceEntry.bits
    ++ (p.2.l2.filter (fun l => l.asid == asid && covers l.bits (leafBase l.bits (l.line * 256)))).map CacheLine.bits)).flatten
  (tl ++ sl).foldl Nat.max 15

def atlbiPass (i : Instr) (f : FmtA) (xs : List SrcReg) (rem : State → List W64 → Removal) (s : State) :
    Host.Outcome State Fault Refusal :=
  .next (uniformPass i f.guard f.gn (weightOf 0x5F)
    (fun r s slot =>
      let s := awaitSources s r slot xs
      match (rightsStop s r).orElse (fun _ => checkSources s r slot xs) with
      | some st => .stop s st
      | none =>
        let (vs, s) := readAll s r slot xs
        let x := rem s vs
        let ids := checkedIds s x
        let s := removeAll s x
        .ok (s.modFrag r (fun q => { q with wait := .maintenance ids })))
    (fun s r => match (s.frag r).wait with
      | .maintenance (i :: is) => leaveLane s r (.maintenance (i :: is))
      | _ => advance s r i) s)

def execAtlbiPage (f : FmtA) (s : State) : Host.Outcome State Fault Refusal :=
  atlbiPass (.atlbiPage f) f [{ isK := true, num := f.a.toNat }, { isK := true, num := f.b.toNat }] (fun s vs =>
    let va := (vs.getD 0 0).toNat % 2 ^ 57
    let asid := (vs.getD 1 0).toNat % 2 ^ 16
    let bits := coveringBits s asid va
    { entry := fun a base b => a == asid && leafBase b va == base,
      line := fun a l b => a == asid && leafBase b (l * 256) == leafBase b va, cover := bits }) s

def execAtlbiAsid (f : FmtA) (s : State) : Host.Outcome State Fault Refusal :=
  atlbiPass (.atlbiAsid f) f [{ isK := true, num := f.a.toNat }] (fun _ vs =>
    let asid := (vs.getD 0 0).toNat % 2 ^ 16
    { entry := fun a _ _ => a == asid, line := fun a _ _ => a == asid, cover := 15 }) s

def execAtlbiAll (f : FmtA) (s : State) : Host.Outcome State Fault Refusal :=
  atlbiPass (.atlbiAll f) f [] (fun _ _ =>
    { entry := fun _ _ _ => true, line := fun _ _ _ => true, cover := 15 }) s

/-! ## LAUNCH (R294, R295) -/

/-- Send the run a pass has gathered, if any: the x counter rises (R295). -/
def sendRun (s : State) (r : FragRef) : State :=
  let k := (s.frag r).kept
  if k.words.isEmpty then s
  else
    let (id, s) := s.fresh
    let g := s.group r.core r.hslot
    let t := s.team r.core g.team
    let f := s.frag r
    let items := k.words.map (fun p => ((p.2.getD 1 0).toNat, (p.2.getD 2 0).toNat, p.2.getD 0 0))
    let run : Run := { id := id, part := t.part, core := r.core, hslot := r.hslot, ctx := t.ctx, pkr := passPkr s r,
                       pc := f.pc, slot := f.refSlot, e := f.e, items := items }
    let s := raiseCounter { s with runs := s.runs ++ [run] } r.core r.hslot 2 id
    s.modFrag r (fun q => { q with kept := { q.kept with words := [] } })

/-- One strand of LAUNCH: its record address joins the run. -/
def launchBody (i : Instr) (f : FmtA) (r : FragRef) (s : State) (slot : Nat) : StrandRes :=
  let x : SrcReg := { isK := f.ka, num := f.a.toNat, pair := !f.ka, trap := f.ea }
  let ds := [f.d.toNat, f.d.toNat + 1]
  let s := awaitSources s r slot [x]
  match (checkSources s r slot [x]).orElse (fun _ => checkPorts s r [x]) with
  | some st => .stop s st
  | none =>
    let (a, s') := readSource (if usesPort [x] false 0 then switchRegion s r i else s) r slot x
    if 2 ^ 61 ≤ a.toNat then .stop s (.fault 4 a)
    else if a.toNat % 64 ≠ 0 then .stop s (.fault 5 a)
    else
      match checkVDest s r slot ds with
      | some st => .stop s st
      | none =>
        let k := (s.frag r).kept
        if k.words.isEmpty && 255 ≤ (s.group r.core r.hslot).cx then .stop s (.park (.counterFull 2))
        else
          let s := markV (switchRegion s' r i) r slot ds
          let g := s.group r.core r.hslot
          let item : List W64 := [a, .ofNat 64 (sidOf g slot), .ofNat 64 ((s.frag r).wbase + f.d.toNat)]
          .ok (s.modFrag r (fun q => { q with kept := { q.kept with words := q.kept.words.set slot item } }))

def execLaunch (f : FmtA) (s : State) : Host.Outcome State Fault Refusal :=
  let i : Instr := .launch f
  .next (acquireGate s (fun r s =>
    let s := beginPass s r i
    let slots := activeSlots s r f.guard f.gn (s.frag r).resume
    match runStrands r (weightOf 0x59) 1 (launchBody i f r) slots s with
    | (s, none) =>
      let s := if slots.isEmpty then tickLane s r 1 else s
      advance (sendRun (bumpCount s r.core 0x510 slots.length) r) r i
    | (s, some (sl, x)) => stopPass (sendRun (bumpCount s r.core 0x510 (doneSlots slots sl)) r) r i sl x))

end Sys2Proof.Machine
end

