-- ==== Sys2Proof/Machine/Issue.lean ====
section
/-! DEFINITION. Choosing what to issue (R52, R59, R60, R319), the ends of waits (R55, R219-R221, R230), the stall
counters (R336, R337), and the fetch of an instruction with the checks of R43-R45, R53, R168 and R324. -/

namespace Sys2Proof.Machine

/-! ## Clocks (R312, R313) -/

/-- The core whose clock is furthest behind: the next to run a cycle. -/
def nextCore (s : State) : Nat :=
  ((List.range 191).foldl (fun (b : Nat × Nat) i =>
    let p := (s.core (i + 1)).phase
    if p < b.2 then (i + 1, p) else b) (0, (s.core 0).phase)).1

/-! ## The ends of waits -/

/-- How a wait ends: the fragment goes on with its pass, or its instruction is complete. -/
inductive WaitEnd where
  | not | again | complete | released
  deriving DecidableEq, Repr

def waitEnd (s : State) (c h e : Nat) (f : Frag) : WaitEnd :=
  let g := s.group c h
  let t := s.team c g.team
  let again (b : Bool) : WaitEnd := if b then .again else .not
  match f.wait with
  | .ready | .rjn | .regroup | .bar .. | .barw .. | .clasp .. | .remote _ => .not
  | .regs sid vs ks => again (regsFull s c h sid vs ks)
  | .tlb asid va => again (!s.atlbReqs.any (fun q => q.core == c && q.asid == asid && q.va == va / 2 ^ 15 * 2 ^ 15))
  | .ifetch asid line => again (!s.fetches.any (fun q => q.inst && q.core == c && q.asid == asid && q.line == line))
  | .missEntry => again (missCount s c < 256)
  | .outstanding => again (outstandingOf s c h < 255)
  | .granules c' t' gs => again (localFull (s.team c' t') gs)
  | .pops need => again (need.all (fun p => p.2 ≤ (readyOf t p.1 (s.core c).cycle).length
      && !cmHolds s (dieOf c) 5 t.ctx.asid ((queueIdent t p.1 g.gid 0).take 2) (queueIdent t p.1 g.gid 0)))
  | .push q => again ((queueOf t q).length < 16
      && !cmHolds s (dieOf c) 5 t.ctx.asid ((queueIdent t q g.gid 1).take 2) (queueIdent t q g.gid 1))
  | .commandQueue which =>
    let bank := t.bank.getD 0
    again (match which with
      | 0 => (s.core c).copyq.length < 16
      | 1 => heldEntries (s.core c).array bank < 16
      | _ => heldEntries (s.core c).port bank < 16)
  | .counterFull cls => again (counterOf g cls < 255)
  | .waitc cls n => if counterOf g cls ≤ n then .complete else .not
  | .fence acq obs done upto =>
    if fenceDone s c h upto (runsHandler g e) acq obs then (if done then .complete else .released) else .not
  | .acquire => again (acquiresDone s f)
  | .halt gs => if gs.all (fun q => !runsPass s q.1 q.2) then .complete else .not
  | .maintenance ids => if ids.all (fun i => !(s.fetches.any (fun q => q.id == i) || s.posted.any (fun q => q.id == i))) then .complete else .not

/-- Whether a group is stopped for every fragment but its handler's (R154, R155). -/
def stoppedGroup (g : GroupSlot) : Bool :=
  g.fault.isSome || !g.log.isEmpty || !g.heldEng.isEmpty || !g.heldTraps.isEmpty

/-- Whether the end of a wait leaves its fragment where it stands: a stop has been recorded, and an instruction that then
completes would have gone past it (R155, R280). A release of the group's other waits is no completion. -/
def heldBack (g : GroupSlot) (e : Nat) (x : WaitEnd) : Bool := x == .complete && stoppedGroup g && !runsHandler g e

/-- End the wait of one fragment, if it is over, and make its window resident. What waits at the start of its instruction may
merge once it waits no more (R115). -/
def settleFrag (c h : Nat) (s : State) (e : Nat) : State :=
  let r : FragRef := { core := c, hslot := h, entry := e }
  let g := s.group c h
  match g.frags.find? e with
  | none => s
  | some f =>
    let now := Nat.max f.since (s.core c).cycle
    let x := if f.since ≤ (s.core c).cycle then waitEnd s c h e f else .not
    let s := match (if heldBack g e x then .not else x) with
      | .not => s
      | .again =>
        let s := s.setFrag r { f with wait := .ready, since := now }
        if f.mid then s else settleMerge s r
      | .released => s.setFrag r { f with wait := .ready, since := now, released := true }
      | .complete => goTo s r (f.pc + 8)
    match (s.group c h).frags.find? e with
    | some f =>
      if f.wait == .ready && decide ((s.core c).readyAt f ≤ (s.core c).cycle) && !windowResident s c h f then transferWindow s r else s
    | none => s

/-- Remote passes whose requests have all been acknowledged complete (R220). -/
def sweepRemote (s : State) (c h : Nat) : State :=
  let open_ := ((s.group c h).xq.filter (fun p => p.2.isNone && !s.runs.any (fun x => x.id == p.1))).map Prod.fst
  open_.foldl (fun s id => remoteDone s c h id) s

def settleGroup (c : Nat) (s : State) (h : Nat) : State :=
  (List.range 8).foldl (settleFrag c h) (sweepRemote s c h)

/-- The group slots of a core in use. -/
def liveGroups (s : State) (c : Nat) : List Nat := ((s.core c).groups.filter (fun p => p.2.alloc)).map Prod.fst

def settle (s : State) (c : Nat) : State := (liveGroups s c).foldl (settleGroup c) s

/-! ## Candidates (R59) -/

/-- A pass that pre-emption keeps (R171): an instruction of R168 that has performed for a strand. -/
def keptPass (f : Frag) : Bool := f.switched && f.mid

def isCandidate (s : State) (c h e : Nat) (f : Frag) : Bool :=
  let g := s.group c h
  let t := s.team c g.team
  let handler := runsHandler g e
  f.wait == .ready && t.started && !g.halted
    && (handler || !stoppedGroup g || (t.preempting != 0 && keptPass f && !f.faulted))
    && (handler || !s.held.contains t.ctx.asid || f.mid)
    && (t.preempting == 0 || keptPass f)
    && windowResident s c h f

/-- Word 0 of a fragment's next instruction, for the pairing hint. -/
def peekWord (s : State) (c h : Nat) (f : Frag) : Option W64 := wordAt s c (s.teamOf c h).ctx.asid (f.pc.toNat % 2 ^ 57)

/-- Twice the weight for a 64-bit or packed type of a strand form (R304). -/
def strandFactor (i : Instr) : Nat :=
  match i.alu? with
  | some (o, q, _) => if q.u then 1 else typeFactor o.code q.ty
  | none =>
    match i with
    | .scan f | .red f | .xchg f | .xshf f | .bcst f | .shfx f => typeFactor 0x52 f.ty
    | .aadd f | .amin f | .amax f | .aand f | .aor f | .axor f | .aswp f | .acas f | .ainc f => atomicFactor 0x90 f
    | .afadd f => atomicFactor 0x98 f
    | .dqpush f | .dqpop f | .dqsteal f => if f.u then 1 else 2
    | _ => 1

/-- Whether an instruction executes once for its fragment, though no bit of its word says so (R49). -/
def runsOnce : Instr → Bool
  | .bru _ | .region .. | .rjn _ | .regroup _ | .iret _ | .bkpt _ | .sigchk _ | .sigrst _ | .fence _ | .waitc .. | .bar _ | .bara _
  | .barw _ | .qtry _ | .cpy _ | .cpyp _ | .cpyg _ | .cpys _ | .cpyr _ | .mma _ | .mmas _ | .msca _ | .acz _ | .acrd _ | .acwr _ => true
  | _ => false

/-- Whether a fragment is heavy (R319): the weight of its next instruction, 4 for a tree, times the strands of its E, or once
for a uniform instruction. A long form is weighed by its first word, with a second of 0. -/
def isHeavy (s : State) (c h : Nat) (f : Frag) : Bool :=
  let hv := (s.gov.regs.get 0 (0x100 + 0x40 * domainOf s (clusterOf c))).toNat / 256 % 256
  match peekWord s c h f with
  | none => false
  | some w =>
    let op := opByte w
    let n := (slotsOf f.e).length
    let load : Nat :=
      if op = 0x40 then 4 * n
      else
        match decode 64 [w, 0] with
        | .ok i =>
          let once := runsOnce i || (w.getLsbD 55 && fmtOf op != some .branch)
          weightOf op * (if once then 1 else strandFactor i * n)
        | .error _ => 0
    decide (hv ≤ load)

/-- Whether a group is marked at risk: by its own step, or by one of a class 2 launch on its core (R314). -/
def riskMarked (s : State) (c h : Nat) : Bool :=
  let t := s.teamOf c h
  (s.group c h).step.atRisk || (s.core c).groups.any (fun p => p.2.alloc && p.2.step.atRisk
    && (let u := s.team c p.2.team
        u.dclass == 2 && u.launch == t.launch && u.part == t.part))

/-- The rank of a candidate in R59: urgent, deadline risk, pairing hint, age. -/
def rankOf (s : State) (c h : Nat) (f : Frag) : Nat :=
  let pen := (s.gov.regs.get 0 (0x100 + 0x40 * domainOf s (clusterOf c))).getLsbD 4
  if f.urgent || decide ((s.core c).readyAt f + 1024 ≤ (s.core c).cycle) then 0
  else if riskMarked s c h then 1
  else if pen && isHeavy s c h f == decide ((s.core c).cycle % 2 = 0) then 2
  else 3

/-- Candidates of a core with their rank, the cycle each became one, group slot and entry. -/
def candidates (s : State) (c : Nat) : List (Nat × Nat × Nat × Nat) :=
  let k := s.core c
  ((liveGroups s c).map (fun h =>
    ((s.group c h).frags.filter (fun p => isCandidate s c h p.1 p.2 && decide (k.readyAt p.2 ≤ k.cycle))).map (fun p =>
      (rankOf s c h p.2, k.readyAt p.2, h, p.1)))).flatten

def earlier (a b : Nat × Nat × Nat × Nat) : Bool :=
  if a.1 ≠ b.1 then a.1 < b.1
  else if a.2.1 ≠ b.2.1 then a.2.1 < b.2.1
  else if a.2.2.1 ≠ b.2.2.1 then a.2.2.1 < b.2.2.1 else a.2.2.2 < b.2.2.2

def firstOf : List (Nat × Nat × Nat × Nat) → Option (Nat × Nat × Nat × Nat)
  | [] => none
  | x :: xs =>
    match firstOf xs with
    | none => some x
    | some y => some (if earlier y x then y else x)

/-! ## Lanes (R52) -/

/-- The lanes that fragments of a core hold. -/
def lanesHeld (s : State) (c : Nat) : List Nat :=
  ((liveGroups s c).map (fun h => ((s.group c h).frags.vals.map Frag.lane).filterMap id)).flatten

/-- The free lanes: no fragment holds them and their last passes have ended. -/
def freeLanes (s : State) (c : Nat) : List Nat :=
  let held := lanesHeld s c
  (List.range 32).filter (fun l => !held.contains l && decide ((s.core c).lanes.get 0 l ≤ (s.core c).cycle))

/-- The lowest-numbered of them. -/
def freeLane (s : State) (c : Nat) : Option Nat := (freeLanes s c).head?

/-- A fragment gives up its lane; it has been a candidate since its last pass ended. -/
def Core.dropLane (k : Core) (f : Frag) : Frag := { f with lane := none, run := 0, since := k.readyAt f }

/-- Lane holders among the candidates that have run 16 instructions in a row give up their lanes. -/
def yieldLanes (s : State) (rs : List FragRef) : State :=
  rs.foldl (fun s r =>
    let f := s.frag r
    if f.lane.isSome && 16 ≤ f.run then s.setFrag r ((s.core r.core).dropLane f) else s) s

/-- Whether a fragment waits although it is ready: its group is halted, held by its quota between two instructions, or has a stop
recorded, or its window is not resident (R54, R316, R336). -/
def keptWaiting (s : State) (c h e : Nat) (f : Frag) : Bool :=
  let g := s.group c h
  !f.wait.isRemote && ((!runsHandler g e && (g.halted || (quotaHeld s c h && !f.mid) || stoppedGroup g)) || !windowResident s c h f)

/-- A fragment that waits gives up its lane once its last pass has ended (R52). -/
def waitersYield (s : State) (c : Nat) : State :=
  (liveGroups s c).foldl (fun s h =>
    let k := s.core c
    s.modGroup c h (fun g => { g with frags := g.frags.map (fun q =>
      (q.1, if q.2.lane.isSome && keptWaiting s c h q.1 q.2 && decide (k.readyAt q.2 ≤ k.cycle) then k.dropLane q.2 else q.2)) })) s

/-- Whether an arithmetic operation names a queue port. -/
def aluPorts (op : AluOp) (f : FmtA) : Bool :=
  usesPort (aluSources op f) (f.u && writesReg op f) f.d.toNat

/-- Whether a k register field names a port. -/
def portReg (k : Bool) (n : BitVec 6) : Bool := k && 56 ≤ n.toNat

/-- Whether an instruction reads a queue port. -/
def readsPort (i : Instr) : Bool :=
  match i.alu? with
  | some (op, f, _) => popsPort (aluSources op f)
  | none =>
    match i with
    | .mts f => portReg (f.u || f.kr) f.reg
    | .tree t => t.tests.any (fun n => n.kind != .pred && (portReg n.ka n.a || (!n.bimm && portReg n.kb n.b)))
        || t.ops.any (fun o => popsPort (aluSources o.op o.f))
    | .jmpi f | .calli f | .trc f | .scan f | .red f | .rbal f => portReg (f.u || f.ka) f.a
    | .launch f => portReg f.ka f.a
    | .xchg f | .xshf f | .bcst f | .shfx f => portReg f.ka f.a || (f.lit.isNone && portReg f.kb f.b)
    | .lclkMrg f | .haltbTeam f | .haltbTrel f | .haltbCtx f | .haltbCrel f | .barw f => portReg true f.a
    | .inspKreg f | .inspVreg f | .inspGrp f | .inspFrag f | .inspLmem f | .inspLfe f | .inspBar f | .inspQueue f =>
      portReg true f.a || portReg true f.b
    | _ => false

/-- Start the pass of a candidate on a lane. -/
def startOn (s : State) (r : FragRef) (lane : Nat) : State :=
  let f := s.frag r
  let run := if f.lane.isSome then f.run + 1 else 1
  s.setFrag r { f with lane := some lane, run := run, urgent := false }

/-- Fill up to `n` starts from the candidates: each time the first in the order of R59 that holds a lane or finds one
free. Where there are fewer free lanes than candidates without one, holders that have run 16 instructions yield first (R52). -/
def pickStarts (c : Nat) : Nat → List (Nat × Nat × Nat × Nat) → State → List FragRef × State
  | 0, _, s => ([], s)
  | n + 1, cs, s =>
    let ref (x : Nat × Nat × Nat × Nat) : FragRef := { core := c, hslot := x.2.2.1, entry := x.2.2.2 }
    let lacks (x : Nat × Nat × Nat × Nat) : Bool := (s.frag (ref x)).lane.isNone
    let s := if (freeLanes s c).length < (cs.filter lacks).length then yieldLanes s (cs.map ref) else s
    let free := freeLane s c
    match firstOf (if free.isSome then cs else cs.filter (fun x => (s.frag (ref x)).lane.isSome)) with
    | none => ([], s)
    | some x =>
      match (s.frag (ref x)).lane.orElse (fun _ => free) with
      | none => ([], s)
      | some l =>
        let (rs, s) := pickStarts c n (cs.filter (· != x)) (startOn s (ref x) l)
        (ref x :: rs, s)

/-- Fragments of one cycle act in the order of their group slots and entries (R155, R216). -/
def refBefore (a b : FragRef) : Bool := if a.hslot = b.hslot then a.entry ≤ b.entry else a.hslot ≤ b.hslot

/-- The instruction at a PC, as far as the words at hand tell. -/
def peekInstr (s : State) (c h : Nat) (f : Frag) : Option Instr :=
  if f.mid then f.instr
  else
    let asid := (s.teamOf c h).ctx.asid
    let words := (List.range maxWords).map (fun k => wordAt s c asid ((f.pc.toNat + 8 * k) % 2 ^ 57))
    match decode 64 (words.map (fun w => w.getD 0)) with
    | .ok i => if (words.take i.len).all Option.isSome then some i else none
    | .error _ => none

/-- Whether the pass of a fragment pops a queue port, or counts the entries of a queue after the pops. -/
def popRank (s : State) (r : FragRef) : Nat :=
  match peekInstr s r.core r.hslot (s.frag r) with
  | some (.qtry _) => 1
  | some i => if readsPort i then 0 else 2
  | none => 2

/-- Fragments of one cycle act in the order of their group slots and entries (R155); those that pop a port come first, as a
queue serves pops before pushes (R216). -/
def actsBefore (s : State) (a b : FragRef) : Bool :=
  if popRank s a = popRank s b then refBefore a b else popRank s a ≤ popRank s b

/-- Whether the pass of a fragment takes miss-status entries (R151). -/
def takesEntries (s : State) (r : FragRef) : Bool :=
  let shared (f : FmtM) : Bool := f.space == .global || f.space == .lane
  match peekInstr s r.core r.hslot (s.frag r) with
  | some (.ld f) | some (.st f) | some (.ldline f) | some (.stline f) | some (.pref f) | some (.tagst f) | some (.tagld f) => shared f
  | _ => false

/-- Where the entries of the core could run out, the passes that take them act in the order of their lanes, in the places that
they have among the others (R151). -/
def byLane (s : State) (c : Nat) (rs : List FragRef) : List FragRef :=
  let takers := rs.filter (takesEntries s)
  if missCount s c + 64 * takers.length ≤ 256 then rs
  else
    let places := (rs.zipIdx.filter (fun p => takers.contains p.1)).map Prod.snd
    let inOrder := takers.mergeSort (fun a b => laneOf s a ≤ laneOf s b)
    (places.zip inOrder).foldl (fun l p => l.set p.1 p.2) rs

/-- The passes whose strand has performed at another core's part go on, each on its lane (R145). -/
def goingOn (s : State) (c : Nat) : List FragRef :=
  ((liveGroups s c).map (fun h => ((s.group c h).frags.filter (fun p => p.2.wait == .remote true)).map (fun p =>
    ({ core := c, hslot := h, entry := p.1 } : FragRef)))).flatten

/-- Choose the fragments that start a pass in this cycle, at most four (R52), beside those whose passes go on. -/
def selectStarts (s : State) (c : Nat) : State :=
  let (rs, s) := pickStarts c 4 (candidates s c) s
  let on := goingOn s c
  let s := on.foldl (fun s r => s.modFrag r (fun f => { f with wait := .ready })) s
  match byLane s c ((on ++ rs).mergeSort (actsBefore s)) with
  | [] => s
  | r :: rest => { s with cur := some r, starts := rest }

/-! ## Cycles that R60 does not count -/

/-- Whether a group is kept from issue as a whole: halted, held by its quota, or being pre-empted. -/
def suspended (s : State) (c h : Nat) : Bool :=
  let g := s.group c h
  g.halted || quotaHeld s c h || (s.team c g.team).preempting != 0

/-- A cycle in which the whole core is suspended counts toward no wait (R60, R116): every wait begins a cycle later. -/
def skipCycle (s : State) (c : Nat) : State :=
  let gs := (liveGroups s c).filter (fun h => !(s.group c h).frags.isEmpty)
  if gs.isEmpty || !gs.all (suspended s c) then s
  else
    s.modCore c (fun k => { k with groups := k.groups.map (fun p => (p.1, { p.2 with
      frags := p.2.frags.map (fun q => (q.1, { q.2 with since := q.2.since + 1 })),
      spill := p.2.spill.map (fun q => { q with since := q.since + 1 }) })) })

/-! ## Counters -/

/-- Add to a core counter LCNTn (R337). -/
def bumpCore (s : State) (c n k : Nat) : State := bumpCount s c (0x500 + 8 * n) k

/-- Stall counters of one group: each resident fragment that is not in a pass, and each spilled piece (R336). -/
def countStalls (c : Nat) (s : State) (h : Nat) : State :=
  let g := s.group c h
  let res := (g.frags.map (fun p => stallReason s c h p.1 p.2)).filter (· != 0)
  let spl := g.spill.map (fun p =>
    if g.halted || g.fault.isSome then 1 else if waitReason p.wait < 7 then waitReason p.wait
    else if quotaHeld s c h then 7 else 8)
  (res ++ spl).foldl (fun s n => bumpCore s c (n + 3) 1) s

/-- One core cycle (R59), after the array has ended the last: clocks, ends of waits, the choice of the starts, and the counters. -/
def execIssueCycle (core : Nat) (s : State) : Host.Outcome State Fault Refusal :=
  let s := arrayCycle s core
  let k := s.core core
  let s := { s with gt := Nat.max s.gt (k.phase / phaseUnit) }
  let s := s.setCore core { k with cycle := k.cycle + 1, phase := k.phase + periodAt (pointOf s (clusterOf core)) }
  let s := waitersYield (settle (performDue (skipCycle s core) core) core) core
  let s := bumpCore s core 13 (missCount s core)
  let s := selectStarts s core
  .next ((liveGroups s core).foldl (countStalls core) s)

/-- Whether a fragment that was chosen can still start when its turn in the cycle comes: it stands where it was. -/
def canStart (s : State) (r : FragRef) : Bool :=
  let g := s.group r.core r.hslot
  g.alloc && (match g.frags.find? r.entry with | some f => f.wait == .ready && f.lane.isSome | none => false)

/-- A candidate without a start for 1,024 cycles becomes urgent (R59). -/
def execUrgentPromotion (core hslot entry : Nat) (s : State) : Host.Outcome State Fault Refusal :=
  let r : FragRef := { core := core, hslot := hslot, entry := entry }
  match (s.group core hslot).frags.find? entry with
  | none => .next s
  | some f =>
    if (s.group core hslot).alloc && isCandidate s core hslot entry f
        && (s.core core).readyAt f + 1024 ≤ (s.core core).cycle then
      .next (s.setFrag r { f with urgent := true })
    else .next s

/-! ## Fetch (R43-R45) -/

/-- What the fetch of one word gives. -/
inductive WordRes where
  | word (w : W64)
  | fault (cause : Nat)
  | wait (asid line : Nat)
  | poison
  deriving DecidableEq, Repr

/-- Put a word into the instruction buffer. -/
def bufferWord (s : State) (c asid va : Nat) (w : W64) : State :=
  s.modCore c (fun k => { k with ibuf := (asid, va, w) :: k.ibuf })

/-- Ask for the line of an instruction word. -/
def askLine (s : State) (c asid va : Nat) (pc : W64) : State :=
  let line := va / 256
  if s.fetches.any (fun q => q.inst && q.core == c && q.asid == asid && q.line == line) then s
  else (openFetch (bumpDie s (dieOf c) 1 1) { id := 0, core := c, asid := asid, line := line, sector := 4, inst := true,
                                                      shown := (pc.toNat / 2 ^ 57) * 2 ^ 57 + va } none).2

/-- The copy that holds an instruction word under a lease: that of the L1, or of the L2, which the L1 then takes (R195, S1). -/
def codeCopy (s : State) (c asid va : Nat) : Option CacheLine × State :=
  let line := va / 256
  let live (l : CacheLine) : Bool := !l.lane && s.gt < l.expiry && l.sectors.getLsbD (va % 256 / 64)
  let lc := l1Core s c line
  match (findLine (s.core lc).l1 asid line).filter live, (findLine (s.die (dieOf c)).l2 asid line).filter live with
  | some l, _ => (some l, setL1 s lc l)
  | none, some l =>
    let x : Brought := { asid := asid, line := line, sectors := (List.range 4).filter l.sectors.getLsbD, bytes := l.bytes, tags := l.tags,
                         poison := l.poison, expiry := l.expiry, prio := 0, lane := false, bits := l.bits }
    (some l, fillL1 (bumpDie (setL2 s (dieOf c) l) (dieOf c) 0 1) { id := 0, core := c, asid := asid, line := line, sector := 4 } x)
  | none, none => (none, s)

/-- The word of a local page, through the buffer, then the copies, else from its home. A buffered word that memory no longer
holds is seen old or new, freely for each fetch; what no buffer holds follows the leases (R45, R195; log entry 3). -/
def localWord (s : State) (c asid va pa : Nat) (pc : W64) : WordRes × State :=
  match bufferedWord s c asid va with
  | some w =>
    let now : W64 := .ofNat 64 (Memory.word s.mem pa 8)
    if w == now then (.word w, s)
    else (.word (if Sys2Proof.Config.staleFetch s.freeCtr then w else now), { s with freeCtr := s.freeCtr + 1 })
  | none =>
    match codeCopy s c asid va with
    | (some l, s) =>
      if l.poison.getLsbD (va % 256 / 32) then (.poison, s)
      else
        let w : W64 := .ofNat 64 (bytesVal ((l.bytes.drop (va % 256)).take 8))
        (.word w, bufferWord s c asid va w)
    | (none, s) => (.wait asid (va / 256), askLine s c asid va pc)

/-- Fetch the word at offset `k` words from a PC (R43, R45). A word of the host's or a peer's memory is the one its buffer
holds, the old one until CMNT (log entry 3). -/
def fetchWord (s : State) (c asid : Nat) (pc : W64) (k : Nat) : WordRes × State :=
  let va := pc.toNat % 2 ^ 57 + 8 * k
  if 2 ^ 61 ≤ pc.toNat || 2 ^ 57 ≤ va then (.fault 4, s)
  else
    let shown := pc.toNat / 2 ^ 57 * 2 ^ 57 + va
    let (e, s) := translate s (dieOf c) asid va c shown
    match e with
    | none => (.fault 11, s)
    | some e =>
      if !e.leaf.x then (.fault 6, s)
      else if e.leaf.attr ≠ 0 then
        match bufferedWord s c asid va with
        | some w => (.word w, s)
        | none =>
          match routeAt s (dieOf c) (va / 256) asid c shown e with
          | (.inr cause, s) => (.fault cause, s)
          | (_, s) => (.wait asid (va / 256), askLine s c asid va pc)
      else localWord s c asid va (leafAddr e.bits va e.leaf) pc

/-- How the fetch of an instruction ends: it runs, a fault names a word and its value, or it waits. -/
inductive FetchEnd where
  | run (i : Instr)
  | fault (cause word : Nat) (w : W64)
  | wait (asid line : Nat)
  | kill
  deriving DecidableEq, Repr

/-- Fetch and check word after word (R44): each word's fetch faults, then what the words so far say. -/
def fetchFrom (c asid win : Nat) (pc : W64) : Nat → List W64 → State → FetchEnd × State
  | 0, _, s => (.kill, s)
  | n + 1, ws, s =>
    match fetchWord s c asid pc ws.length with
    | (.fault cause, s) => (.fault cause ws.length 0, s)
    | (.wait a l, s) => (.wait a l, s)
    | (.poison, s) => (.kill, s)
    | (.word w, s) =>
      let ws' := ws ++ [w]
      match decode win ws' with
      | .ok i => (.run i, s)
      | .error (.illop k) => if k < ws'.length then (.fault 1 k w, s) else fetchFrom c asid win pc n ws' s
      | .error (.illenc k) => if k < ws'.length then (.fault 2 k w, s) else fetchFrom c asid win pc n ws' s

/-- Whether an instruction may stand only before a REGION (R168). -/
def needsRegion (i : Instr) : Bool :=
  match i.alu? with
  | some (op, f, _) => aluPorts op f
  | none =>
    match i with
    | .aadd _ | .amin _ | .amax _ | .aand _ | .aor _ | .axor _ | .aswp _ | .acas _ | .afadd _ | .ainc _
    | .dqpush _ | .dqpop _ | .dqsteal _ | .fence _ | .launch _ | .stepRel _ | .stepAbs _ | .stepEnd _
    | .cpy _ | .cpyp _ | .cpyg _ | .cpys _ | .cpyr _ | .mma _ | .mmas _ | .msca _ | .acz _ | .acrd _ | .acwr _
    | .qtry _ | .clinit _ | .clarr _ | .bar _ | .bara _ => true
    | .ldf f => f.prio == 1
    | .mfs f => portReg f.u f.reg
    | .mts f => portReg (f.u || f.kr) f.reg
    | .tree t => t.tests.any (fun n => n.kind != .pred && (portReg n.ka n.a || (!n.bimm && portReg n.kb n.b)))
        || t.ops.any (fun o => aluPorts o.op o.f)
    | .jmpi f | .calli f | .trc f | .scan f | .red f | .rbal f => portReg (f.u || f.ka) f.a
    | .xchg f | .xshf f | .bcst f | .shfx f => portReg f.ka f.a || (f.lit.isNone && portReg f.kb f.b)
    | .lclkMrg f | .haltbTeam f | .haltbTrel f | .haltbCtx f | .haltbCrel f | .barw f => portReg true f.a
    | .inspKreg f | .inspVreg f | .inspGrp f | .inspFrag f | .inspLmem f | .inspLfe f | .inspBar f | .inspQueue f =>
      portReg true f.a || portReg true f.b
    | _ => false

/-- The comparator that a fragment about to issue hits (R324). -/
def comparatorHit (s : State) (r : FragRef) : Option Nat :=
  let f := s.frag r
  let g := s.group r.core r.hslot
  let regs := (s.core r.core).regs
  let sids := (slotsOf f.e).map (sidOf g)
  (List.range 16).find? (fun i =>
    let pc := regs.get 0 (0x100 + 0x10 * i)
    pc.getLsbD 63 && pc.toNat / 8 % 2 ^ 54 == f.pc.toNat / 8 % 2 ^ 54
      && inScope s (pc.toNat / 2 ^ 61 % 4) (regs.get 0 (0x108 + 0x10 * i)) r.core r.hslot sids)

/-- A decode fault (R44). -/
def decodeFault (s : State) (r : FragRef) (cause word : Nat) (w : W64) : State :=
  let f := s.frag r
  takeException s r { entry := r.entry, cause := cause, fslot := (lowest f.e).getD 0, fpc := f.pc,
                      faddr := f.pc + .ofNat 64 (8 * word), fword := w, heldE := f.e, pc := f.pc, slot := 0 }

/-- The word after an instruction that R168 names: the REGION's live-in masks, or the fault. REGION-ORDER names the reference
slot, also with E = 0; of a REGION whose second word cannot be fetched the instruction takes no live-in v register, and the
REGION raises the fault itself (log entry 42). -/
def fetchFollow (s : State) (r : FragRef) (asid : Nat) (i : Instr) : (Option (BitVec 56 × W64)) × State :=
  let f := s.frag r
  let n := i.len
  let stop (s : State) : (Option (BitVec 56 × W64)) × State := (none, s)
  match fetchWord s r.core asid f.pc n with
  | (.fault cause, s) => stop (decodeFault s r cause n 0)
  | (.wait a l, s) => stop (parkAtStart s r (.ifetch a l))
  | (.poison, s) => stop (killGroup s r.core r.hslot 0)
  | (.word w, s) =>
    if opByte w ≠ 0x4A then stop (startFault s r 16 f.pc (word0 i))
    else
      match fetchWord s r.core asid f.pc (n + 1) with
      | (.fault _, s) => (some (w.truncate 56, 0), s)
      | (.wait a l, s) => stop (parkAtStart s r (.ifetch a l))
      | (.poison, s) => stop (killGroup s r.core r.hslot 0)
      | (.word v, s) => (some (w.truncate 56, v), s)


/-- An IRET outside a handler, whose ILLENC comes before a comparator hit (R44, R161). -/
def bareIret (g : GroupSlot) (e : Nat) (i : Instr) : Bool :=
  match i with
  | .iret _ => !runsHandler g e
  | _ => false

/-- Fetch and check the instruction of the fragment that has been started (R43, R44, R53, R168, R324): the
instruction to run, or none when the fragment stopped, waits or died. -/
def fetchCurrent (s : State) (r : FragRef) : Option Instr × State :=
  let f := s.frag r
  let g := s.group r.core r.hslot
  let t := s.team r.core g.team
  match (if f.mid then f.instr else none) with
  | some i => (some i, { s with follow := f.follow })
  | none =>
    let idle (s : State) : State := { s with cur := none }
    let asid := t.ctx.asid
    match fetchFrom r.core asid (windowOf t g.role) f.pc maxWords [] s with
    | (.fault cause k w, s) => (none, decodeFault (idle s) r cause k w)
    | (.wait a l, s) => (none, parkAtStart s r (.ifetch a l))
    | (.kill, s) => (none, killGroup (idle s) r.core r.hslot 0)
    | (.run i, s) =>
      let (fol, s) := if needsRegion i then fetchFollow (idle s) r asid i else (none, s)
      if needsRegion i && fol.isNone then (none, s)
      else
        let s := { s with follow := fol, cur := some r }
        match (if f.mid || f.skip.isSome || bareIret g r.entry i then none else comparatorHit s r) with
        | some k =>
          let s := (idle s).modCore r.core (fun c => { c with regs := c.regs.set 0x400 (.ofNat 64 k) })
          (none, startFault s r 24 (.ofNat 64 (0x10 + k)) (word0 i))
        | none => (some i, s.modFrag r (fun f => { f with instr := some i, follow := fol }))

end Sys2Proof.Machine
end

