-- ==== Sys2Proof/Machine/Copy.lean ====
section
/-! DEFINITION. The copy engines (R237-R254): the five commands and their checks at issue, the engines' reads and
deliveries in element order, the clasps they lower, and their completion. -/

namespace Sys2Proof.Machine

open Sys2Proof.Num

/-! ## The descriptor (R239, R240) -/

def CopyCmd.w (c : CopyCmd) (n : Nat) : W64 := c.desc.getD n 0
def CopyCmd.lo (c : CopyCmd) (n : Nat) : Nat := bitsAt (c.w n) 0 32
def CopyCmd.hi (c : CopyCmd) (n : Nat) : Nat := bitsAt (c.w n) 32 32
def CopyCmd.slo (c : CopyCmd) (n : Nat) : Int := ((c.w n).truncate 32 : W32).toInt
def CopyCmd.shi (c : CopyCmd) (n : Nat) : Int := ((c.w n >>> 32).truncate 32 : W32).toInt

/-- Space codes of R240: 0 global, 1 local, 3 gang-local. -/
def CopyCmd.sspace (c : CopyCmd) : Nat := bitsAt (c.w 2) 0 3
def CopyCmd.dspace (c : CopyCmd) : Nat := bitsAt (c.w 2) 3 3
def CopyCmd.tchk (c : CopyCmd) : Bool := (c.w 2).getLsbD 8 || !c.sys
def CopyCmd.cen (c : CopyCmd) : Bool := (c.w 2).getLsbD 9
def CopyCmd.claspOff (c : CopyCmd) : Nat := bitsAt (c.w 2) 24 20 * 16
def CopyCmd.claspGang (c : CopyCmd) : Bool := (c.w 2).getLsbD 44
def CopyCmd.planes (c : CopyCmd) : Nat := bitsAt (c.w 2) 19 3 + 1
def CopyCmd.pwidth (c : CopyCmd) : Nat := 2 ^ bitsAt (c.w 2) 22 2
def CopyCmd.layoutB (c : CopyCmd) : Bool := (c.w 2).getLsbD 18

def CopyCmd.isPlane (c : CopyCmd) : Bool := c.op == 0xC1
def CopyCmd.isGather (c : CopyCmd) : Bool := c.op == 0xC2
def CopyCmd.isScatter (c : CopyCmd) : Bool := c.op == 0xC3
def CopyCmd.isReduce (c : CopyCmd) : Bool := c.op == 0xC4
def CopyCmd.indexed (c : CopyCmd) : Bool := c.isGather || c.isScatter

/-- The element size in bytes. A plane copy reads its rows in units of 8 bytes, which every row is a whole number
of (R241, R243). -/
def CopyCmd.size (c : CopyCmd) : Nat := if c.isPlane then 8 else 2 ^ bitsAt (c.w 2) 6 2

/-- The index stream: its address, control word, form and element size (R240). -/
def CopyCmd.istream (c : CopyCmd) : W64 := if c.isGather then c.w 8 else c.w 4
def CopyCmd.ictl (c : CopyCmd) : W64 := if c.isGather then c.w 9 else c.w 6
def CopyCmd.iform (c : CopyCmd) : Nat := bitsAt c.ictl 3 2
def CopyCmd.isize (c : CopyCmd) : Nat :=
  match c.iform with
  | 0 => 2
  | 3 => 8
  | _ => 4
def CopyCmd.ispace (c : CopyCmd) : Nat := bitsAt c.ictl 0 3
def CopyCmd.ibound (c : CopyCmd) : Nat := bitsAt c.ictl 32 32

/-- The index that an element of the stream holds (R244). -/
def CopyCmd.indexVal (c : CopyCmd) (n : Nat) : Int :=
  match c.iform with
  | 2 => (BitVec.ofNat 32 n).toInt
  | 3 => (BitVec.ofNat 64 n).toInt
  | _ => n

/-- Whether an index is out of the bound (R244, R245). -/
def CopyCmd.outOfBound (c : CopyCmd) (x : Int) : Bool :=
  c.ibound ≠ 0 && (decide (x < 0) || decide ((c.ibound : Int) ≤ x))

def CopyCmd.rows (c : CopyCmd) : Nat := c.hi 3

/-- Units of a tile of a plane copy, and of one of its rows. -/
def CopyCmd.tileUnits (c : CopyCmd) : Nat := 128 * c.pwidth
def CopyCmd.rowUnits (c : CopyCmd) : Nat := if c.layoutB then c.pwidth else 2 * c.pwidth

/-- How many elements the command has; units for a plane copy. -/
def CopyCmd.count (c : CopyCmd) : Nat :=
  if c.isPlane then c.lo 3 * c.tileUnits
  else if c.isScatter then c.lo 3 * c.hi 3
  else c.lo 3 * c.hi 3 * c.lo 4 * c.hi 4

/-- The bytes it would deliver (R241 case 3). -/
def CopyCmd.total (c : CopyCmd) : Nat :=
  if c.isPlane then c.lo 3 * c.planes * 1024 else c.count * c.size

/-! ## Elements (R242-R245) -/

/-- An element: offsets from the source and the destination base. No source: its bytes are zeros (R244). No
destination: its row is dropped (R245). -/
structure CopyElem where
  row : Nat
  src : Option Int
  dst : Option Int
  deriving DecidableEq, Repr

/-- The row of the index stream that an element depends on. -/
def CopyCmd.rowOf (c : CopyCmd) (n : Nat) : Nat :=
  if c.isScatter then n / c.lo 3 else n / c.lo 3 % c.hi 3

/-- Element n in element order; none while its index has not been read. -/
def CopyCmd.elem (c : CopyCmd) (idx : SMap Int) (n : Nat) : Option CopyElem :=
  let e0 := c.lo 3
  let sz : Int := c.size
  if c.isPlane then
    let u := n % c.tileUnits
    let off : Int := (n / c.tileUnits : Nat) * c.shi 5 + (u / c.rowUnits : Nat) * c.slo 5 + 8 * (u % c.rowUnits : Nat)
    some { row := 0, src := some off, dst := none }
  else
    let i0 : Int := (n % e0 : Nat)
    let i1 : Int := (c.rowOf n : Nat)
    let i2 : Int := (n / (e0 * c.hi 3) % c.lo 4 : Nat)
    let i3 : Int := (n / (e0 * c.hi 3 * c.lo 4) : Nat)
    if c.isScatter then
      (SMap.find? idx (c.rowOf n)).map (fun x =>
        { row := c.rowOf n, src := some (i0 * sz + i1 * c.slo 5),
          dst := if c.outOfBound x then none else some (i0 * sz + x * c.shi 5) })
    else
      let dst := i0 * sz + i1 * c.shi 6 + i2 * c.slo 7 + i3 * c.shi 7
      if c.isGather then
        (SMap.find? idx (c.rowOf n)).map (fun x =>
          { row := c.rowOf n, dst := some dst,
            src := if c.outOfBound x then none
              else some (i0 * sz + x * c.slo 5 + i2 * c.shi 5 + i3 * c.slo 6) })
      else
        some { row := 0, src := some (i0 * sz + i1 * c.slo 5 + i2 * c.shi 5 + i3 * c.slo 6), dst := some dst }

/-! ## The checks at issue (R241) -/

/-- %faddr for a descriptor word: the k register number with bit 6 set. -/
def descReg (d n : Nat) : W64 := .ofNat 64 (64 + d + n)

/-- The size of a local or gang-local space (R138). -/
def spaceSize (t : Team) (gang : Bool) : Nat := if gang then t.gangSize * gangPitch t else t.lsize

def spaceOk (n : Nat) : Bool := n == 0 || n == 1 || n == 3

/-- The lowest and highest offset of a box: extents with strides, then the bytes of one element or row. -/
def boxOf (dims : List (Nat × Int)) (bytes : Nat) : Int × Int :=
  let (l, h) := dims.foldl (fun (p : Int × Int) d =>
    let x := ((d.1 : Int) - 1) * d.2
    if x < 0 then (p.1 + x, p.2) else (p.1, p.2 + x)) (0, 0)
  (l, h + (bytes : Int) - 1)

/-- The first byte of a footprint that fails (R241 case 5). -/
def footprintFail (t : Team) (space : Nat) (base : W64) (box : Int × Int) : Option W64 :=
  let b : Int := base.toNat
  if space = 0 then
    let v : Int := (base.toNat % 2 ^ 57 : Nat)
    if 2 ^ 61 ≤ base.toNat || v + box.1 < 0 then some (.ofInt 64 (b + box.1))
    else if 2 ^ 57 ≤ v + box.2 then some (.ofInt 64 (b - v + max (v + box.1) (2 ^ 57)))
    else none
  else
    let n : Int := spaceSize t (space == 3)
    if b + box.1 < 0 then some (.ofInt 64 (b + box.1))
    else if n ≤ b + box.2 then some (.ofInt 64 (max (b + box.1) n))
    else none

/-- The first value that is no multiple of its size (R241 case 4). -/
def misaligned (c : CopyCmd) : Option W64 :=
  let sz : Int := c.size
  let a : Int := if c.layoutB then 8 else 16
  let w0 : Int := (c.w 0).toNat
  let w1 : Int := (c.w 1).toNat
  let ix : Int × Int := (c.istream.toNat, c.isize)
  let strides : List (Int × Int) := [c.slo 5, c.shi 5, c.slo 6, c.shi 6, c.slo 7, c.shi 7].map (fun v => (v, sz))
  let vals : List (Int × Int) :=
    if c.isPlane then [(w0, a), (w1, 1024), (c.slo 5, a), (c.shi 5, 8)]
    else if c.isScatter then [(w0, sz), (w1, sz), (c.slo 5, sz), (c.shi 5, sz), ix]
    else [(w0, sz), (w1, sz)] ++ strides ++ (if c.isGather then [ix] else [])
  (vals.find? (fun p => p.1 % p.2 ≠ 0)).map (fun p => .ofInt 64 p.1)

/-- Case 5: the source, then the destination, then the index stream. -/
def footprints (t : Team) (c : CopyCmd) : Option W64 :=
  let d4 (s1 s2 s3 : Int) : List (Nat × Int) :=
    [(c.lo 3, c.size), (c.hi 3, s1), (c.lo 4, s2), (c.hi 4, s3)]
  let src : Option (Int × Int) :=
    if c.isPlane then
      let rows := if c.layoutB then 128 else 64
      some (boxOf [(c.lo 3, c.shi 5), (rows, c.slo 5)] (8 * c.rowUnits))
    else if c.isGather then none
    else if c.isScatter then some (boxOf [(c.lo 3, c.size), (c.hi 3, c.slo 5)] c.size)
    else some (boxOf (d4 (c.slo 5) (c.shi 5) (c.slo 6)) c.size)
  let dst : Option (Int × Int) :=
    if c.isPlane then some (0, (c.total : Int) - 1)
    else if c.isScatter then none
    else some (boxOf (d4 (c.shi 6) (c.slo 7) (c.shi 7)) c.size)
  let ind : Option (Int × Int) := if c.indexed then some (0, (c.rows * c.isize : Nat) - 1) else none
  let check (o : Option (Int × Int)) (space : Nat) (base : W64) : Option W64 := o.bind (footprintFail t space base)
  (check src c.sspace (c.w 0)).orElse (fun _ =>
    (check dst c.dspace (c.w 1)).orElse (fun _ => check ind c.ispace c.istream))

/-- The checks of R241: the first failure's cause and %faddr. -/
def copyCheck (t : Team) (c : CopyCmd) (d : Nat) : Option (Nat × W64) :=
  if !spaceOk c.sspace || !spaceOk c.dspace then some (4, descReg d 2)
  else if c.indexed && !spaceOk c.ispace then some (4, descReg d (if c.isGather then 9 else 6))
  else if c.isPlane && c.dspace == 0 then some (4, descReg d 2)
  else if c.cen && spaceSize t c.claspGang ≤ c.claspOff then some (4, descReg d 2)
  else if c.isReduce && c.size ≠ 4 then some (4, descReg d 2)
  else if c.isPlane && c.pwidth < c.planes then some (4, descReg d 2)
  else if 2 ^ 24 < c.total then some (4, descReg d 3)
  else
    match misaligned c with
    | some v => some (5, v)
    | none => if c.count = 0 then none else (footprints t c).map (fun a => (4, a))

/-! ## The commands (R237, R238) -/

/-- An engine command: one uniform pass behind the acquires of its fragment (R230). -/
def enginePass (i : Instr) (body : FragRef → State → Nat → StrandRes) (s : State) : Host.Outcome State Fault Refusal :=
  .next (acquireGate s (fun _ s => uniformPass i 15#4 false 2 body (fun s r => advance s r i) s))

/-- The descriptor registers k[d] on. -/
def descSrcs (d n : Nat) : List SrcReg := (List.range n).map (fun j => { isK := true, num := d + j })

/-- One issue of a copy command (R238). -/
def copyBody (i : Instr) (op len : Nat) (f : FmtE) (r : FragRef) (s : State) (slot : Nat) : StrandRes :=
  let g := s.group r.core r.hslot
  let t := s.team r.core g.team
  let d := f.d.toNat
  if g.role ≠ 0 then .stop s (.fault 15 (s.frag r).pc)
  else
    let s := awaitSources s r slot (descSrcs d len)
    match checkSources s r slot (descSrcs d len) with
    | some x => .stop s x
    | none =>
      let (desc, s) := readAll s r slot (descSrcs d len)
      let c : CopyCmd :=
        { id := s.nextId, op := op, float := f.spec == 10#5, core := r.core, hslot := r.hslot, team := g.team,
          desc := desc, asid := t.ctx.asid, sys := t.ctx.sys, pkr := passPkr s r,
          slot := slot, word := word0 i }
      match copyCheck t c d with
      | some (cause, a) => .stop s (.fault cause a)
      | none =>
        if 16 ≤ (s.core r.core).copyq.length then .stop s (.park (.commandQueue 0))
        else if 255 ≤ g.cy then .stop s (.park (.counterFull 0))
        else
          let s := tickClock (switchRegion s r i) r.core r.hslot
          let (id, s) := s.fresh
          let c := { c with id := id, clk := (s.group r.core r.hslot).lclk }
          let s := raiseCounter s r.core r.hslot 0 id
          .ok (s.modCore r.core (fun k => { k with copyq := k.copyq ++ [c] }))

def execCpy (f : FmtE) (s : State) : Host.Outcome State Fault Refusal :=
  enginePass (.cpy f) (copyBody (.cpy f) 0xC0 8 f) s

def execCpyp (f : FmtE) (s : State) : Host.Outcome State Fault Refusal :=
  enginePass (.cpyp f) (copyBody (.cpyp f) 0xC1 8 f) s

def execCpyg (f : FmtE) (s : State) : Host.Outcome State Fault Refusal :=
  enginePass (.cpyg f) (copyBody (.cpyg f) 0xC2 10 f) s

def execCpys (f : FmtE) (s : State) : Host.Outcome State Fault Refusal :=
  enginePass (.cpys f) (copyBody (.cpys f) 0xC3 8 f) s

def execCpyr (f : FmtE) (s : State) : Host.Outcome State Fault Refusal :=
  enginePass (.cpyr f) (copyBody (.cpyr f) 0xC4 8 f) s

/-! ## Engines (R246) -/

def engineClkOf (s : State) (e : Nat) : Nat := s.engineClk.get 0 e

/-- Add 1 to an engine's clock for an event it sends (R328). -/
def tickEngine (s : State) (e : Nat) : State := { s with engineClk := s.engineClk.set e (clockNext (engineClkOf s e)) }

/-- The lowest idle engine of a die. -/
def idleEngine (s : State) (d : Nat) : Option Nat :=
  ((List.range 12).map (d * 12 + ·)).find? (fun e => !s.copies.any (fun x => x.engine == e))

/-- The core whose queue is served next: round-robin by core number. -/
def copyTurnOf (s : State) (d : Nat) : Option Nat :=
  let turn := (s.die d).copyTurn
  let waits (c : Nat) : Bool := !(s.core c).copyq.isEmpty
  let cores := (List.range 24).map (d * 24 + ·)
  (cores.find? (fun c => turn ≤ c % 24 && waits c)).orElse (fun _ => cores.find? waits)

/-- The core of a die whose queue has a command without elements at its head. -/
def emptyHead (s : State) (d : Nat) : Option Nat :=
  ((List.range 24).map (d * 24 + ·)).find? (fun c => ((s.core c).copyq.head?.map (fun x => x.count == 0)).getD false)

/-- An idle engine takes the head command of a core's queue. One without elements takes no engine: it falls with its elders
(R241). -/
def execCopyEngineStart (die : Nat) (s : State) : Host.Outcome State Fault Refusal :=
  match emptyHead s die with
  | some c =>
    match (s.core c).copyq with
    | [] => .next s
    | cmd :: rest => .next (lowerCounter (s.modCore c (fun k => { k with copyq := rest })) c cmd.hslot 0 cmd.id 0)
  | none =>
    match idleEngine s die, copyTurnOf s die with
    | some e, some c =>
      match (s.core c).copyq with
      | [] => .next s
      | cmd :: rest =>
        let s := s.modCore c (fun k => { k with copyq := rest })
        let s := s.modDie die (fun x => { x with copyTurn := c % 24 + 1 })
        .next { s with copies := s.copies ++ [{ cmd := cmd, engine := e }],
                       engineClk := s.engineClk.set e (clockNext (Nat.max (engineClkOf s e) cmd.clk)) }
    | _, _ => .next s

/-! ## Accesses of an engine (R252, R326) -/

/-- Where an engine access goes. -/
inductive EngAt where
  | home (pa : Nat)
  | far (st : Stage)
  | loc (at_ : LocalAt)
  deriving DecidableEq, Repr

/-- The address of an element as the engine forms it. -/
def engAddr (base : W64) (off : Int) : W64 := .ofInt 64 (base.toNat + off)

/-- Whether an element of a global space keeps to the rules of R241 case 5. -/
def globalOk (base : W64) (off : Int) (n : Nat) : Bool :=
  let v : Int := (base.toNat % 2 ^ 57 : Nat)
  base.toNat < 2 ^ 61 && decide (0 ≤ v + off) && decide (v + off + n ≤ 2 ^ 57)

/-- The place of an element in a local space, none outside it. -/
def engLocal (s : State) (c : CopyCmd) (space : Nat) (base : W64) (off : Int) (n : Nat) : Option LocalAt :=
  let t := s.team c.core c.team
  let p : Int := base.toNat + off
  if p < 0 || (spaceSize t (space == 3) : Int) < p + n then none
  else localAt c.core c.team t (space == 3) p.toNat

/-- The watchpoint that an engine access hits (R326). -/
def engWatch (s : State) (c : CopyCmd) (space a n : Nat) (rd wr : Bool) : Option Nat :=
  (List.range 16).find? (fun i => ((s.core c.core).regs.get 0 (0x208 + 0x20 * i)).getLsbD 8
    && watchMatches s c.core c.hslot [] i space a n rd wr)

/-- The global checks of R252, in order: the place, or the cause. -/
def engGlobal (s : State) (c : CopyCmd) (eng : Nat) (base : W64) (off : Int) (n : Nat) (rd wr red : Bool) :
    State × (EngAt ⊕ Nat) :=
  if !globalOk base off n then (s, .inr 4)
  else
    let a := engAddr base off
    let va := a.toNat % 2 ^ 57
    match translate s (eng / 12) c.asid va eng a.toNat with
    | (none, s) => (s, .inr 11)
    | (some e, s) =>
      match routeAt s (eng / 12) (va / 256) c.asid eng a.toNat e with
      | (.inr cause, s) => (s, .inr cause)
      | (.inl st, s) =>
        let l := e.leaf
        if (rd && !l.rd) || (wr && !l.w) then (s, .inr 6)
        else if (rd && keyDenies c.pkr l.key false) || (wr && keyDenies c.pkr l.key true) then (s, .inr 7)
        else if red && !reachOk l (.atomic (if c.float then 0x98 else 0x90) false false true) then (s, .inr 12)
        else
          match st with
          | .home pl =>
            let pa := pl + va % 256
            if l.tagc && c.tchk && s.tags.get 0 (pa / 32) != .ofNat 4 (a.toNat / 2 ^ 57) then (s, .inr 9)
            else (s, .inl (.home pa))
          | .host pl => (s, .inl (.far (.host (pl + va % 256))))
          | .peer m pl => (s, .inl (.far (.peer m (pl + va % 256))))
          | st => (s, .inl (.far st))

/-- The offset in its core's own local memory at which a watchpoint sees an element, before it is held to its space (R325, R326). -/
def ownOffset (p : Option LocalAt) (gang : Bool) (off : Int) : Option Nat :=
  match p with
  | some p => if p.own then some p.off else none
  | none => if gang || off < 0 then none else some off.toNat

/-- One element access: the watchpoints, then the checks. -/
def engAccess (s : State) (c : CopyCmd) (eng space : Nat) (base : W64) (off : Int) (n : Nat) (rd wr red : Bool) :
    State × (EngAt ⊕ Nat) :=
  let a := engAddr base off
  if space = 0 then
    match engWatch s c 0 (a.toNat % 2 ^ 57) n rd wr with
    | some i => (s.modCore c.core (fun k => { k with regs := k.regs.set 0x400 (.ofNat 64 (48 + i)) }), .inr 23)
    | none => engGlobal s c eng base off n rd wr red
  else
    let p := engLocal s c space base off n
    match (ownOffset p (space == 3) (base.toNat + off)).bind (fun o => engWatch s c 1 o n rd wr) with
    | some i => (s.modCore c.core (fun k => { k with regs := k.regs.set 0x400 (.ofNat 64 (48 + i)) }), .inr 23)
    | none =>
      match p with
      | some p => (s, .inl (.loc p))
      | none => (s, .inr 4)

/-- Whether data at a place is poisoned. -/
def engPoison (s : State) (p : EngAt) (n : Nat) : Bool :=
  match p with
  | .home pa => s.poison.contains (pa / 32)
  | .loc q => localBad (s.team q.core q.team) q.off n
  | .far _ => false

/-- The bytes at a place: at a home the newest value, pending entries included (R227). -/
def engBytes (s : State) (p : EngAt) (n : Nat) : List Byte :=
  match p with
  | .home pa => newestBytes s pa n
  | .loc q => localBytes (s.team q.core q.team) q.off n
  | .far _ => []

/-- The allocation hints of sources and destinations: a priority, or no allocation (R240). -/
def CopyCmd.srcHint (c : CopyCmd) : Option Nat := if (c.w 2).getLsbD 11 then none else some (bitsAt (c.w 2) 12 2)
def CopyCmd.dstHint (c : CopyCmd) : Option Nat := if (c.w 2).getLsbD 15 then none else some (bitsAt (c.w 2) 16 2)

/-- The bytes of a read, which uses the memory-side cache of its home under a hint (R240). -/
def engTake (s : State) (p : EngAt) (n : Nat) (hint : Option Nat) : List Byte × State :=
  (engBytes s p n, match p with
    | .home pa => mscUse s (pa / 256) hint
    | _ => s)

/-! ## Reading (R247) -/

def setRun (s : State) (x : CopyRun) : State :=
  { s with copies := s.copies.map (fun y => if y.cmd.id == x.cmd.id then x else y) }

/-- Ask the host or a peer for bytes. -/
def engAsk (s : State) (x : CopyRun) (st : Stage) (bytes : Nat) (isIndex : Bool) : State :=
  let (id, s) := s.fresh
  let f : Fetch := { id := id, core := x.cmd.core, asid := x.cmd.asid, line := 0, sector := 4, stage := st,
                     engine := true, since := s.gt }
  let s := match st with
    | .peer m pa => sendRead s m pa bytes id
    | _ => s
  setRun { s with fetches := s.fetches ++ [f] } { x with waiting := some (id, bytes, isIndex) }

/-- A byte address of a space as copies compare it: of the global space without the pointer's tag (R183, R242). -/
def spaceAddr (space : Nat) (base : W64) (off : Int) : Int := (if space = 0 then base.toNat % 2 ^ 57 else base.toNat : Nat) + off

/-- Whether a source element overlaps, through the same address, a destination element not yet delivered (R242). -/
def overlapsPending (x : CopyRun) (n : Nat) : Bool :=
  let c := x.cmd
  if c.isPlane || c.sspace ≠ c.dspace then false
  else
    match (c.elem x.idx n).bind CopyElem.src with
    | none => false
    | some so =>
      let a := spaceAddr c.sspace (c.w 0) so
      (List.range (n - x.wr)).any (fun j =>
        match (c.elem x.idx (x.wr + j)).bind CopyElem.dst with
        | some d => decide (spaceAddr c.dspace (c.w 1) d < a + c.size) && decide (a < spaceAddr c.dspace (c.w 1) d + c.size)
        | none => false)

/-- How many further elements follow in the same 256-byte line and may be read with the one at offset `off`. -/
def extendRun (s : State) (x : CopyRun) : Nat → Nat → Int → Nat
  | 0, _, _ => 0
  | k + 1, n, off =>
    let c := x.cmd
    if c.count ≤ n || overlapsPending x n then 0
    else
      match (c.elem x.idx n).bind CopyElem.src with
      | some o =>
        if o ≠ off + c.size || (engAddr (c.w 0) o).toNat / 256 ≠ (engAddr (c.w 0) off).toNat / 256 then 0
        else
          match (engAccess s c x.engine c.sspace (c.w 0) o c.size true false false).2 with
          | .inl p => if engPoison s p c.size then 0 else 1 + extendRun s x k (n + 1) o
          | .inr _ => 0
      | none => 0

/-- The values of index elements. -/
def indexVals (c : CopyCmd) : Nat → List Byte → List Int
  | 0, _ => []
  | k + 1, l => c.indexVal (bytesVal (l.take c.isize)) :: indexVals c k (l.drop c.isize)

/-- Index elements from j that lie in one line and may be read together. -/
def extendIndex (s : State) (x : CopyRun) : Nat → Nat → Nat
  | 0, _ => 0
  | k + 1, j =>
    let c := x.cmd
    let off : Int := (j * c.isize : Nat)
    if c.rows ≤ j || (engAddr c.istream off).toNat % 256 < c.isize then 0
    else
      match (engAccess s c x.engine c.ispace c.istream off c.isize true false false).2 with
      | .inl p => if engPoison s p c.isize then 0 else 1 + extendIndex s x k (j + 1)
      | .inr _ => 0

/-- Keep index values from row j on. -/
def putIndex (x : CopyRun) (j : Nat) (vals : List Int) : CopyRun :=
  { x with idx := (vals.zipIdx j).foldl (fun m p => SMap.set m p.2 p.1) x.idx, waiting := none }

/-- Stop a command at an element (R253). -/
def stopRun (s : State) (x : CopyRun) (n cause : Nat) (a : W64) (poison : Bool) : State :=
  setRun s { x with stop := some { at_ := n, cause := cause, faddr := a, poison := poison } }

/-- Read the index line that the next element needs. -/
def readIndex (s : State) (x : CopyRun) : State :=
  let c := x.cmd
  let j := c.rowOf x.rd
  let off : Int := (j * c.isize : Nat)
  match engAccess s c x.engine c.ispace c.istream off c.isize true false false with
  | (s, .inr cause) => stopRun s x x.rd cause (engAddr c.istream off) false
  | (s, .inl p) =>
    if engPoison s p c.isize then stopRun s x x.rd 0 (engAddr c.istream off) true
    else
      let n := 1 + extendIndex s x 127 (j + 1)
      let s := charge s c.core c.hslot 128
      match p with
      | .far st => engAsk s x st (n * c.isize) true
      | p =>
        let (bytes, s) := engTake s p (n * c.isize) none
        setRun s (putIndex x j (indexVals c n bytes))

/-- Read the consecutive elements of the next source line. -/
def readLine (s : State) (x : CopyRun) (e : CopyElem) : State :=
  let c := x.cmd
  match e.src with
  | none => setRun s { x with rd := x.rd + 1, buf := x.buf ++ List.replicate c.size 0 }
  | some off =>
    match engAccess s c x.engine c.sspace (c.w 0) off c.size true false false with
    | (s, .inr cause) => stopRun s x x.rd cause (engAddr (c.w 0) off) false
    | (s, .inl p) =>
      if engPoison s p c.size then stopRun s x x.rd 0 (engAddr (c.w 0) off) true
      else
        let n := 1 + extendRun s x 255 (x.rd + 1) off
        match p with
        | .far st => engAsk s x st (n * c.size) false
        | p =>
          let (bytes, s) := engTake s p (n * c.size) c.srcHint
          setRun s { x with rd := x.rd + n, buf := x.buf ++ bytes }

def findRun (s : State) (id : Nat) : Option CopyRun := s.copies.find? (fun x => x.cmd.id == id)

/-- A source line or an index line reaches the engine (R247). -/
def execCopySourceArrival (id : Nat) (s : State) : Host.Outcome State Fault Refusal :=
  match findRun s id with
  | none => .next s
  | some x =>
    if x.stop.isSome || x.waiting.isSome || x.cmd.count ≤ x.rd then .next s
    else
      match x.cmd.elem x.idx x.rd with
      | none => .next (readIndex s x)
      | some e => if overlapsPending x x.rd then .next s else .next (readLine s x e)

/-- The bytes that the host or a peer answers a request of an engine with. -/
def engAnswer (s : State) (id : Nat) (bytes : List Byte) : State :=
  match s.copies.find? (fun x => match x.waiting with | some w => w.1 == id | none => false) with
  | none => s
  | some x =>
    let n := match x.waiting with | some w => w.2.1 | none => 0
    let isIndex := match x.waiting with | some w => w.2.2 | none => false
    let bytes := bytes.take n
    let s := { s with fetches := s.fetches.filter (fun f => f.id != id) }
    if isIndex then setRun s (putIndex x (x.cmd.rowOf x.rd) (indexVals x.cmd (n / x.cmd.isize) bytes))
    else setRun s { x with rd := x.rd + n / x.cmd.size, buf := x.buf ++ bytes, waiting := none }

/-- A request of an engine that fails on its way stops its command (R252). -/
def engLost (s : State) (id cause : Nat) : State :=
  match s.copies.find? (fun x => match x.waiting with | some w => w.1 == id | none => false) with
  | none => s
  | some x =>
    let isIndex := match x.waiting with | some w => w.2.2 | none => false
    let c := x.cmd
    let a := if isIndex then engAddr c.istream (c.rowOf x.rd * c.isize : Nat)
      else match (c.elem x.idx x.rd).bind CopyElem.src with
        | some o => engAddr (c.w 0) o
        | none => c.w 0
    let s := { s with fetches := s.fetches.filter (fun f => f.id != id) }
    if x.stop.isSome then setRun s { x with waiting := none } else stopRun s { x with waiting := none } x.rd cause a false

/-! ## Delivery (R248, R249) -/

/-- The command's clasp, where it has one. -/
def claspPlace (s : State) (c : CopyCmd) : Option LocalAt :=
  if c.cen then localAt c.core c.team (s.team c.core c.team) c.claspGang c.claspOff else none

/-- Lower a clasp by delivered bytes; the engine sends its clock with the update. -/
def lowerClasp (s : State) (e : Nat) (p : LocalAt) (n : Nat) : State :=
  let s := tickEngine s e
  updateClasp s p.core p.team p.off (engineClkOf s e) (claspDeliver n)

/-- The sum of CPYR (R242): its destination element and its source element. -/
def reduceVal (float : Bool) (d x : Nat) : Nat := if float then (fadd1 .f32 .rne d x).1 % 2 ^ 32 else (d + x) % 2 ^ 32

/-- Bytes that a beat delivers: their place, the number of their first element, and its address as the engine formed it. -/
structure CopyPiece where
  at_ : EngAt
  bytes : List Byte
  nth : Nat
  va : W64
  deriving DecidableEq, Repr

/-- The word before the elements of a reduce message: its type, 0 for i32 and 1 for f32 (log entry 48). -/
def reduceHead (float : Bool) : List Byte := wordBytes 8 (if float then 1 else 0)

/-- What Cameo logs of an addition at a home (R339; log entry 11): the line, the launch and team of the command, and the element. -/
def addIdent (s : State) (c : CopyCmd) (pa n : Nat) : List Nat :=
  let t := s.team c.core c.team
  [pa / 256, t.launch * 2 ^ 32 + t.index, n * 2 ^ 16 + 65535]

def addEvent (s : State) (c : CopyCmd) (pa n : Nat) : State :=
  cmEvent s (dieOfPa pa) 4 c.asid (s.team c.core c.team).part [pa / 256] (addIdent s c pa n) []

def addHeld (s : State) (c : CopyCmd) (pa n : Nat) : Bool :=
  cmHolds s (dieOfPa pa) 4 c.asid [pa / 256] (addIdent s c pa n)

/-- How many of a beat's additions the log of Cameo lets through now, those before each made (R340). -/
def addsFree (c : CopyCmd) : State → List CopyPiece → Nat
  | _, [] => 0
  | s, q :: rest =>
    match q.at_ with
    | .home pa => if addHeld s c pa q.nth then 0 else 1 + addsFree c (addEvent s c pa q.nth) rest
    | _ => 1 + addsFree c s rest

/-- Write one element's bytes, or add them, at its place. -/
def deliverOne (c : CopyCmd) (due : Nat) (s : State) (q : CopyPiece) : State :=
  match q.at_ with
  | .loc p =>
    let old := bytesVal (localBytes (s.team p.core p.team) p.off 4)
    let bytes := if c.isReduce then wordBytes 4 (reduceVal c.float old (bytesVal q.bytes)) else q.bytes
    localWrite s p.core p.team p.off bytes true
  | .home pa =>
    let s := if c.isReduce then addEvent s c pa q.nth else s
    let bytes := if c.isReduce then wordBytes 4 (reduceVal c.float (newestWord s pa 4) (bytesVal q.bytes)) else q.bytes
    (arriveHint s (pa / 256) 0 c.dstHint { t := none, bytes := putBytes [] (pa % 256) bytes, engine := some due }).2
  | .far st =>
    let (id, s) := s.fresh
    let at_ := match st with
      | .host pa => pa
      | .peer _ pa => pa
      | _ => 0
    let p : Posted := { id := id, kind := if c.isReduce then .atomic else .service, core := c.core, hslot := c.hslot,
                        asid := c.asid, line := at_ / 256, stage := st, bytes := putBytes [] (at_ % 256) q.bytes,
                        due := some due, since := s.gt, va := q.va, nth := q.nth }
    let s := { s with posted := s.posted ++ [p] }
    match st with
    | .peer m pa => if c.isReduce then sendPeer s m 8 pa (reduceHead c.float ++ q.bytes) id else sendPeer s m 3 pa q.bytes id
    | _ => s

/-- Whether a second element's place continues a first one's within its line. -/
def continues (a : EngAt) (n : Nat) (b : EngAt) : Bool :=
  match a, b with
  | .home x, .home y => y == x + n && x / 256 == y / 256
  | .far (.host x), .far (.host y) => y == x + n && x / 256 == y / 256
  | .far (.peer m x), .far (.peer m' y) => m == m' && y == x + n && x / 256 == y / 256
  | .loc p, .loc q => p.core == q.core && p.team == q.team && q.off == p.off + n
  | _, _ => false

/-- Join the elements of a beat that continue each other, so that a line takes one write. -/
def joinPieces (l : List CopyPiece) : List CopyPiece :=
  l.foldr (fun (q : CopyPiece) acc => match acc with
    | r :: rest => if continues q.at_ q.bytes.length r.at_ then { q with bytes := q.bytes ++ r.bytes } :: rest else q :: acc
    | [] => [q]) []

/-- Deliver elements to their places: the writes, the immediate part of the clasp's decrement, and a due entry for
the rest. -/
def deliverBeat (s : State) (x : CopyRun) (qs : List CopyPiece) : State :=
  let c := x.cmd
  let cp := claspPlace s c
  let here (q : CopyPiece) : Bool :=
    match q.at_, cp with
    | .loc p, some k => c.dspace == 1 || p.core == k.core
    | .loc _, none => true
    | _, _ => false
  let now := ((qs.filter here).map (fun q => q.bytes.length)).sum
  let later := ((qs.filter (fun q => !here q)).map (fun q => q.bytes.length)).sum
  let (id, s) := s.fresh
  let s := (if c.isReduce then qs else joinPieces qs).foldl (deliverOne c id) s
  let s := charge s c.core c.hslot (if c.isReduce then 640 else 512)
  let s := bumpCount (bumpDie s (x.engine / 12) 6 1) c.core 0x578 1
  let s := match cp with
    | some k => if now = 0 then s else lowerClasp s x.engine k now
    | none => s
  if later = 0 then s
  else
    let k := cp.getD { core := c.core, team := c.team, off := 0, own := true }
    { s with dues := s.dues ++ [{ id := id, cmd := c.id, core := k.core, team := k.team, off := k.off, bytes := later,
                                  dec := cp.isSome, first := x.wr }] }

/-- Places of consecutive destination elements, up to the first whose access fails: that element's cause and
address. -/
def placeElems (s : State) (x : CopyRun) : Nat → Nat → List Byte → State × List CopyPiece × Option (Nat × Nat × W64)
  | 0, _, _ => (s, [], none)
  | k + 1, n, buf =>
    let c := x.cmd
    match (c.elem x.idx n).bind CopyElem.dst with
    | none => (s, [], none)
    | some off =>
      match engAccess s c x.engine c.dspace (c.w 1) off c.size c.isReduce true c.isReduce with
      | (s, .inr cause) => (s, [], some (n, cause, engAddr (c.w 1) off))
      | (s, .inl p) =>
        if c.isReduce && engPoison s p 4 then (s, [], some (n, 0, engAddr (c.w 1) off))
        else
          let (s, rest, f) := placeElems s x k (n + 1) (buf.drop c.size)
          (s, { at_ := p, bytes := buf.take c.size, nth := n, va := engAddr (c.w 1) off } :: rest, f)

/-- How many elements from wr on form the next beat: consecutive destinations, at most 256 bytes, below a limit. -/
def beatLength (c : CopyCmd) (idx : SMap Int) (lim : Nat) : Nat → Nat → Int → Nat
  | 0, _, _ => 0
  | k + 1, n, off =>
    if lim ≤ n then 0
    else
      match c.elem idx n with
      | some e => if e.dst = some (off + c.size) then 1 + beatLength c idx lim k (n + 1) (off + c.size) else 0
      | none => 0

/-- One byte of a plane of a tile (R243): the tile's bits as one number, w to an element. -/
def planeByte (c : CopyCmd) (tile j b : Nat) : Byte :=
  (List.range 8).foldl (fun (v : Byte) i =>
    let q := 8 * b + i
    let e := if c.layoutB then q % 128 * 64 + q / 128 else q
    if tile.testBit (e * c.pwidth + j) then v ||| (1#8 <<< i) else v) 0#8

/-- Deliver 256 bytes of a plane of the tile that has arrived. -/
def deliverPlane (s : State) (x : CopyRun) : State :=
  let c := x.cmd
  let per := 4 * c.planes
  let k := x.wr / per
  let b := x.wr % per
  if x.rd < (k + 1) * c.tileUnits then s
  else
    let tile := bytesVal (x.buf.take (8 * c.tileUnits))
    let bytes := (List.range 256).map (fun i => planeByte c tile (b / 4) (b % 4 * 256 + i))
    let off : Int := (x.wr * 256 : Nat)
    match engAccess s c x.engine c.dspace (c.w 1) off 256 false true false with
    | (s, .inr cause) => stopRun s x (k * c.tileUnits) cause (engAddr (c.w 1) off) false
    | (s, .inl p) =>
      let buf := if b + 1 = per then x.buf.drop (8 * c.tileUnits) else x.buf
      deliverBeat (setRun s { x with wr := x.wr + 1, buf := buf }) x [{ at_ := p, bytes := bytes, nth := x.wr, va := engAddr (c.w 1) off }]

/-- The elements below which delivery goes on. -/
def runLimit (x : CopyRun) : Nat :=
  match x.stop with
  | some st => st.at_
  | none => x.cmd.count

/-- Deliver the next beat of a command that is no plane copy. -/
def deliverElems (s : State) (x : CopyRun) : State :=
  let c := x.cmd
  let lim := runLimit x
  if lim ≤ x.wr || x.rd ≤ x.wr then s
  else
    match c.elem x.idx x.wr with
    | none => s
    | some e =>
      match e.dst with
      | none =>
        -- the rest of a row that is dropped
        let n := Nat.min (c.lo 3 - x.wr % c.lo 3) (lim - x.wr)
        if x.rd < x.wr + n then s
        else
          let s := setRun s { x with wr := x.wr + n, buf := x.buf.drop (n * c.size) }
          match claspPlace s c with
          | some k => lowerClasp s x.engine k (n * c.size)
          | none => s
      | some off =>
        let full := 1 + beatLength c x.idx lim (256 / c.size - 1) (x.wr + 1) off
        let blocked := x.rd < c.count && overlapsPending x x.rd
        let unknown := x.rd < lim && (c.elem x.idx (x.wr + full)).isNone && x.wr + full < lim
        if (x.rd < x.wr + full || unknown) && !blocked then s
        else
          let n := Nat.min full (x.rd - x.wr)
          let (s, qs, f) := placeElems s x n x.wr x.buf
          let m := if c.isReduce then addsFree c s qs else qs.length
          let stop := match (if m < qs.length then none else f) with
            | some (k, cause, a) => some { at_ := k, cause := cause, faddr := a, poison := cause == 0 }
            | none => x.stop
          let qs := qs.take m
          let s := setRun s { x with wr := x.wr + m, buf := x.buf.drop (m * c.size), stop := stop }
          if qs.isEmpty then s else deliverBeat s x qs

/-- The die whose Cameo holds back the next addition of a command (R340). -/
def addHeldAt (s : State) (x : CopyRun) : Option Nat :=
  if !x.cmd.isReduce || x.rd ≤ x.wr || runLimit x ≤ x.wr then none
  else
    match (placeElems s x 1 x.wr x.buf).2.1 with
    | [q] => (match q.at_ with
      | .home pa => if addHeld s x.cmd pa q.nth then some (dieOfPa pa) else none
      | _ => none)
    | _ => none

/-- A beat writes its bytes (R248). -/
def execCopyBeatDelivery (id : Nat) (s : State) : Host.Outcome State Fault Refusal :=
  match findRun s id with
  | none => .next s
  | some x => .next (if x.cmd.isPlane then deliverPlane s x else deliverElems s x)

/-- Whether every write of a beat is visible or acknowledged (R249). -/
def dueDone (s : State) (id : Nat) : Bool :=
  !s.homes.any (fun h => h.2.pending.any (fun p => p.engine == some id)) && !s.posted.any (fun p => p.due == some id)

/-- The decrement that waited for a remote or global delivery. -/
def execClaspRemoteDecrement (id : Nat) (s : State) : Host.Outcome State Fault Refusal :=
  match s.dues.find? (fun x => x.id == id) with
  | none => .next s
  | some x =>
    if !dueDone s id then .next s
    else
      let s := { s with dues := s.dues.filter (fun y => y.id != id) }
      match findRun s x.cmd with
      | some y =>
        .next (if x.dec && x.bytes ≠ 0 then lowerClasp s y.engine { core := x.core, team := x.team, off := x.off, own := true } x.bytes
          else s)
      | none => .next s

/-- Whether a command has delivered everything it will deliver. -/
def runDelivered (x : CopyRun) : Bool :=
  if x.cmd.isPlane then 4 * x.cmd.planes * (runLimit x / x.cmd.tileUnits) ≤ x.wr else runLimit x ≤ x.wr

/-- The report of a stop (R253): the violation entry, the engine fault of the group, or its death. -/
def reportStop (s : State) (x : CopyRun) (st : CopyStop) : State :=
  let c := x.cmd
  if st.poison then killGroup s c.core c.hslot 0
  else
    let kind := match st.cause with
      | 6 | 7 => 2
      | 9 => 3
      | 12 => 7
      | _ => 0
    let s := if kind = 0 then s else logViolation s (x.engine / 12)
      { gt := s.gt, addr := st.faddr.toNat, asid := c.asid, source := 1, kind := kind, who := x.engine }
    s.modGroup c.core c.hslot (fun g => { g with heldEng := g.heldEng ++
      [{ cause := st.cause, slot := c.slot, faddr := st.faddr, fword := c.word }] })

/-- A command completes for the y counter (R250, R253). -/
def execCopyComplete (id : Nat) (s : State) : Host.Outcome State Fault Refusal :=
  match findRun s id with
  | none => .next s
  | some x =>
    if !runDelivered x || x.waiting.isSome || s.dues.any (fun d => d.cmd == id) then .next s
    else
      let s := tickEngine { s with copies := s.copies.filter (fun y => y.cmd.id != id) } x.engine
      let s := lowerCounter s x.cmd.core x.cmd.hslot 0 id (engineClkOf s x.engine)
      .next (match x.stop with
        | some st => reportStop s x st
        | none => s)

end Sys2Proof.Machine
end

