-- ==== Sys2Proof/Machine/Matrix.lean ====
section
/-! DEFINITION. The matrix engine (R255-R277): the six commands and their checks at issue, the slot table, the start and the
completion of array and port commands, and what each does to its tile. -/

namespace Sys2Proof.Machine

open Sys2Proof.Num

/-! ## The checks at issue (R262) -/

/-- Whether any block reaches the end of a space: the start of its operand and its bytes. -/
def beyond (lsize nb base stride bytes : Nat) : Bool := (List.range nb).any (fun b => lsize < base + stride * b + bytes)

def mxCheck (t : Team) (win : Nat) (m : MxCmd) (d : Nat) : Option (Nat × W64) :=
  let sparse := m.op == 0xC9
  if m.isMma && m.abase % 1024 ≠ 0 then some (5, .ofNat 64 m.abase)
  else if m.isMma && m.bbase % 1024 ≠ 0 then some (5, .ofNat 64 m.bbase)
  else if sparse && m.mbase % 256 ≠ 0 then some (5, .ofNat 64 m.mbase)
  else if m.isMma && (beyond t.lsize m.nb m.abase m.astr (1024 * m.pa)
      || (sparse && beyond t.lsize m.nb (m.abase + m.hoff) m.astr (1024 * m.pa))
      || beyond t.lsize m.nb m.bbase m.bstr (1024 * m.pb)) then some (4, descReg d 0)
  else if sparse && beyond t.lsize m.nb m.mbase m.mstr 2048 then some (4, descReg d 2)
  else if m.op == 0xCA && (t.lsize < m.abase + 128 || t.lsize < m.bbase + 128) then some (4, descReg d 0)
  else if (m.op == 0xCC || m.op == 0xCD) && !m.st
      && (m.cols = 0 || 8 < m.cols || 64 < m.col0 + m.cols || win < m.vb + m.cols) then some (4, descReg d 0)
  else none

/-! ## Issue (R263) -/

/-- A command of an opcode as a fragment issues it. -/
def mxCmd (s : State) (r : FragRef) (i : Instr) (op : Nat) (f : FmtE) (desc : List W64) : MxCmd :=
  let g := s.group r.core r.hslot
  let fr := s.frag r
  { id := s.nextId, op := op, hslot := r.hslot, team := g.team, bank := (s.team r.core g.team).bank.getD 0,
    zd := f.zd.toNat, zs := f.zs.toNat, pa := f.pam1.toNat + 1, pb := f.pbm1.toNat + 1, sgnA := f.spec.getLsbD 4,
    sgnB := f.spec.getLsbD 3, tag := f.spec.toNat, desc := desc, slot := fr.refSlot, word := word0 i,
    wbase := fr.wbase, vb := f.vb.toNat, ranks := (slotsOf fr.e).map (fun sl => (sl, sidOf g sl)) }

/-- Steps 1 to 3: role, descriptor, checks. -/
def mxStart (s : State) (r : FragRef) (i : Instr) (op len : Nat) (f : FmtE) (held : Option (List W64)) :
    (MxCmd × State) ⊕ Stop :=
  let g := s.group r.core r.hslot
  let t := s.team r.core g.team
  let slot := (s.frag r).refSlot
  let d := f.d.toNat
  let port := op == 0xCC || op == 0xCD
  if g.role ≠ (if port then 2 else 1) || (port && t.bank.isNone) then .inr (.fault 15 (s.frag r).pc)
  else
    match held with
    | some desc => .inl (mxCmd s r i op f desc, s)
    | none =>
      let s := awaitSources s r slot (descSrcs d len)
      match checkSources s r slot (descSrcs d len) with
      | some x => .inr x
      | none =>
        let (desc, s) := readAll s r slot (descSrcs d len)
        let m := mxCmd s r i op f desc
        match mxCheck t (windowOf t g.role) m d with
        | some (cause, a) => .inr (.fault cause a)
        | none => .inl (m, s)

/-- Put a command that has arrived into a queue, in arrival order (R263). -/
def arrive (q : List MxCmd) (m : MxCmd) : List MxCmd := q.filter (fun x => x.before m) ++ m :: q.filter (fun x => !x.before m)

/-- Steps 5 and 6: the queue, the m counter, and the command's arrival in a cycle. -/
def mxEnqueue (s : State) (r : FragRef) (i : Instr) (m : MxCmd) (cycle : Nat) : StrandRes :=
  let k := s.core r.core
  let full := if m.isArray then heldEntries k.array m.bank else heldEntries k.port m.bank
  if 16 ≤ full then .stop s (.park (.commandQueue (if m.isArray then 1 else 2)))
  else if m.isArray && 255 ≤ (s.group r.core r.hslot).cm then .stop s (.park (.counterFull 1))
  else
    let s := tickClock (switchRegion s r i) r.core r.hslot
    let (id, s) := s.fresh
    let m := { m with id := id, clk := (s.group r.core r.hslot).lclk, at_ := cycle }
    if m.isArray then
      .ok ((raiseCounter s r.core r.hslot 1 id).modCore r.core (fun k => { k with array := arrive k.array m }))
    else .ok (s.modCore r.core (fun k => { k with port := arrive k.port m }))

def arrayBody (i : Instr) (op len : Nat) (f : FmtE) (r : FragRef) (s : State) (_ : Nat) : StrandRes :=
  match mxStart s r i op len f none with
  | .inr x => .stop s x
  | .inl (m, s) => mxEnqueue s r i m (laneNow s r)

def execMma (f : FmtE) (s : State) : Host.Outcome State Fault Refusal :=
  enginePass (.mma f) (arrayBody (.mma f) 0xC8 2 f) s

def execMmas (f : FmtE) (s : State) : Host.Outcome State Fault Refusal :=
  enginePass (.mmas f) (arrayBody (.mmas f) 0xC9 3 f) s

def execMsca (f : FmtE) (s : State) : Host.Outcome State Fault Refusal :=
  enginePass (.msca f) (arrayBody (.msca f) 0xCA 1 f) s

def execAcz (f : FmtE) (s : State) : Host.Outcome State Fault Refusal :=
  enginePass (.acz f) (arrayBody (.acz f) 0xCB 0 f) s

/-- The destination registers of an ACRD. -/
def MxCmd.dests (m : MxCmd) : List Nat := (List.range m.width).map (m.vb + ·)

/-- Key of the descriptor among the words that an ACRD or ACWR keeps. -/
def descKey : Nat := 32

def keepDesc (s : State) (r : FragRef) (m : MxCmd) : State :=
  s.modFrag r (fun q => { q with kept := { q.kept with words := q.kept.words.set descKey m.desc } })

/-- ACRD: the destinations of every slot of E are checked and marked (step 4), then the command finds space in its queue. A
pass that has waited there has marked them. -/
def acrdBody (i : Instr) (f : FmtE) (r : FragRef) (s : State) (_ : Nat) : StrandRes :=
  let held := (s.frag r).kept.words.find? descKey
  match mxStart s r i 0xCC 1 f held with
  | .inr x => .stop s x
  | .inl (m, s) =>
    let slots := slotsOf (s.frag r).e
    if held.isSome then mxEnqueue s r i m (laneNow s r)
    else
      match slots.findSome? (fun sl => checkVDest s r sl m.dests) with
      | some x => .stop s x
      | none => mxEnqueue (slots.foldl (fun s sl => markV s r sl m.dests) (keepDesc s r m)) r i m (laneNow s r)

def execAcrd (f : FmtE) (s : State) : Host.Outcome State Fault Refusal :=
  enginePass (.acrd f) (acrdBody (.acrd f) f) s

/-- Gather the sources of the strands of E in slot order, one strand per lane cycle; those gathered stay with the fragment
(R263, R273). -/
def gatherRows (r : FragRef) (m : MxCmd) : List Nat → State → State × Option (Nat × Stop)
  | [], s => (s, none)
  | sl :: rest, s =>
    if ((s.frag r).kept.words.find? sl).isSome then gatherRows r m rest s
    else
      let xs : List SrcReg := m.dests.map (fun n => { isK := false, num := n })
      let s := awaitSources s r sl xs
      match checkSources s r sl xs with
      | some x => (s, some (sl, x))
      | none =>
        let (vals, s) := readAll s r sl xs
        let s := s.modFrag r (fun f => { f with kept := { f.kept with words := f.kept.words.set sl vals } })
        gatherRows r m rest (tickLane s r 1)

/-- ACWR: the descriptor is read once, then the rows are gathered, then the command arrives, in the cycle of its last strand
(R263, R273). -/
def acwrPass (f : FmtE) (r : FragRef) (s : State) : State :=
  let i : Instr := .acwr f
  let s := beginPass s r i
  let first := laneNow s r
  match mxStart s r i 0xCD 1 f ((s.frag r).kept.words.find? descKey) with
  | .inr x => stopPass s r i (s.frag r).refSlot x
  | .inl (m, s) =>
    match gatherRows r m (slotsOf (s.frag r).e) (keepDesc s r m) with
    | (s, some (sl, x)) => stopPass s r i sl x
    | (s, none) =>
      let s := if laneNow s r = first then tickLane s r 1 else s
      let rows := (s.frag r).kept.words.filter (fun p => p.1 != descKey)
      let vals := rows.map (fun p => (p.1, p.2.map (fun (w : W64) => (w.truncate 32 : W32))))
      match mxEnqueue s r i { m with vals := vals } (laneNow s r - 1) with
      | .stop s x => stopPass s r i (s.frag r).refSlot x
      | .ok s => advance (bumpCount (charge s r.core r.hslot 2) r.core 0x518 1) r i

def execAcwr (f : FmtE) (s : State) : Host.Outcome State Fault Refusal :=
  .next (acquireGate s (fun r s => acwrPass f r s))

/-! ## The slot table (R257) -/

def execMatrixSlotBoundary (s : State) : Host.Outcome State Fault Refusal :=
  .next { s with mxslot := s.gt / 1000 % 16 }

/-! ## Fill (R265, R268, R270) -/

/-- The head of a bank's array queue begins its fill, whose first cycle is this one; ready heads of both banks begin in arrival
order (R257). Its commands that have begun stand before those that wait. -/
def execArrayFillStart (core bank : Nat) (s : State) : Host.Outcome State Fault Refusal :=
  let k := s.core core
  match readyToFill s core bank with
  | none => .next s
  | some m =>
    let later := match readyToFill s core (1 - bank) with
      | some x => x.before m
      | none => false
    if !arrayFree k || later then .next s
    else
      let m' := { m with started := true, t0 := k.cycle, len := 4 + runCycles m }
      let rest := k.array.filter (fun x => x.id != m.id)
      let s := s.setCore core { k with array := rest.filter (fun x => x.started) ++ m' :: rest.filter (fun x => !x.started),
                                       mxClk := clockNext (Nat.max k.mxClk m.clk) }
      .next (mxTick s core m')

/-! ## Completion (R265, R267-R271) -/

/-- Add a sum to an element: it wraps, and the tile's wrap bit says so. -/
def accumulate (z : Tile) (i j : Nat) (v : Int) : Tile :=
  let x := (z.elem i j).toInt + v
  let z' := z.put i j (.ofInt 32 x)
  if x < -(2 ^ 31 : Nat) || (2 ^ 31 : Nat) ≤ x then { z' with wrap := true } else z'

/-- Add the sums of one block to a tile. -/
def addBlock (m : MxCmd) (z : Tile) (b : Nat) : Tile :=
  (m.sums.get [] b).zipIdx.foldl (fun z x => accumulate z (x.2 / 64) (x.2 % 64) x.1) z

/-- MSCA: each element of the tile takes the scaled integer, with one rounding (R80, R270). -/
def scaleTile (m : MxCmd) (z zi : Tile) : Tile × Flags :=
  (List.range 4096).foldl (fun (acc : Tile × Flags) n =>
    let (i, j) := (n / 64, n % 64)
    let (v, fl) := msca1 (acc.1.elem i j).toNat (zi.elem i j).toInt (m.scales.getD i 0) (m.scales.getD (64 + j) 0)
    (acc.1.put i j (.ofNat 32 v), acc.2 ||| fl)) (z, 0)

/-- What a command does to its tile, with the flags it raises; none where it consumes poison. -/
def runCmd (s : State) (c : Nat) (m : MxCmd) : Option (Tile × Flags) :=
  let z := s.tile c m.bank m.zd
  if m.isMma then
    if z.poison.isEmpty then some ({ (List.range m.nb).foldl (addBlock m) z with tag := 2 }, 0) else none
  else if m.op == 0xCA then
    let zi := s.tile c m.bank m.zs
    if !z.poison.isEmpty || !zi.poison.isEmpty then none
    else
      let (z', f) := scaleTile m z zi
      some ({ z' with tag := 10 }, f)
  else some ({ tag := m.tag }, 0)

/-- Report an engine fault of a command (R274), or the death of its group. -/
def mxReport (s : State) (c : Nat) (m : MxCmd) (cause : Nat) (a : W64) : State :=
  if cause = 0 then killGroup s c m.hslot 0
  else s.modGroup c m.hslot (fun g => { g with heldEng := g.heldEng ++
    [{ cause := cause, slot := m.slot, faddr := a, fword := m.word }] })

/-- Whether a started command's last cycle has come (R265): an MMAS that is stopped ends with its fill. -/
def mxDue (s : State) (c : Nat) (m : MxCmd) : Bool :=
  let now := (s.core c).cycle
  m.started && (decide (m.t0 + m.len ≤ now + 1)
    || (m.sparse && decide (m.t0 + 4 ≤ now + 1) && decide (m.spent < 4)
        && (((mxCatch c m.id 4 s).core c).array.find? (fun x => x.id == m.id && x.len = 4)).isSome))

/-- The last fill cycle of a stopped MMAS stays known after it has left the array, at 17 (R265). -/
def noteStopped (m : MxCmd) (cycle : Nat) (l : SMap Nat) : SMap Nat := if m.sparse && m.stop.isSome then l.set 17 cycle else l

/-- The end of a command whose last cycle has run: it writes its tile, or reports why not, and completes for the m counter. -/
def mxEnd (s : State) (core : Nat) (m : MxCmd) : State :=
  let last (l : SMap Nat) (z : Nat) : SMap Nat := l.set (8 * m.bank + z) (s.core core).cycle
  let s := s.modCore core (fun k => { k with array := k.array.filter (fun x => x.id != m.id), mxClk := clockNext k.mxClk,
                                             zlast := noteStopped m k.cycle (m.names.foldl last k.zlast) })
  let done (s : State) : State := lowerCounter s core m.hslot 1 m.id (s.core core).mxClk
  match m.stop with
  | some (cause, a) => mxReport (done s) core m cause a
  | none =>
    match runCmd s core m with
    | none => mxReport (done s) core m 0 0
    | some (z, fl) =>
      let s := s.setTile core m.bank m.zd z
      done (if fl = 0 then s else (let now := (s.core core).cycle; s.modGroup core m.hslot (fun g => g.setFlags fl 0 now now)))

/-- The oldest command in the array completes in its last cycle. -/
def execMatrixCommandComplete (core : Nat) (s : State) : Host.Outcome State Fault Refusal :=
  match (s.core core).array.find? (mxDue s core) with
  | none => .next s
  | some m =>
    let s := mxCatch core m.id (mxOwed s core m) s
    match (s.core core).array.find? (fun x => x.id == m.id) with
    | none => .next s
    | some m => .next (mxEnd s core m)

/-! ## The port (R266, R272, R273) -/

/-- The columns of the row that a strand of a slot names, as positions of the tile. -/
def MxCmd.places (m : MxCmd) (slot : Nat) : List Nat :=
  (List.range m.cols).map (fun j => 64 * ((m.row0 + slot) % 64) + m.col0 + j)

/-- Serve the strand of a rank of an ACRD: its registers fill in cycle T0 + rank + 4. -/
def serveRead (core : Nat) (m : MxCmd) (s : State) (x : (Nat × Nat) × Nat) : State :=
  let q := x.1
  let z := s.tile core m.bank m.zd
  let words : List W64 := if m.st then [z.status]
    else (m.places q.1).map (fun n => ((z.elems.get 0 n).zeroExtend 64 : W64))
  if !(s.strand core m.team q.2).live then s
  else
    let (id, s) := s.fresh
    { s with fills := s.fills ++ [{ id := id, core := core, hslot := m.hslot, uni := false, sid := q.2,
                                    pos := m.wbase + m.vb, words := words, other := true,
                                    due := (s.core core).cycle + x.2 + 4 }] }

/-- Write one strand's row of an ACWR. -/
def serveWrite (m : MxCmd) (z : Tile) (q : Nat × Nat) : Tile :=
  ((m.places q.1).zip (m.vals.get [] q.1)).foldl (fun z v =>
    { z with elems := SMap.put 0 z.elems v.1 v.2, poison := z.poison.filter (· != v.1) }) z

/-- Whether an ACRD reads a poisoned element: the command then writes nothing, and its group dies (R274). -/
def readsPoison (s : State) (core : Nat) (m : MxCmd) : Bool :=
  m.op == 0xCC && !m.st && m.ranks.any (fun q => (m.places q.1).any (s.tile core m.bank m.zd).poison.contains)

/-- The head of a bank's port queue begins: it serves its strands in rank order, one per cycle from this one on (R266). -/
def execPortCommandStart (core bank : Nat) (s : State) : Host.Outcome State Fault Refusal :=
  let k := s.core core
  match k.port.find? (fun m => m.bank == bank && !m.started) with
  | none => .next s
  | some m =>
    if k.port.any (fun x => x.started) || tileBusy k m || k.cycle ≤ m.at_ || k.zlast.find? 16 == some k.cycle then .next s
    else
      let start (x : MxCmd) : MxCmd :=
        if x.id == m.id then { x with started := true, t0 := k.cycle, len := Nat.max 1 m.ranks.length } else x
      let s := s.setCore core { k with port := k.port.map start, mxClk := clockNext (Nat.max k.mxClk m.clk) }
      let z := s.tile core bank m.zd
      if readsPoison s core m then .next (killGroup s core m.hslot 0)
      else
        let s := m.ranks.zipIdx.foldl (fun s x => chargeAt s core m.hslot (if m.st then 0 else 8 * m.cols) (k.cycle + x.2)) s
        if m.op == 0xCC then
          let s := m.ranks.zipIdx.foldl (serveRead core m) s
          .next (if m.st && m.wclr && !m.ranks.isEmpty then s.setTile core bank m.zd { z with wrap := false } else s)
        else .next (s.setTile core bank m.zd (m.ranks.foldl (serveWrite m) z))

/-- A port command completes in its last serving cycle: its tile, and the port, are free from the next (R266). `zlast` holds the
port's own last cycle at 16. -/
def execPortCommandComplete (core bank : Nat) (s : State) : Host.Outcome State Fault Refusal :=
  let k := s.core core
  let due (m : MxCmd) : Bool := m.bank == bank && m.started && decide (m.t0 + m.len ≤ k.cycle + 1)
  match k.port.find? due with
  | none => .next s
  | some m => .next (s.setCore core { k with port := k.port.filter (fun x => !due x),
                                             zlast := (k.zlast.set (8 * bank + m.zd) k.cycle).set 16 k.cycle })

end Sys2Proof.Machine
end

