-- ==== Sys2Proof/Machine/Launch.lean ====
section
/-! DEFINITION. Launches (R282-R290): records and their status, contexts, queues and handles, the fit of a team on a
core, ring entries, and the runs of LAUNCH at the dispatcher (R295). -/

namespace Sys2Proof.Machine

/-! ## Access -/

/-- Handles belong to a partition. -/
def launchKey (part handle : Nat) : Nat := part * 2 ^ 32 + handle

def State.launch? (s : State) (part handle : Nat) : Option Launch := SMap.find? s.launches (launchKey part handle)

def State.setLaunch (s : State) (l : Launch) : State :=
  { s with launches := s.launches.set (launchKey l.part l.handle) l }

/-- Whether the dispatchers are ready (R357). -/
def dpReady (s : State) : Bool := s.plat.rdy.getLsbD 10

/-- A queue register of queue q. -/
def lqReg (p : Part) (q off : Nat) : W64 := p.regs.get 0 (0x1000 + 0x40 * q + off)

def lqEnabled (p : Part) (q : Nat) : Bool := (lqReg p q 0).getLsbD 0

/-- The clusters of a partition (R302). -/
def clustersOf (p : Part) : List Nat := (List.range 24).filter (p.regs.get 0 0).getLsbD

/-! ## Accesses of the dispatcher -/

/-- A byte from outside the device. -/
def remoteBytes (s : State) (n : Nat) : List Byte × State :=
  ((List.range n).map (fun j => Sys2Proof.Config.remoteByte (s.freeCtr + j)), { s with freeCtr := s.freeCtr + n })

/-- The checks of an access that the dispatcher makes in a context: where it goes, or the cause that denies it. -/
def dispAccess (s : State) (asid : Nat) (pkr va : W64) (n : Nat) (rd wr atom : Bool) : State × (Stage ⊕ Nat) :=
  if 2 ^ 61 ≤ va.toNat then (s, .inr 4)
  else
    let v := va.toNat % 2 ^ 57
    match translate s 0 asid v 0 va.toNat with
    | (none, s) => (s, .inr 11)
    | (some e, s) =>
      match routeAt s 0 (v / 256) asid 0 va.toNat e with
      | (.inr cause, s) => (s, .inr cause)
      | (.inl st, s) =>
        let l := e.leaf
        if (rd && !l.rd) || (wr && !l.w) then (s, .inr 6)
        else if (rd && keyDenies pkr l.key false) || (wr && keyDenies pkr l.key true) then (s, .inr 7)
        else if atom && !reachOk l (.atomic 0x90 false false true) then (s, .inr 12)
        else
          match st with
          | .home pl =>
            let pa := pl + v % 256
            let off (i : Nat) : Bool := s.tags.get 0 (pa / 32 + i) != .ofNat 4 (va.toNat / 2 ^ 57)
            if l.tagc && (List.range ((pa % 32 + n + 31) / 32)).any off then (s, .inr 8) else (s, .inl (.home pa))
          | .host pl => (s, .inl (.host (pl + v % 256)))
          | .peer m pl => (s, .inl (.peer m (pl + v % 256)))
          | st => (s, .inl st)

/-- Read bytes of a context; none where an access is denied. -/
def dispRead (s : State) (asid : Nat) (pkr va : W64) (n : Nat) : State × Option (List Byte) :=
  match dispAccess s asid pkr va n true false false with
  | (s, .inl (.home pa)) => (s, some (newestBytes s pa n))
  | (s, .inl _) =>
    let (b, s) := remoteBytes s n
    (s, some b)
  | (s, .inr _) => (s, none)

/-- Send a write of a partition's dispatcher where it goes, or its AADD of 8 bytes (R296). -/
def dispTrack (s : State) (part asid : Nat) (va : W64) (st : Stage) (bytes : List Byte) (kind : PostKind) : Track × State :=
  match st with
  | .home pa =>
    let (t, s) := arriveAt s (pa / 256) { t := none, bytes := putBytes [] (pa % 256) bytes }
    (.home t, s)
  | st =>
    let (id, s) := s.fresh
    let at_ := match st with
      | .host pa => pa
      | .peer _ pa => pa
      | _ => 0
    let p : Posted := { id := id, kind := kind, core := 0, hslot := part, asid := asid, line := at_ / 256, stage := st,
                        bytes := putBytes [] (at_ % 256) bytes, since := s.gt, va := va }
    let add : Acc := { kind := .atomic 0x90 false false true, core := 0, hslot := part, sid := 0, slot := 0, uni := false,
                       addr := va, pc := 0, word := 0, size := 8, pos := 0, data := bytesVal bytes, asid := asid }
    let s := { s with posted := s.posted ++ [p] }
    (.remote id, match st, kind with
      | .peer m pa, .atomic => sendPeer s m 4 pa (atomicPayload add 0 0) id
      | .peer m pa, _ => sendPeer s m 3 pa bytes id
      | _, _ => s)

def dispSend (s : State) (part asid : Nat) (va : W64) (st : Stage) (bytes : List Byte) (kind : PostKind) : State :=
  (dispTrack s part asid va st bytes kind).2

/-- Whether a write of the dispatcher is done. -/
def trackDone (s : State) : Track → Bool
  | .home t => decide (t < s.gt)
  | .remote id => !s.posted.any (fun p => p.id == id)

/-- Whether a release of a partition's dispatcher may perform: its earlier writes are done. -/
def dispReleased (s : State) (part : Nat) : Bool := (s.part part).writes.all (trackDone s)

/-- A write of a partition's dispatcher that a later release waits for. -/
def dispWrite (s : State) (part asid : Nat) (va : W64) (st : Stage) (bytes : List Byte) (kind : PostKind) : Track × State :=
  let (t, s) := dispTrack s part asid va st bytes kind
  (t, s.modPart part (fun p => { p with writes := t :: p.writes.filter (fun x => !trackDone s x) }))

/-- Words of bytes. -/
def wordsOf : Nat → List Byte → List W64
  | 0, _ => []
  | n + 1, l => .ofNat 64 (bytesVal (l.take 8)) :: wordsOf n (l.drop 8)

/-! ## Contexts (R284) -/

/-- Read a context record for a partition; its root table and its quota, and when new its carats, become known. -/
def readContext (s : State) (part pa : Nat) : Context × State :=
  let w (n : Nat) : W64 := .ofNat 64 (newestWord s (pa + 8 * n) 8)
  let asid := bitsAt (w 0) 0 16
  let c : Context := { asid := asid, sys := (w 0).getLsbD 16, root := bitsAt (w 1) 12 40 * 4096, enable := w 2,
                       ebase := w 3, pkr := w 4, arena := .ofNat 64 (bitsAt (w 5) 21 36 * 2 ^ 21),
                       ssz := bitsAt (w 6) 0 16, nstripe := bitsAt (w 6) 16 32, quota := (w 7).toNat, addr := pa }
  let s := { s with roots := s.roots.set asid c.root, gov := { s.gov with qcs := s.gov.qcs.set asid (c.quota, part) } }
  (c, if (SMap.find? s.quotas asid).isSome then s else { s with quotas := s.quotas.set asid c.quota })

/-- The context bound to a queue. -/
def queueCtx (p : Part) (q : Nat) : Nat := bitsAt (lqReg p q 8) 6 46 * 64

/-! ## Records (R282) -/

def Launch.w (l : Launch) (n : Nat) : W64 := l.words.getD n 0
def Launch.nstr (l : Launch) : Nat := bitsAt (l.w 2) 0 11
def Launch.gsize (l : Launch) : Nat := bitsAt (l.w 2) 16 2 + 1
def Launch.cor (l : Launch) : Bool := (l.w 2).getLsbD 18
def Launch.fuse (l : Launch) : Bool := (l.w 2).getLsbD 19
def Launch.dclass (l : Launch) : Nat := bitsAt (l.w 2) 20 2
def Launch.prio (l : Launch) : Nat := bitsAt (l.w 2) 30 2
def Launch.nteam (l : Launch) : Nat := if bitsAt (l.w 2) 32 32 = 0 then 2 ^ 32 else bitsAt (l.w 2) 32 32
def Launch.role (l : Launch) (n : Nat) : Nat := bitsAt (l.w 3) (8 * n) 6
def Launch.budget (l : Launch) (n : Nat) : Nat := (bitsAt (l.w 3) (24 + 4 * n) 3 + 1) * 32
def Launch.loc (l : Launch) : Nat := bitsAt (l.w 3) 36 9
def Launch.pw (l : Launch) : Nat := bitsAt (l.w 3) 48 15
def Launch.groups (l : Launch) : Nat := (l.nstr + 31) / 32

/-- The role of a group of a team (R15). -/
def Launch.roleOf (l : Launch) (g : Nat) : Nat :=
  if g < l.role 0 then 0 else if g < l.role 0 + l.role 1 then 1 else 2

/-- Strands of a group of a team (R61). -/
def Launch.strandsOf (l : Launch) (g : Nat) : Nat := Nat.min 32 (l.nstr - 32 * g)

/-- The registers of a team's strands (R53). -/
def Launch.regWords (l : Launch) : Nat :=
  ((List.range l.groups).map (fun g => l.strandsOf g * l.budget (l.roleOf g))).sum

/-- 4 KiB units of local memory with the spill area (R48, R290). -/
def Launch.units (l : Launch) : Nat := l.loc + (384 * l.groups + 4095) / 4096

/-- Whether every reserved field of a record is 0. -/
def reservedZero (l : Launch) : Bool :=
  bitsAt (l.w 2) 11 5 == 0 && bitsAt (l.w 2) 22 2 == 0 && bitsAt (l.w 3) 6 2 == 0 && bitsAt (l.w 3) 14 2 == 0
    && bitsAt (l.w 3) 22 2 == 0 && bitsAt (l.w 3) 27 1 == 0 && bitsAt (l.w 3) 31 1 == 0 && bitsAt (l.w 3) 35 1 == 0
    && bitsAt (l.w 3) 45 3 == 0 && bitsAt (l.w 3) 63 1 == 0 && bitsAt (l.w 5) 40 24 == 0 && l.w 7 == 0

/-- The conditions of status 1 (R283); `queue` is the ring's queue for a ring entry. -/
def recordBad (l : Launch) (queue : Option Nat) : Bool :=
  !reservedZero l || l.nstr = 0 || 1024 < l.nstr || 16384 < l.pw
    || l.role 0 + l.role 1 + l.role 2 ≠ l.groups || l.nteam % l.gsize ≠ 0
    || (l.w 0).toNat % 8 ≠ 0 || 2 ^ 61 ≤ (l.w 0).toNat || (l.w 1).toNat % 64 ≠ 0 || 2 ^ 61 ≤ (l.w 1).toNat
    || (match queue with | some q => l.queue ≠ q | none => false)

/-! ## Fit (R290, R291) -/

def allTeams (s : State) : List (Nat × Nat × Team) :=
  (s.cores.map (fun (k : Nat × Core) => k.2.teams.map (fun t => (k.1, t.1, t.2)))).flatten

/-- The first run of n free group slots of a core. -/
def slotRun (k : Core) (n : Nat) : Option Nat :=
  (List.range (65 - n)).find? (fun h => (List.range n).all (fun i => !(k.groups.get {} (h + i)).alloc))

/-- Stripes of a context in use: those of every launch of the context that has not retired (R285, R296). -/
def stripesUsed (s : State) (asid : Nat) : List Nat :=
  ((s.launches.vals.filter (fun l => l.ctx.asid == asid)).map Launch.stripes).flatten

/-- The lowest free stripe of a context. -/
def freeStripe (s : State) (ctx : Context) : Option Nat :=
  let used := stripesUsed s ctx.asid
  (List.range (Nat.min ctx.nstripe (used.length + 1))).find? (fun i => !used.contains i)

def clusterEmpty (s : State) (cl : Nat) : Bool := (List.range 8).all (fun i => (s.core (8 * cl + i)).teams.isEmpty)

/-- The first launch of a queue. -/
def headOf (p : Part) (q : Nat) : Option Nat := (p.queues.get [] q).head?

/-- Whether a core is kept from a gang: reserved for another head (R292), drained or failed (R301, R345). `head` is the handle
of the launch whose next gang is to be placed; a team placed again after a swap-out is of no such gang. -/
def coreBarred (s : State) (part : Nat) (head : Option Nat) (core : Nat) : Bool :=
  let p := s.part part
  p.reserved.any (fun r => some r.1 != head && r.2.contains core) || clusterDraining s (clusterOf core)
    || p.failed.contains (clusterOf core)

/-- The first group slot that a team of a launch takes on a core, when it fits; a new team also needs a stripe. -/
def fitTeam (s : State) (l : Launch) (core : Nat) (head : Option Nat) (new : Bool) : Option Nat :=
  let k := s.core core
  let cl := clusterOf core
  let regs := (k.teams.vals.map Team.regWords).sum + l.regWords
  let units := (k.teams.vals.map Team.locUnits).sum + l.units
  let banks := [0, 1].any (fun b => (k.banks.get {} b).owner.isNone)
  if coreBarred s l.part head core || 8 ≤ k.teams.length || 131072 < regs || 256 < units
      || (0 < l.role 1 && !banks) || (!clusterEmpty s cl && s.fused.contains cl != l.fuse)
      || (new && (freeStripe s l.ctx).isNone) then none
  else slotRun k l.groups

/-- Empty a cluster's L1s: dirty lines are written back and every line is dropped (R291, R345). -/
def flushCluster (s : State) (cl : Nat) : State :=
  (List.range 8).foldl (fun s i =>
    let c := 8 * cl + i
    let s := (s.core c).l1.foldl (fun s l => postWriteback s c l) s
    s.modCore c (fun k => { k with l1 := [] })) s

/-- Switch an empty cluster to the fused mode of the team to come (R291). -/
def switchFused (s : State) (cl : Nat) (fuse : Bool) : State :=
  if s.fused.contains cl == fuse then s
  else
    let s := flushCluster s cl
    { s with fused := if fuse then cl :: s.fused else s.fused.filter (· ≠ cl) }

/-- Take the core's resources for a team at a first group slot. -/
def seatTeam (s : State) (core h0 : Nat) (l : Launch) (t : Team) (groups : List GroupSlot) (tiles : SMap Tile) :
    Nat × State :=
  let s := if clusterEmpty s (clusterOf core) then switchFused s (clusterOf core) l.fuse else s
  let k := s.core core
  let ti := ((List.range 8).find? (fun i => (k.teams.find? i).isNone)).getD 0
  let bank := if l.role 1 = 0 then none else [0, 1].find? (fun b => (k.banks.get {} b).owner.isNone)
  let banks := match bank with
    | some b => k.banks.set b { owner := some ti, tiles := tiles }
    | none => k.banks
  let put (m : SMap GroupSlot) (q : GroupSlot × Nat) : SMap GroupSlot :=
    m.set (h0 + q.2) { q.1 with alloc := true, team := ti }
  let t' := { t with bank := bank, h0 := h0, startCycle := k.cycle, started := false }
  (ti, s.setCore core { k with teams := k.teams.set ti t', groups := groups.zipIdx.foldl put k.groups,
                               banks := banks })

/-- Note where the member of a gang now stands, in every team of the gang. -/
def setMember (s : State) (part handle gang pos core ti : Nat) : State :=
  let mine (t : Team) : Bool := t.part = part && t.launch = handle && t.gang = gang
  let old := (allTeams s).find? (fun q => mine q.2.2 && !q.2.2.members.isEmpty)
  let one (t : Team) : Team :=
    if mine t then
      let ms := match old with
        | some q => q.2.2.members
        | none => List.replicate t.gangSize (core, ti)
      { t with members := ms.set pos (core, ti) }
    else t
  { s with cores := s.cores.map (fun (k : Nat × Core) =>
      (k.1, { k.2 with teams := k.2.teams.map (fun t => (t.1, one t.2)) })) }

/-- The team record of team `idx` of a launch, as it is first placed (R61, R285, R347). -/
def newTeam (l : Launch) (idx pos stripe : Nat) : Team :=
  let base : Nat := l.ctx.arena.toNat + stripe * l.ctx.ssz * 2 ^ 21
  { launch := l.handle, part := l.part, index := idx, gang := idx / l.gsize, nstr := l.nstr, nteam := l.nteam,
    gangSize := l.gsize, gangPos := pos, ctx := l.ctx, lsize := l.loc * 4096, laneWords := l.pw,
    budgets := [(0, l.budget 0), (1, l.budget 1), (2, l.budget 2)], dclass := l.dclass, fuse := l.fuse,
    stripe := stripe, farea := .ofNat 64 base, sbase := .ofNat 64 (base + 0x200000),
    pbase := .ofNat 64 (base + 0x600000), args := l.args, roles := [l.role 0, l.role 1, l.role 2], entry := l.w 0,
    locUnits := l.units, regWords := l.regWords }

/-- Place team `pos` of a gang of a launch on a core. -/
def placeTeam (s : State) (l : Launch) (gang pos core : Nat) : Option State :=
  match fitTeam s l core (some l.handle) true, freeStripe s l.ctx with
  | some h0, some st =>
    let idx := gang * l.gsize + pos
    let gs : List GroupSlot := (List.range l.groups).map (fun i => { gid := i, role := l.roleOf i })
    let (ti, s) := seatTeam s core h0 l (newTeam l idx pos st) gs []
    let s := setMember s l.part l.handle gang pos core ti
    let l' := (s.launch? l.part l.handle).getD l
    some (s.setLaunch { l' with stripes := st :: l'.stripes })
  | _, _ => none

/-- Place a gang on the window that begins at a core. -/
def placeGangAt (s : State) (l : Launch) (gang c0 : Nat) : Option State :=
  (List.range l.gsize).foldl (fun (o : Option State) j => o.bind (fun s => placeTeam s l gang j (c0 + j))) (some s)

/-- The first cores of the windows of a partition, ascending. -/
def windows (p : Part) (g : Nat) : List Nat :=
  ((clustersOf p).map (fun cl => (List.range (9 - g)).map (8 * cl + ·))).flatten

/-- Place a gang first fit; the windows may be limited to those that begin at a listed core. -/
def placeGang (s : State) (l : Launch) (gang : Nat) (only : Option Nat) : Option State :=
  let ws := windows (s.part l.part) l.gsize
  (match only with | some c => ws.filter (· == c) | none => ws).findSome? (placeGangAt s l gang)

/-- Place `n` further gangs of a launch, or none (R293). -/
def placeAll (l : Launch) : Nat → Nat → State → Option State
  | 0, _, s => some s
  | n + 1, gang, s => (placeGang s l gang none).bind (placeAll l n (gang + 1))

/-- The partition with every core empty, every stripe free and nothing reserved (R283 status 2). -/
def emptied (s : State) (part : Nat) : State :=
  let s := { s with cores := [], launches := [], fused := [] }
  s.modPart part (fun p => { p with reserved := [], draining := [], failed := [] })

/-- Whether a launch could be placed in the empty partition. A core holds at most 8 teams, so no more than 1,536
teams are placed at once. -/
def placeable (s : State) (l : Launch) : Bool :=
  let e := emptied s l.part
  let gangs := l.nteam / l.gsize
  l.groups * 128 * l.pw + 6 * 2 ^ 20 ≤ l.ctx.ssz * 2 ^ 21
    && (if l.cor then gangs ≤ 1536 && (placeAll l (Nat.min gangs 1536) 0 e).isSome else (placeGang e l 0 none).isSome)

/-! ## Acceptance (R283, R287, R288) -/

/-- Whether a handle is free: not 0 and of no live launch. -/
def handleFree (s : State) (part h : Nat) : Bool := h ≠ 0 && (s.launch? part h).isNone

/-- The next handle from a counter, skipping 0 and live ones: no more are skipped than launches are live. -/
def skipHandles (s : State) (part : Nat) : Nat → Nat → Nat
  | 0, h => h
  | n + 1, h => if handleFree s part h then h else skipHandles s part n ((h + 1) % 2 ^ 32)

def nextHandle (s : State) (part : Nat) : Nat × State :=
  let h := skipHandles s part (s.launches.length + 2) (s.part part).handle
  (h, s.modPart part (fun p => { p with handle := (h + 1) % 2 ^ 32 }))

/-- The record as a launch: its words in a context. -/
def recordLaunch (part handle : Nat) (ctx : Context) (words args : List W64) : Launch :=
  { handle := handle, part := part, queue := bitsAt (words.getD 2 0) 24 6, words := words, args := args, ctx := ctx }

/-- The status of a record that could be read (R283). -/
def statusOf (s : State) (l : Launch) (queue : Option Nat) : Nat :=
  let p := s.part l.part
  if recordBad l queue then 1
  else if !lqEnabled p l.queue || queueCtx p l.queue ≠ l.ctx.addr then 4
  else if !placeable s l then 2
  else 0

/-- Read a record's argument block, and judge the record. An address of the block that no access may have is status 1, as the
table of R283 says. -/
def judge (s : State) (part handle : Nat) (ctx : Context) (pkr : W64) (words : List W64) (queue : Option Nat) :
    Nat × Launch × State :=
  let args := words.getD 1 0
  if 2 ^ 61 ≤ args.toNat then (1, recordLaunch part handle ctx words [], s)
  else
    let (s, b) := dispRead s ctx.asid pkr (args &&& ~~~63#64) 64
    match b with
    | none => (3, recordLaunch part handle ctx words [], s)
    | some b =>
      let l := recordLaunch part handle ctx words (wordsOf 8 b)
      (statusOf s l queue, l, s)

/-- The live launches that a record's dependences name. -/
def liveDeps (s : State) (l : Launch) : List Nat :=
  [bitsAt (l.w 4) 0 32, bitsAt (l.w 4) 32 32].filter (fun d => d ≠ 0 && (s.launch? l.part d).isSome)

/-- Launches waiting in a queue. -/
def waitingIn (p : Part) (q : Nat) : Nat := (p.queues.get [] q).length

/-- Enter a queue at its tail. -/
def enterQueue (s : State) (l : Launch) : State :=
  (s.setLaunch l).modPart l.part (fun p => { p with queues := p.queues.update [] l.queue (· ++ [l.handle]) })

/-- Clear a queue's enable bit; its head's reservation falls (R286, R292). -/
def disableQueue (s : State) (part q : Nat) : State :=
  s.modPart part (fun p => { p with regs := p.regs.set (0x1000 + 0x40 * q) (lqReg p q 0 &&& ~~~1#64),
                                    reserved := (match headOf p q with | some h => p.reserved.erase h | none => p.reserved) })

/-- Cameo logs an accepted record (R339 kind 1): queue, handle and source, 0 a ring and 1 LAUNCH, with its 64
bytes. -/
def logRecord (s : State) (l : Launch) (source : Nat) : State :=
  cmEvent s 0 1 l.ctx.asid l.part [] [l.queue, l.handle, source] ((l.words.map (fun w => wordBytes 8 w.toNat)).flatten)

/-- Whether Cameo replays a context. -/
def replays (s : State) (asid : Nat) : Bool :=
  let d := s.die 0
  cmMode d == 2 && cmSelects d asid && !cmDiverged d

/-- Whether the next logged record is one that Cameo enters itself: records of LAUNCH wait for it (R340). -/
def ringRecordNext (s : State) (asid : Nat) : Bool :=
  replays s asid && (match cmNext s 0 1 [] with | some (_, id) => id.getD 2 0 == 0 | none => false)

/-- LQHEAD moves on to the next entry. -/
def advanceHead (s : State) (part q : Nat) : State :=
  s.modPart part (fun p =>
    { p with regs := p.regs.set (0x1000 + 0x40 * q + 0x20) (.ofNat 64 (((lqReg p q 0x20).toNat + 1) % 2 ^ 32)),
             heads := p.heads.filter (fun x => x.1 != q) })

/-- The dispatcher reads the entry at LQHEAD (R286): the handle and the status go into its word 5, as a release naming h and c,
and LQHEAD advances once that write is done. -/
def acceptEntry (s : State) (part q : Nat) (ctx : Context) (va : W64) : State :=
  match dispRead s ctx.asid ctx.pkr va 64 with
  | (s, none) =>
    queueNotice (disableQueue s part q) part { kind := 3, cause := 0, faddr := va, asid := ctx.asid }
  | (s, some b) =>
    let (h, s) := nextHandle s part
    let (st, l, s) := judge s part h ctx ctx.pkr (wordsOf 8 b) (some q)
    let l := { l with deps := liveDeps s l }
    let s := if st = 0 then logRecord (enterQueue s l) l 0 else s
    match dispAccess s ctx.asid ctx.pkr (va + 40) 8 false true false with
    | (s, .inl dst) =>
      let (t, s) := dispWrite s part ctx.asid (va + 40) dst (wordBytes 8 (h + st * 2 ^ 32)) .service
      s.modPart part (fun p => { p with heads := (q, t) :: p.heads })
    | (s, .inr _) => advanceHead s part q

/-- Whether a ring holds an entry that the dispatcher may take; the write of word 5 is a release, which waits for the
dispatcher's earlier writes. -/
def ringReady (s : State) (part q : Nat) : Bool :=
  let p := s.part part
  dpReady s && lqEnabled p q && waitingIn p q < 1024 && lqReg p q 0x18 != lqReg p q 0x20 && dispReleased s part

/-- The dispatcher accepts a ring entry (R286), or moves LQHEAD past the last one. In replay Cameo enters the logged records
itself (R340). -/
def execRingEntryAccept (part queue : Nat) (s : State) : Host.Outcome State Fault Refusal :=
  match (s.part part).heads.find? (fun x => x.1 == queue) with
  | some x => .next (if trackDone s x.2 then advanceHead s part queue else s)
  | none =>
    if !ringReady s part queue then .next s
    else
      let p := s.part part
      let (ctx, s) := readContext s part (queueCtx p queue)
      let head := (lqReg p queue 0x20).toNat
      if replays s ctx.asid then .next s
      else
        let ring := lqReg p queue 0x10
        let n := 2 ^ Nat.min 10 (bitsAt ring 0 4)
        let va : W64 := .ofNat 64 (bitsAt ring 12 45 * 4096 + head % n * 64)
        .next (acceptEntry s part queue ctx va)

/-! ## Runs of LAUNCH (R295) -/

def setRunOf (s : State) (x : Run) : State := { s with runs := s.runs.map (fun y => if y.id == x.id then x else y) }

/-- Fill a strand's handle and status pair, unless the strand has exited. -/
def fillPair (s : State) (x : Run) (sid pos h st : Nat) : State :=
  if !(s.strand x.core (s.group x.core x.hslot).team sid).live then s
  else
    let (id, s) := s.fresh
    { s with fills := s.fills ++ [{ id := id, core := x.core, hslot := x.hslot, uni := false, sid := sid, pos := pos,
                                    words := [.ofNat 64 h, .ofNat 64 st], other := true }] }

/-- The records of a run take their handles, in slot order. -/
def takeHandles (x : Run) (acc : State × List Child) (q : Nat × Nat × W64) : State × List Child :=
  let (h, s) := nextHandle acc.1 x.part
  (s, acc.2 ++ [{ sid := q.1, pos := q.2.1, addr := q.2.2, handle := h }])

/-- The status of a record of a run, and its launch. -/
def judgeChild (s : State) (x : Run) (ch : Child) : Nat × Launch × State :=
  match dispRead s x.ctx.asid x.pkr ch.addr 64 with
  | (s, none) => (3, recordLaunch x.part ch.handle x.ctx [] [], s)
  | (s, some b) => judge s x.part ch.handle x.ctx x.pkr (wordsOf 8 b) none

/-- The x counter falls once every child has entered its queue or been rejected. -/
def endRun (s : State) (x : Run) : State :=
  lowerCounter { s with runs := s.runs.filter (fun y => y.id != x.id) } x.core x.hslot 2 x.id 0

/-- Judge the records of a run in order (R295): a rejected one fills its pair and the next is judged; an accepted one is live from
here on, and holds up those behind it until it has entered its queue. While Cameo has a ring entry to enter, none is judged
(R340). -/
def judgeRun (x : Run) : List Child → State → List Child × State
  | [], s => ([], s)
  | ch :: rest, s =>
    if ch.launch.isSome || ringRecordNext s x.ctx.asid then (ch :: rest, s)
    else
      let (st, l, s) := judgeChild s x ch
      if st = 0 then
        let l := { l with deps := liveDeps s l }
        ({ ch with launch := some l } :: rest, logRecord (s.setLaunch l) l 1)
      else judgeRun x rest (fillPair s x ch.sid ch.pos ch.handle st)

/-- A run goes on with the records that are left. -/
def runOn (s : State) (x : Run) (cs : List Child) : State :=
  let (cs, s) := judgeRun x cs s
  if cs.isEmpty then endRun s x else setRunOf s { x with arrived := true, children := cs }

/-- A run reaches the dispatcher: its records take their handles in slot order, the trace shows the run (R330), and its first
record is judged. -/
def execLaunchRunArrival (id : Nat) (s : State) : Host.Outcome State Fault Refusal :=
  match s.runs.find? (fun x => x.id == id && !x.arrived) with
  | none => .next s
  | some x =>
    if ringRecordNext s x.ctx.asid then .next s
    else
      let first := (nextHandle s x.part).1
      let (s, cs) := x.items.foldl (takeHandles x) (s, [])
      let s := emitTraceAt s x.core x.hslot 8 0 x.slot (first + x.items.length * 2 ^ 32) x.pc x.e
      .next (runOn s x cs)

/-- The accepted record at the head of a run enters its queue once it has room; before any enters, the run has acted as a release
naming c and y (R231). The next record is judged after that. -/
def execChildQueueEntry (id : Nat) (s : State) : Host.Outcome State Fault Refusal :=
  match s.runs.find? (fun x => x.id == id && x.arrived) with
  | none => .next s
  | some x =>
    match x.children with
    | [] => .next (endRun s x)
    | ch :: rest =>
      match ch.launch with
      | none => .next (runOn s x x.children)
      | some l =>
        -- the launch as it is now: what it waited for may have retired
        let l := (s.launch? x.part ch.handle).getD l
        if 1024 ≤ waitingIn (s.part x.part) l.queue || !observersDone s x.core x.hslot x.id false 6#6 then .next s
        else .next (runOn (fillPair (enterQueue s l) x ch.sid ch.pos l.handle 0) x rest)

end Sys2Proof.Machine
end

