-- ==== Sys2Proof/Machine/Place.lean ====
section
/-! DEFINITION. Placement (R289-R293), the start of a team (R61), pre-emption and restart (R170-R172, R256, R300),
swap-out (R298, R299), retirement (R296), notices (R297), group control (R298) and the self-test drain (R301). -/

namespace Sys2Proof.Machine

/-! ## Teams off their core -/

/-- The resident team of a launch with a team index: core and number on it. -/
def residentTeam (s : State) (part handle idx : Nat) : Option (Nat × Nat) :=
  ((allTeams s).find? (fun q => q.1 < 192 && q.2.2.part = part && q.2.2.launch = handle && q.2.2.index = idx)).map
    (fun q => (q.1, q.2.1))

/-- Resident teams of a launch. -/
def residents (s : State) (part handle : Nat) : List (Nat × Nat) :=
  ((allTeams s).filter (fun q => q.1 < 192 && q.2.2.part = part && q.2.2.launch = handle)).map (fun q => (q.1, q.2.1))

/-- The record of a saved team. -/
def savedTeamOf (s : State) (v : SavedTeam) : Team := s.team v.place 0

/-- Whether a saved team may be placed again: every fault of it that went to the supervisor has had its resume
action (R172). -/
def savedReady (v : SavedTeam) : Bool :=
  v.groups.all (fun g => match g.fault with
    | some f => !f.supervisor || v.resume.contains g.gid
    | none => true)

/-- The step of a group that has moved to a core (R313): the carats of a period that has ended are none of the present one, which
began with the core's last tick, or with the STEP where that came later. -/
def movedStep (x : StepRec) (cycle phase period tick tickCycle : Nat) : StepRec :=
  { x with cycle := 0, tick := tick, periodCycle := Nat.max tickCycle (cycle - (phase - x.phase) / period),
           periodCarat := if x.tick = tick then x.periodCarat else 0 }

/-- A saved group on its new slot: its log names the new place, and what counts by the cycles of a core begins with those of the
new one. -/
def movedGroup (g : GroupSlot) (core h ti cycle : Nat) (step : StepRec) : GroupSlot :=
  let move (a : Acc) : Acc := { a with core := core, hslot := h, team := ti }
  let fresh (f : Frag) : Frag := { f with since := cycle, lastStart := 0, lane := none, run := 0, urgent := false, delay := 0 }
  { g with log := g.log.map (fun l => { l with acc := move l.acc, more := l.more.map move }), late := [],
           frags := g.frags.map (fun p => (p.1, fresh p.2)), spill := g.spill.map (fun p => { p with since := cycle }),
           step := step }

/-- A saved team as it returns: what its queues hold can be popped at once. -/
def movedTeam (t : Team) : Team :=
  { t with restart := true, preempting := 0, pops := [], queues := t.queues.map (fun q => (q.1, q.2.map (fun e => { e with at_ := 0 }))) }

/-- Place a saved team on a core; `head` names its launch where that is a head being placed (R292). -/
def placeSaved (head : Option Nat) (s : State) (v : SavedTeam) (core : Nat) : Option State :=
  let t := savedTeamOf s v
  match s.launch? v.part v.handle with
  | none => none
  | some l =>
    match fitTeam s l core head false with
    | none => none
    | some h0 =>
      let gs := v.groups.map (fun g => if v.resume.contains g.gid then { g with fault := none } else g)
      let (ti, s) := seatTeam s core h0 l (movedTeam t) gs (v.tiles.getD [])
      let cl := clusterOf core
      let tick := (s.gov.domains.get {} (domainOf s cl)).tick
      let step (k : Core) (x : StepRec) : StepRec := movedStep x k.cycle k.phase (periodAt (pointOf s cl)) tick k.tickCycle
      let s := s.modCore core (fun k => { k with groups := k.groups.map (fun p =>
        if p.2.alloc && p.2.team == ti then (p.1, movedGroup p.2 core p.1 ti k.cycle (step k p.2.step)) else p) })
      let s := setMember s v.part v.handle t.gang t.gangPos core ti
      some { s with saved := s.saved.filter (fun x => x.place ≠ v.place), cores := s.cores.erase v.place }

/-- Place the saved teams of one gang on the window that begins at a core. -/
def placeSavedGang (s : State) (vs : List SavedTeam) (c0 : Nat) : Option State :=
  vs.foldl (fun (o : Option State) v =>
    o.bind (fun s => placeSaved (some v.handle) s v (c0 + (savedTeamOf s v).gangPos))) (some s)

/-- The saved teams of a launch that were pre-empted with it, by gang, in ascending gang order (R300). -/
def savedGangs (s : State) (l : Launch) : List (List SavedTeam) :=
  let vs := s.saved.filter (fun v => v.part == l.part && v.handle == l.handle && !v.swap)
  let gangs := (vs.map (fun v => (savedTeamOf s v).gang)).eraseDups.mergeSort (fun a b => a ≤ b)
  gangs.map (fun g => vs.filter (fun v => (savedTeamOf s v).gang == g))

/-- What the next placement of a launch gives, when it fits: pre-empted gangs first, then the next gang; a
co-resident launch whole (R293, R300). `only` limits the window of a reserved head. -/
def placeNext (s : State) (l : Launch) (only : Option Nat) : Option State :=
  let ws := windows (s.part l.part) l.gsize
  let ws := match only with | some c => ws.filter (· == c) | none => ws
  let back (s : State) (g : List SavedTeam) : Option State := ws.findSome? (placeSavedGang s g)
  let gs := savedGangs s l
  let left := l.nteam / l.gsize - l.placed
  match gs with
  | g :: rest =>
    if l.cor then (g :: rest).foldl (fun (o : Option State) g => o.bind (fun s => back s g)) (some s) else back s g
  | [] =>
    let n := if l.cor then left else Nat.min 1 left
    let new := if l.cor then placeAll l (Nat.min n 1537) l.placed s
      else if n = 0 then none else placeGang s l l.placed only
    new.map (fun s => match s.launch? l.part l.handle with
      | some x => s.setLaunch { x with placed := x.placed + n }
      | none => s)

/-- A launch with nothing left to place leaves its queue. -/
def leaveQueue (s : State) (l : Launch) : State :=
  match s.launch? l.part l.handle with
  | some x =>
    if x.nteam / x.gsize ≤ x.placed && (savedGangs s x).isEmpty then
      s.modPart l.part (fun p => { p with queues := p.queues.update [] l.queue (·.filter (· ≠ l.handle)) })
    else s
  | none => s

/-! ## The decision (R289) -/

/-- The head launch of a queue, when the queue is enabled and the head is ready (R288). -/
def readyHead (s : State) (part q : Nat) : Option Launch :=
  let p := s.part part
  if !lqEnabled p q then none
  else
    match p.queues.get [] q with
    | [] => none
    | h :: _ => (s.launch? part h).bind (fun l => if l.deps.isEmpty then some l else none)

/-- The cores that a launch has reserved (R292). -/
def reservedOf (p : Part) (l : Launch) : List Nat := p.reserved.get [] l.handle

/-- The placement that a reserved head makes on its window (R292). -/
def reservedPlacement (s : State) (part : Nat) (l : Launch) : Option State :=
  match reservedOf (s.part part) l with
  | c :: _ => placeNext s l (if l.cor then none else some c)
  | [] => none

/-- The placement that a queue's head would make: on its reserved window, or else wherever it fits (R289). -/
def headPlacement (s : State) (part : Nat) (l : Launch) : Option State :=
  (reservedPlacement s part l).orElse (fun _ => placeNext s l none)

def deficitOf (p : Part) (q : Nat) : Int := p.deficits.get 0 q

/-- Place the head's next gang: its reservation and its wait clock end. -/
def commitPlacement (s' : State) (part : Nat) (l : Launch) : State :=
  (leaveQueue s' l).modPart part (fun p => { p with reserved := p.reserved.erase l.handle, waited := p.waited.erase l.handle })

/-- Gangs of a launch that a placement has placed: new ones, and pre-empted ones placed again. -/
def gangsPlaced (s s' : State) (l : Launch) : Nat :=
  let placed (s : State) : Nat := ((s.launch? l.part l.handle).map Launch.placed).getD 0
  (placed s' - placed s) + ((savedGangs s l).length - (savedGangs s' l).length)

/-- The next of listed queues after one, ascending and wrapping. -/
def nextAfter (qs : List Nat) (q : Nat) : Option Nat := (qs.find? (fun x => q < x)).orElse (fun _ => qs.head?)

/-- The turn among the candidates of the highest rank (R289 step 4). -/
def takeTurn (s : State) (part : Nat) (cands : List (Nat × Launch)) : State :=
  let p := s.part part
  let qs := cands.map Prod.fst
  let holder := p.turn.bind (fun q => cands.find? (fun c => c.1 == q))
  match (if p.turnPlaced < 16 then holder else none) with
  | some (q, l) =>
    if 0 < deficitOf p q then
      match headPlacement s part l with
      | some s' => (commitPlacement s' part l).modPart part (fun p => { p with turnPlaced := p.turnPlaced + gangsPlaced s s' l })
      | none => s
    else passTurn s part qs
  | none => passTurn s part qs
where
  passTurn (s : State) (part : Nat) (qs : List Nat) : State :=
    let p := s.part part
    match nextAfter qs (p.turn.getD 63) with
    | none => s
    | some q =>
      let quantum : Int := (bitsAt (lqReg p q 0) 8 24 * 1024 : Nat)
      s.setPart part { p with turn := some q, turnPlaced := 0, deficits := p.deficits.set q (deficitOf p q + quantum) }

/-- A swapped-out team goes before any unplaced gang of equal or lower rank (R299), first fit. -/
def placeSwapped (s : State) (part rank : Nat) : Option State :=
  (s.saved.filter (fun v => v.part == part && v.swap && savedReady v)).findSome? (fun v =>
    match s.launch? part v.handle with
    | some l =>
      if l.prio < rank then none
      else ((clustersOf (s.part part)).map (fun cl => (List.range 8).map (8 * cl + ·))).flatten.findSome? (placeSaved none s v)
    | none => none)

/-- Whether teams of a launch are out for a self-test drain: its wait clock then stands still (R301). -/
def outForDrain (s : State) (l : Launch) : Bool :=
  l.preempt = 3 || s.saved.any (fun v => v.part == l.part && v.handle == l.handle && v.drained)

/-- The wait clocks of ready heads with a positive deficit run (R292). -/
def runWaits (s : State) (part : Nat) : State :=
  let p := s.part part
  let dt := s.gt - p.lastDecision
  let waiting := (List.range 64).filterMap (fun q =>
    if 0 < deficitOf p q then (readyHead s part q).filter (fun l => !outForDrain s l) else none)
  let waited := waiting.foldl (fun (m : SMap Nat) l => m.update 0 l.handle (· + dt)) p.waited
  s.setPart part { p with waited := waited, lastDecision := s.gt }

/-- Queues with no waiting gang keep no positive deficit (R289 step 5). -/
def capIdle (s : State) (part : Nat) : State :=
  s.modPart part (fun p => { p with deficits := p.deficits.map (fun (d : Nat × Int) =>
    if (p.queues.get [] d.1).isEmpty then (d.1, min d.2 0) else d) })

/-- One decision of a partition. -/
def decide_ (s : State) (part : Nat) : State :=
  let heads := ((List.range 64).map (fun q => (readyHead s part q).map (fun l => (q, l)))).filterMap id
  let cands := heads.filter (fun c => (headPlacement s part c.2).isSome)
  match heads.findSome? (fun c => (reservedPlacement s part c.2).map (fun s' => commitPlacement s' part c.2)) with
  | some s' => s'
  | none =>
    let rank := cands.foldl (fun m c => Nat.max m c.2.prio) 0
    match placeSwapped s part rank with
    | some s' => s'
    | none => if cands.isEmpty then s else takeTurn s part (cands.filter (fun c => c.2.prio == rank))

/-! ## Notices (R160, R297) -/

/-- The 64 bytes of a notice. -/
def noticeBytes (n : Notice) : List Byte :=
  let w0 := n.hslot % 64 * 2 ^ 40 + n.core % 256 * 2 ^ 32 + n.gid % 32 * 2 ^ 21 + n.fslot % 32 * 2 ^ 16
    + n.cause % 256 * 2 ^ 8 + n.kind
  (([w0, n.team % 2 ^ 32 * 2 ^ 32 + n.asid, n.fpc.toNat, n.faddr.toNat, n.fword.toNat, n.area.toNat, n.gt,
    n.launch].map (wordBytes 8)).flatten)

/-- The identity of the dispatcher's push of a notice in the log of Cameo: no group's (R339; log entry 11). -/
def noticeIdent (t : Team) : List Nat := queueIdent t 7 127 1

/-- Push the index of the notice that has been written into queue 7 of the supervisor team, once the write is done. -/
def pushNotice (s : State) (part c ti : Nat) (t : Track) : State :=
  let p := s.part part
  let tm := s.team c ti
  if !trackDone s t || 16 ≤ (queueOf tm 7).length
      || cmHolds s (dieOf c) 5 tm.ctx.asid ((noticeIdent tm).take 2) (noticeIdent tm) then s
  else
    let s := s.setPart part { p with noticeIdx := p.noticeIdx + 1, noticeOut := none }
    let e : QEntry := { val := .ofNat 64 p.noticeIdx, clk := 0, at_ := (s.core c).cycle + 4 }
    let s := s.setTeam c ti { tm with queues := tm.queues.set 7 (queueOf tm 7 ++ [e]) }
    let s := cmEvent s (dieOf c) 5 tm.ctx.asid part ((noticeIdent tm).take 2) (noticeIdent tm) []
    { s with notices := s.notices.set part ((s.notices.get [] part).drop 1) }

/-- Write the head notice to the ring as a release, or log that it cannot be written. -/
def writeNotice (s : State) (part : Nat) (n : Notice) (c ti : Nat) : State :=
  let p := s.part part
  let t := s.team c ti
  if !t.started || 16 ≤ (queueOf t 7).length || !dispReleased s part then s
  else
    let ring := p.regs.get 0 0x10
    let va : W64 := .ofNat 64 (bitsAt ring 12 45 * 4096 + p.noticeIdx % 2 ^ (bitsAt ring 0 4 + 6) * 64)
    match dispAccess s t.ctx.asid t.ctx.pkr va 64 false true false with
    | (s', .inl dst) =>
      let (t, s) := dispWrite s' part t.ctx.asid va dst (noticeBytes n) .service
      s.modPart part (fun p => { p with noticeOut := some t, noticeLogged := false })
    | (s', .inr cause) =>
      if p.noticeLogged then s'
      else
        let s := logViolation s' 0 { gt := s.gt, addr := va.toNat, asid := t.ctx.asid, source := 5,
                                     kind := if cause = 8 then 3 else 2, who := part }
        s.modPart part (fun p => { p with noticeLogged := true })

/-- Deliver the head notice to the supervisor team: its entry is written, and then its index is pushed (R297). -/
def deliverNotice (s : State) (part : Nat) : State :=
  let p := s.part part
  match s.notices.get [] part, residentTeam s part (bitsAt (p.regs.get 0 0x18) 0 32) 0 with
  | n :: _, some (c, ti) =>
    match p.noticeOut with
    | some t => pushNotice s part c ti t
    | none => writeNotice s part n c ti
  | _, _ => s

/-- The die whose Cameo holds back the push of a partition's notice (R340). -/
def noticeHeldAt (s : State) (part : Nat) : Option Nat :=
  match (s.part part).noticeOut, residentTeam s part (bitsAt ((s.part part).regs.get 0 0x18) 0 32) 0 with
  | some t, some (c, ti) =>
    let tm := s.team c ti
    if trackDone s t && (queueOf tm 7).length < 16
        && cmHolds s (dieOf c) 5 tm.ctx.asid ((noticeIdent tm).take 2) (noticeIdent tm) then some (dieOf c) else none
  | _, _ => none

/-- A notice that could not be written waits for a placement decision. -/
def execNoticeDelivery (part : Nat) (s : State) : Host.Outcome State Fault Refusal :=
  .next (if (s.part part).noticeLogged then s else deliverNotice s part)

/-- Every 4 GT ticks the dispatcher makes a decision (R289), and retries a held notice (R297). A cluster with a
known-answer mismatch begins its drain (R345). -/
def execPlacementDecision (part : Nat) (s : State) : Host.Outcome State Fault Refusal :=
  let p := s.part part
  if !dpReady s || s.gt < p.lastDecision + 4 then .next s
  else
    let s := runWaits s part
    let s := if p.noticeLogged then deliverNotice s part else s
    let s := match p.dueDrain with
      | [] => s
      | cl :: rest => s.modPart part (fun p => { p with dueDrain := rest, draining := p.draining ++ [(cl, s.gt)],
                                                        lastDrain := s.gt })
    .next (capIdle (decide_ s part) part)

/-! ## Reservations (R292) -/

/-- Limits of DPLIM in ns. -/
def lim2Of (p : Part) : Nat := bitsAt (p.regs.get 0 8) 16 16 * 1000
def lim1Of (p : Part) : Nat := Nat.min (bitsAt (p.regs.get 0 8) 0 16 * 1000) (lim2Of p)

/-- The window with the fewest teams that is not reserved; ties go to the lowest core. -/
def reserveWindow (s : State) (part g : Nat) : Option (List Nat) :=
  let p := s.part part
  let taken := (p.reserved.vals).flatten
  let ws := ((windows p g).map (fun c => (List.range g).map (c + ·))).filter (fun w => !w.any taken.contains)
  let load (w : List Nat) : Nat := (w.map (fun c => (s.core c).teams.length)).sum
  match ws with
  | [] => none
  | w :: rest => some (rest.foldl (fun b x => if load x < load b then x else b) w)

def execReservationTake (part queue : Nat) (s : State) : Host.Outcome State Fault Refusal :=
  let p := s.part part
  match readyHead s part queue with
  | none => .next s
  | some l =>
    if p.waited.get 0 l.handle ≤ lim1Of p || !(reservedOf p l).isEmpty then .next s
    else
      let w := if l.cor then some (((clustersOf p).map (fun cl => (List.range 8).map (8 * cl + ·))).flatten)
        else reserveWindow s part l.gsize
      match w with
      | some w => .next (s.setPart part { p with reserved := p.reserved.set l.handle w })
      | none => .next s

def execPlaceStarved (part queue : Nat) (s : State) : Host.Outcome State Fault Refusal :=
  let p := s.part part
  match readyHead s part queue with
  | none => .next s
  | some l =>
    if p.waited.get 0 l.handle ≤ lim2Of p || p.starved.contains l.handle then .next s
    else
      let s := s.setPart part { p with starved := l.handle :: p.starved }
      .next (queueNotice s part { kind := 3, cause := 26, asid := l.ctx.asid, launch := l.handle })

/-! ## Team start (R61, R171) -/

/-- A strand as a team starts: the blocks of its role's budget are resident. -/
def freshStrand (t : Team) (role : Nat) : Strand := { resident := List.range (budgetOf t role / 32) }

/-- A group slot as a team starts; a halt set before then stays (R334). -/
def startGroup (t : Team) (cycle : Nat) (g : GroupSlot) : GroupSlot :=
  let n := Nat.min 32 (t.nstr - 32 * g.gid)
  let m := maskOf (List.range n)
  let rg : Region := { pc := t.entry, entryE := (List.range n).map (32 * g.gid + ·),
                       snap := (List.range n).map (fun j => (32 * g.gid + j, (0 : BitVec 15))) }
  let ks : SMap KReg := t.args.zipIdx.map (fun p => (p.2, { val := p.1 : KReg }))
  let f : Frag := { pc := t.entry, m := m, e := m, region := rg, since := cycle, lastStart := cycle }
  { alloc := true, team := g.team, gid := g.gid, role := g.role, sids := (List.range n).map (fun j => (j, 32 * g.gid + j)),
    frags := [(0, f)], k := ks, pkr := t.ctx.pkr, halted := g.halted, step := { periodCycle := cycle } }

/-- Whether a cluster's lines are still on their way home after a switch of its mode (R291). -/
def flushPending (s : State) (cl : Nat) : Bool :=
  s.posted.any (fun p => p.kind == .writeback && clusterOf p.core == cl)

/-- A team begins: the first fragments of a new team become candidates, or a saved team replays its logs. -/
def execTeamStart (core team : Nat) (s : State) : Host.Outcome State Fault Refusal :=
  match (s.core core).teams.find? team with
  | none => .next s
  | some t =>
    if t.started || flushPending s (clusterOf core) then .next s
    else
      let now := (s.core core).cycle
      let hs := s.teamGroups core team
      if t.restart then
        let s := s.setTeam core team { t with started := true, restart := false, startCycle := now }
        .next (hs.foldl (fun s p => if p.2.fault.isSome then s else replayLog s core p.1) s)
      else
        let strands : SMap Strand := (hs.map (fun p =>
          (List.range (Nat.min 32 (t.nstr - 32 * p.2.gid))).map (fun j => (32 * p.2.gid + j, freshStrand t p.2.role)))).flatten
        let s := s.setTeam core team { t with started := true, strands := strands, startCycle := now }
        .next (s.modCore core (fun k => { k with groups := k.groups.map (fun p =>
          if p.2.alloc && p.2.team == team then (p.1, startGroup t now p.2) else p) }))

/-! ## Pre-emption (R170, R171, R256, R300) -/

/-- Whether any access or engine command of a team is still under way. -/
def teamBusy (s : State) (core team : Nat) : Bool :=
  let mine (a : Acc) : Bool := a.core == core && a.team == team && (s.group core a.hslot).team == team
  let slots := (s.teamGroups core team).map Prod.fst
  let k := s.core core
  (s.teamGroups core team).any (fun p => p.2.cy ≠ 0 || p.2.cm ≠ 0 || p.2.cx ≠ 0)
    || s.fetches.any (fun f => f.accs.any mine || f.kept.any mine)
    || s.posted.any (fun p => p.accs.any mine || (p.kind == .hardware && p.core == core && p.due.isNone && slots.contains p.hslot
        && p.asid == (s.team core team).ctx.asid))
    || s.fills.any (fun f => f.core == core && slots.contains f.hslot) || s.gang.any (fun x => mine x.acc)
    || k.port.any (fun m => m.team == team) || k.array.any (fun m => m.team == team)

/-- Where a kept pass may be saved: parked on a queue port, on full bits or on registers that only a replay fills, stopped at a
fault, or waiting at BAR. -/
def savedInPlace (f : Frag) : Bool :=
  match f.wait with
  | .bar .. => true
  | .pops _ | .push _ | .granules .. | .regs .. => f.switched && f.mid
  | _ => f.switched && f.mid && f.faulted

/-- Whether a pass kept under step 1 still runs. -/
def passRuns (s : State) (core team : Nat) : Bool :=
  let filled (h : Nat) (f : Frag) : Bool := match f.wait with
    | .regs sid vs ks => regsFull s core h sid vs ks
    | _ => false
  (s.teamGroups core team).any (fun p => p.2.frags.any (fun q =>
    q.2.switched && q.2.mid && (!savedInPlace q.2 || filled p.1 q.2)))

/-- The bytes of a context's stripe. -/
def stripeOf (t : Team) : Nat × Nat :=
  let size := t.ctx.ssz * 2 ^ 21
  (t.ctx.arena.toNat + t.stripe * size, size)

def inStripe (asid base size : Nat) (la line : Nat) : Bool :=
  la == asid && base ≤ line * 256 && line * 256 < base + size

/-- Write back the dirty lines of a stripe and drop its lines in every L1. -/
def flushStripe (s : State) (asid base size : Nat) : State :=
  s.cores.foldl (fun (s : State) k =>
    let mine := k.2.l1.filter (fun l => inStripe asid base size l.asid l.line)
    if mine.isEmpty then s
    else
      let s := mine.foldl (fun s l => postWriteback s k.1 l) s
      s.modCore k.1 (fun c => { c with l1 := c.l1.filter (fun l => !inStripe asid base size l.asid l.line) })) s

/-- Whether a write-back of a stripe is still on its way or not yet visible. -/
def stripePending (s : State) (asid base size : Nat) : Bool :=
  s.posted.any (fun p => p.kind == .writeback && inStripe asid base size p.asid p.line)
    || s.homes.any (fun h => h.2.pending.any (fun p => match p.wb with
        | some (_, a, l, _) => inStripe asid base size a l
        | none => false))

/-- The blocks that lie wholly below a region base. -/
def callerBlocks (x : Strand) (base : Nat) : List Nat := x.resident.filter (fun b => 32 * b + 32 ≤ base)

/-- The position that each fragment, resident or spilled, is saved at. -/
def savedBase (f : Frag) : Nat := if savedInPlace f then f.wbase else f.region.base

/-- Spill a fragment's caller blocks to the save area. -/
def spillCallers (core h : Nat) (s : State) (f : Frag) : State :=
  (slotsOf f.m).foldl (fun s sl =>
    let g := s.group core h
    let x := s.strand core g.team (sidOf g sl)
    (callerBlocks x (savedBase f)).foldl (fun s b => spillBlock core h f sl b s) s) s

def piecesFor (g : GroupSlot) (cycle : Nat) : List Frag := g.frags.vals ++ g.spill.map (fun p => p.toFrag cycle)

/-- A word of a strand's save area as memory holds it. -/
def savedWord (s : State) (core : Nat) (t : Team) (sid p : Nat) : W32 :=
  let va := (saveVa t sid p).toNat % 2 ^ 57
  match (translate s (dieOf core) t.ctx.asid va core).1 with
  | some e => .ofNat 32 (Memory.word s.mem (leafAddr e.bits va e.leaf) 4)
  | none => 0

/-- A strand as it is saved: live-ins of its fragment's region, caller frames, predicates of the snapshot; every
other v register of the window is full and 0. -/
def saveStrand (s : State) (core : Nat) (t : Team) (w : Nat) (f : Frag) (sid : Nat) (x : Strand) : Strand :=
  let base := savedBase f
  let whole := savedInPlace f && f.mid && (match f.wait with | .bar .. => false | _ => true)
  let live (p : Nat) : Bool := whole || (f.region.base ≤ p && f.region.vlive.getLsbD (p - f.region.base))
  let held (p : Nat) : W32 := if x.saved.contains (p / 32) then savedWord s core t sid p else (x.regs.get {} p).val
  let win := ((List.range w).map (base + ·)).filter live
  let below := x.regs.filter (fun p => p.1 < base)
  { x with regs := win.foldl (fun (m : SMap VReg) p => m.set p { val := held p }) below,
           preds := f.region.snap.get x.preds sid, resident := windowBlocks base w,
           saved := x.saved.filter (fun b => 32 * b + 32 ≤ base) }

/-- A fragment as it is saved: at its region, or in place. -/
def saveFrag (g : GroupSlot) (f : Frag) : Frag :=
  if savedInPlace f then { f with lane := none, acquires := [], faulted := false }
  else
    let e := maskOf ((slotsOf f.m).filter (fun sl => f.region.entryE.contains (sidOf g sl)))
    { pc := f.region.pc, m := f.m, e := e, wbase := f.region.base, region := f.region, xpc := f.xpc, xword := f.xword }

/-- A spilled piece as it is saved. -/
def saveSpill (g : GroupSlot) (p : SpillRec) : SpillRec :=
  let f := saveFrag g (p.toFrag 0)
  { p with pc := f.pc, e := f.e, wbase := f.wbase, wait := f.wait, acquires := [] }

/-- A recorded fault without its place on a core: one that the supervisor serves stays through a swap-out (R172); an engine
fault or notice is held again, and any other is dropped (R170). -/
def putBackFault (swap : Bool) (g : GroupSlot) : GroupSlot :=
  match g.fault with
  | none => g
  | some f =>
    if f.supervisor && swap then { g with fault := some { f with away := true } }
    else
      let back : List EngFault := match f.eng with
        | some n => [{ cause := f.cause, slot := f.fslot, faddr := f.faddr, fword := f.fword, notice := n }]
        | none => []
      { g with fault := none, heldEng := back ++ g.heldEng }

/-- A group slot as it is saved (R170): live k registers stay, and the fault state does. -/
def saveGroup (swap : Bool) (g : GroupSlot) : GroupSlot :=
  let klive := (g.frags.vals.map (fun f => f.region.klive) ++ g.spill.map (fun p => p.region.klive)).foldl (· ||| ·) 0
  putBackFault swap
    { g with frags := g.frags.map (fun p => (p.1, saveFrag g p.2)), spill := g.spill.map (saveSpill g),
             k := g.k.filter (fun p => p.1 < 56 && klive.getLsbD p.1), inHandler := false, heldTraps := [],
             sig := g.heldSig.foldl (fun m p => m.set p.1 p.2) g.sig, heldSig := [] }

/-- A handle goes back to the head of its queue. -/
def requeueLaunch (s : State) (l : Launch) : State :=
  s.modPart l.part (fun p => { p with queues := p.queues.update [] l.queue (fun q =>
    if q.contains l.handle then q else l.handle :: q) })

/-- Once no team of a pre-empted launch is resident, it is held or goes back to its queue (R298, R300). -/
def settlePreempt (s : State) (part handle : Nat) : State :=
  match s.launch? part handle with
  | none => s
  | some l =>
    if l.preempt = 0 || !(residents s part handle).isEmpty then s
    else if l.preempt = 1 then s.setLaunch { l with preempt := 0, held := true }
    else requeueLaunch (s.setLaunch { l with preempt := 0 }) l

/-- Free a team's resources on its core: its slots, its bank and its place. -/
def freeTeam (s : State) (core team : Nat) : State :=
  s.modCore core (fun k => { k with
    teams := k.teams.erase team, groups := k.groups.filter (fun p => !(p.2.alloc && p.2.team == team)),
    banks := k.banks.map (fun (b : Nat × Bank) => if b.2.owner == some team then (b.1, {}) else b) })

/-- Charge a team's residency to its queue (R289). -/
def chargeTeam (s : State) (core : Nat) (t : Team) : State :=
  match s.launch? t.part t.launch with
  | none => s
  | some l =>
    let n : Int := ((s.core core).cycle - t.startCycle : Nat)
    s.modPart t.part (fun p => { p with deficits := p.deficits.set l.queue (deficitOf p l.queue - n) })

/-! ### The image (R256, R285, R300) -/

/-- Free bytes of an image. -/
def imageBytes (s : State) (n : Nat) : List Byte × State :=
  ((List.range n).map (fun j => Sys2Proof.Config.imageByte (s.freeCtr + j)), { s with freeCtr := s.freeCtr + n })

/-- How many bytes of its image the model lets a saved team change (log entry 49): 8 for each register, predicate set, queue
entry and record word that R170 and R218 save, and the 131,136 of a bank (R256), within 2 MiB. -/
def imageSize (t : Team) (v : SavedTeam) : Nat :=
  let perGroup (g : GroupSlot) : Nat := 64 + 8 * (g.frags.length + g.spill.length) + g.k.length + 8 * g.log.length
  let words := (v.groups.map perGroup).sum + (t.strands.vals.map (fun x => x.regs.length + 1)).sum
    + (t.queues.vals.map List.length).sum + 16
  Nat.min (2 ^ 21) (8 * words + (if v.tiles.isSome then 131136 else 0))

/-- Write the image of a saved team into its stripe, line by line; a line that is not local DRAM is left out. -/
def writeImage (s : State) (core : Nat) (t : Team) (n : Nat) : State :=
  let base := (stripeOf t).1 + 0x400000
  (List.range ((n + 255) / 256)).foldl (fun s i =>
    let va := base + 256 * i
    match translate s (dieOf core) t.ctx.asid va core with
    | (some e, s) =>
      if e.leaf.attr ≠ 0 then s
      else
        let (b, s) := imageBytes s (Nat.min 256 (n - 256 * i))
        engineWrite s (leafAddr e.bits va e.leaf) b { t := none }
    | (none, s) => s) s

/-- The last step of a pre-emption: the state of R170 is saved and the core's resources are freed. -/
def saveTeam (s : State) (core team : Nat) (t : Team) : State :=
  let how := match s.launch? t.part t.launch with | some l => l.preempt | none => 0
  let hs := s.teamGroups core team
  let save (m : SMap Strand) (q : Nat × Strand) : SMap Strand := m.set q.1 q.2
  let strands := hs.foldl (fun (m : SMap Strand) p =>
    (piecesFor p.2 0).foldl (fun m f => (slotsOf f.m).foldl (fun m sl =>
      let sid := sidOf p.2 sl
      save m (sid, saveStrand s core t (windowOf t p.2.role) f sid (t.strands.get {} sid))) m) m) t.strands
  let (id, s) := s.fresh
  let place := 192 + id
  let tiles := t.bank.map (fun b => ((s.core core).banks.get {} b).tiles)
  let v : SavedTeam := { part := t.part, handle := t.launch, place := place, core := core,
                         groups := hs.map (fun p => saveGroup (how == 0) p.2), tiles := tiles, swap := how == 0,
                         drained := how == 3 }
  let s := chargeTeam s core t
  let s := freeTeam s core team
  let t' := { t with strands := strands, bank := none, preempting := 0, started := false }
  let s := writeImage (s.setTeam place 0 t') core t' (imageSize t' v)
  let s := setMember s t.part t.launch t.gang t.gangPos place 0
  settlePreempt { s with saved := s.saved ++ [v] } t.part t.launch

/-- A pre-empted team's accesses and commands have ended (R171 steps 2 and 3): its caller blocks are spilled, its
lines are written back, and once they are home its state is saved. -/
def execPreemptSave (core team : Nat) (s : State) : Host.Outcome State Fault Refusal :=
  match (s.core core).teams.find? team with
  | none => .next s
  | some t =>
    if t.preempting = 0 || !t.started || teamBusy s core team || passRuns s core team then .next s
    else
      let (base, size) := stripeOf t
      match t.preempting with
      | 1 =>
        let s := (s.teamGroups core team).foldl (fun s p =>
          (piecesFor p.2 0).foldl (spillCallers core p.1) s) s
        .next (s.modTeam core team (fun t => { t with preempting := 2 }))
      | 2 =>
        let s := flushStripe s t.ctx.asid base size
        .next (s.modTeam core team (fun t => { t with preempting := 3 }))
      | _ => if stripePending s t.ctx.asid base size then .next s else .next (saveTeam s core team t)

/-! ## Swap-out and group control (R298, R299) -/

/-- Start the pre-emption of a resident team. -/
def startPreempt (s : State) (core team : Nat) : State :=
  s.modTeam core team (fun t => if t.preempting = 0 then { t with preempting := 1 } else t)

/-- Whether a team's launch is co-resident. -/
def teamCor (s : State) (t : Team) : Bool :=
  match s.launch? t.part t.launch with
  | some l => l.cor
  | none => false

/-- Pre-empt a launch whole: no further gang of it is placed (R292, R300). A team of it that was swapped out is now saved as the
others will be. -/
def preemptLaunch (s : State) (l : Launch) (how : Nat) : State :=
  let s := s.setLaunch { l with preempt := how }
  let s := { s with saved := s.saved.map (fun (v : SavedTeam) =>
    if v.part == l.part && v.handle == l.handle then
      { v with swap := false, drained := how == 3, resume := [], groups := v.groups.map (putBackFault false) }
    else v) }
  let s := s.modPart l.part (fun p => { p with
    queues := p.queues.update [] l.queue (·.filter (· ≠ l.handle)),
    reserved := p.reserved.erase l.handle, waited := p.waited.erase l.handle })
  (residents s l.part l.handle).foldl (fun s q => startPreempt s q.1 q.2) s

/-- Pre-empt a launch for system software; one that is being pre-empted already, for a drain, say, ends as asked. -/
def preemptAs (s : State) (l : Launch) (how : Nat) : State :=
  if l.preempt = 0 then preemptLaunch s l how
  else
    let s := s.setLaunch { l with preempt := how }
    { s with saved := s.saved.map (fun (v : SavedTeam) =>
        if v.part == l.part && v.handle == l.handle then { v with drained := false } else v) }

/-- The saved team that left a core with a group stopped in a group slot, and the group's index in the team. -/
def savedStop (s : State) (part core hslot : Nat) (stopped : GroupSlot → Bool) : Option (SavedTeam × Nat) :=
  let mine (v : SavedTeam) : Bool := v.part == part && v.core == core && v.groups.any (fun g =>
    (savedTeamOf s v).h0 + g.gid == hslot && stopped g)
  (s.saved.find? mine).map (fun v => (v, hslot - (savedTeamOf s v).h0))

/-- A group slot that stopped on a fault that went to the supervisor. -/
def supervised (g : GroupSlot) : Bool := match g.fault with | some f => f.supervisor | none => false

/-- Resume a group slot that stopped on a fault that went to the supervisor, on its core or at its restart. -/
def execDpcmdResume (part core hslot : Nat) (s : State) : Host.Outcome State Fault Refusal :=
  let g := s.group core hslot
  if g.alloc && (s.teamOf core hslot).part = part && supervised g then
    match g.fault with
    | some f =>
      let s := endStop s core hslot f
      .next (if (s.group core hslot).fault.isNone && !f.away && ((s.group core hslot).frags.find? f.entry).isSome then
          settleMerge s { core := core, hslot := hslot, entry := f.entry } else s)
    | none => .next s
  else
    match savedStop s part core hslot supervised with
    | none => .next s
    | some (v, gid) =>
      .next { s with saved := s.saved.map (fun (x : SavedTeam) =>
        if x.place == v.place && !x.resume.contains gid then { x with resume := gid :: x.resume } else x) }

/-- Kill a stopped group of a team that is off its core (R173): as on a core, at the place where the team's record is kept. The
notice and the log's header name the core and the group slot that the team left. -/
def killSaved (s : State) (v : SavedTeam) (gid hslot : Nat) : State :=
  let t := savedTeamOf s v
  let g := v.groups.getD gid {}
  let s := if g.log.isEmpty then s
    else postTo s v.core hslot t.ctx.asid (faultArea t g + 0x1000) (wordBytes 8 0 ++ wordBytes 8 g.logGt)
  let seat (x : GroupSlot × Nat) : Nat × GroupSlot :=
    (x.2, { x.1 with alloc := true, team := 0, log := if x.2 = gid then [] else x.1.log })
  let s := s.modCore v.place (fun k => { k with groups := v.groups.zipIdx.map seat })
  let s := killGroup s v.place gid g.cause
  let out (l : List Notice) : List Notice :=
    l.dropLast ++ (l.getLast?.map (fun n => { n with core := v.core, hslot := hslot })).toList
  let v' := { v with groups := (s.core v.place).groups.vals }
  let s := s.modCore v.place (fun k => { k with groups := [] })
  { s with notices := s.notices.update [] v.part out, saved := s.saved.map (fun x => if x.place == v.place then v' else x) }

/-- Kill a group slot that is stopped or runs. -/
def execDpcmdKill (part core hslot : Nat) (s : State) : Host.Outcome State Fault Refusal :=
  let g := s.group core hslot
  if g.alloc && (s.teamOf core hslot).part = part && (s.teamOf core hslot).started then
    .next (if g.frags.isEmpty && g.spill.isEmpty && g.fault.isNone then s
      else killGroup s core hslot (if g.fault.isSome then g.cause else 0))
  else
    match savedStop s part core hslot (fun g => g.fault.isSome || !g.log.isEmpty || !g.heldEng.isEmpty) with
    | some (v, gid) => .next (killSaved s v gid hslot)
    | none => .next s

def execDpcmdSwapOut (part core hslot : Nat) (s : State) : Host.Outcome State Fault Refusal :=
  let g := s.group core hslot
  let t := s.teamOf core hslot
  .next (if g.alloc && t.part = part && !teamCor s t then startPreempt s core g.team else s)

def execDpcmdPreemptHold (part handle : Nat) (s : State) : Host.Outcome State Fault Refusal :=
  match s.launch? part handle with
  | none => .next s
  | some l => .next (if (residents s part handle).isEmpty then s else preemptAs s l 1)

def execDpcmdPreemptRequeue (part handle : Nat) (s : State) : Host.Outcome State Fault Refusal :=
  match s.launch? part handle with
  | none => .next s
  | some l => .next (if (residents s part handle).isEmpty then s else preemptAs s l 2)

def execDpcmdRelease (part handle : Nat) (s : State) : Host.Outcome State Fault Refusal :=
  match s.launch? part handle with
  | none => .next s
  | some l => .next (if l.held then requeueLaunch (s.setLaunch { l with held := false }) l else s)

/-- A team stopped for 20 µs on a supervisor's fault makes room for a ready head that finds no place without what it would free
(R299). -/
def execAutoSwapOut (core team : Nat) (s : State) : Host.Outcome State Fault Refusal :=
  match (s.core core).teams.find? team with
  | none => .next s
  | some t =>
    let old := (s.teamGroups core team).any (fun p => supervised p.2 && decide (p.2.supSince + 20000 ≤ s.gt))
    if core < 192 && old && t.preempting = 0 && !teamCor s t && dpReady s then
      let without := freeTeam s core team
      let fits := (List.range 64).any (fun q => match readyHead s t.part q with
        | some l => (headPlacement s t.part l).isNone && (headPlacement without t.part l).isSome
        | none => false)
      .next (if fits then startPreempt s core team else s)
    else .next s

/-! ## Retirement (R296) -/

/-- A retired team's local memory stays for the rest of its gang (R138), at a place that is no core, until the last
member retires. -/
def keepMember (s : State) (core team : Nat) (t : Team) : State :=
  let live (q : Nat × Nat) : Bool := q != (core, team) && (q.1 < 192 || s.saved.any (fun v => v.place == q.1))
  if t.members.any live then
    let (id, s) := s.fresh
    let s := s.setTeam (192 + id) 0 { t with bank := none, started := false }
    setMember s t.part t.launch t.gang t.gangPos (192 + id) 0
  else
    { s with cores := t.members.foldl (fun m q => if 192 ≤ q.1 then m.erase q.1 else m) s.cores }

/-- A team with every strand exited, its counters at 0 and nothing left to report leaves its core. -/
def execTeamRetire (core team : Nat) (s : State) : Host.Outcome State Fault Refusal :=
  match (s.core core).teams.find? team with
  | none => .next s
  | some t =>
    let held := (s.teamGroups core team).any (fun p => !p.2.log.isEmpty || !p.2.heldEng.isEmpty)
    if 192 ≤ core || !t.started || !(liveSids t).isEmpty || teamBusy s core team || held || t.preempting ≠ 0 then .next s
    else
      let mark := (s.teamGroups core team).foldl (fun m p => Nat.max m (markC p.2)) 0
      let s := keepMember (freeTeam (chargeTeam s core t) core team) core team t
      match s.launch? t.part t.launch with
      | none => .next s
      | some l => .next (settlePreempt (s.setLaunch { l with retired := l.retired + 1, mark := Nat.max l.mark mark }) t.part t.launch)

/-- Add 1 to the completion word of a launch in its context; a failure is logged (R296). Later releases of the dispatcher wait for it
(R229). -/
def completionAdd (s : State) (l : Launch) : State :=
  let va := l.w 6
  if va = 0 then s
  else
    let fail (s : State) (cause : Nat) : State := logViolation s 0
      { gt := s.gt, addr := va.toNat, asid := l.ctx.asid, source := 5,
        kind := if cause = 8 then 3 else if cause = 12 then 7 else 2, who := l.part }
    if va.toNat % 8 ≠ 0 then fail s 5
    else
      match dispAccess s l.ctx.asid l.ctx.pkr va 8 true true true with
      | (s, .inl dst) =>
        let data := match dst with
          | .home pa => newestWord s pa 8 + 1
          | _ => 1
        (dispWrite s l.part l.ctx.asid va dst (wordBytes 8 data) .atomic).2
      | (s, .inr cause) => fail s cause

/-- A launch retires: the lines of its stripes go home, then the completion word, then its handle. -/
def execLaunchRetire (part handle : Nat) (s : State) : Host.Outcome State Fault Refusal :=
  match s.launch? part handle with
  | none => .next s
  | some l =>
    if l.retired < l.nteam || s.gt ≤ l.mark then .next s
    else
      let size := l.ctx.ssz * 2 ^ 21
      let bases := l.stripes.map (fun i => l.ctx.arena.toNat + i * size)
      match l.retiring with
      | 0 =>
        let s := bases.foldl (fun s b => flushStripe s l.ctx.asid b size) s
        .next (s.setLaunch { l with retiring := 1 })
      | _ =>
        if bases.any (fun b => stripePending s l.ctx.asid b size) then .next s
        else
          let s := completionAdd s l
          .next { s with launches := (s.launches.erase (launchKey part handle)).map (fun (x : Nat × Launch) =>
            if x.2.part == part then (x.1, { x.2 with deps := x.2.deps.filter (· ≠ handle) }) else x) }

/-! ## The self-test drain (R301, R345) -/

/-- The cluster that the next drain of a partition takes. -/
def drainCluster (p : Part) : Option Nat :=
  let cs := clustersOf p
  (cs.find? (fun c => p.drainNext ≤ c)).orElse (fun _ => cs.head?)

/-- Swap out what is left on a drained cluster: a co-resident launch is pre-empted whole. -/
def drainOut (s : State) (part cl : Nat) : State :=
  let ts := (allTeams s).filter (fun q => clusterOf q.1 == cl && q.2.2.preempting == 0 && q.2.2.part == part)
  ts.foldl (fun s q =>
    match s.launch? part q.2.2.launch with
    | some l => if l.cor then (if l.preempt = 0 then preemptLaunch s l 3 else s) else startPreempt s q.1 q.2.1
    | none => startPreempt s q.1 q.2.1) s

/-- At each interval the next cluster stops taking teams; after 1 ms its remaining teams are swapped out. -/
def execSelfTestDrain (part : Nat) (s : State) : Host.Outcome State Fault Refusal :=
  let p := s.part part
  let lim := p.regs.get 0 8
  let interval := Nat.max 1 (bitsAt lim 32 16) * 1000000000
  match p.draining.find? (fun d => d.2 + 1000000 ≤ s.gt && (allTeams s).any (fun q =>
      clusterOf q.1 == d.1 && q.2.2.part == part && q.2.2.preempting == 0)) with
  | some d => .next (drainOut s part d.1)
  | none =>
    if !dpReady s || !lim.getLsbD 48 || s.gt < p.lastDrain + interval then .next s
    else
      match drainCluster p with
      | none => .next (s.setPart part { p with lastDrain := s.gt })
      | some cl => .next (s.setPart part { p with lastDrain := s.gt, drainNext := cl + 1,
                                                  draining := p.draining ++ [(cl, s.gt)] })

end Sys2Proof.Machine
end

