-- ==== Sys2Proof/Machine/Governor.lean ====
section
/-! DEFINITION. The deadline governor (R312-R322): control ticks, steps at risk, caps, changes of the operating
point, carat quotas, droop, and the switch matrix. -/

namespace Sys2Proof.Machine

def State.domain (s : State) (j : Nat) : Domain := s.gov.domains.get {} j

def State.setDomain (s : State) (j : Nat) (d : Domain) : State :=
  { s with gov := { s.gov with domains := s.gov.domains.set j d } }

/-- GVDOM of a domain. -/
def gvdom (s : State) (j : Nat) : W64 := s.gov.regs.get 0 (0x100 + 0x40 * j)

/-- The clusters of a domain (R317). -/
def domainClusters (s : State) (j : Nat) : List Nat := (List.range 24).filter (fun c => domainOf s c == j)

def domainCores (s : State) (j : Nat) : List Nat :=
  ((domainClusters s j).map (fun cl => (List.range 8).map (8 * cl + ·))).flatten

/-! ## Caps (R318) -/

def gvpcap (s : State) : Nat := Nat.min 1800 ((s.gov.regs.get 0 8).toNat % 2048)

/-- The thermal cap after a tick, from the hottest DRAM stack of the domain's dies, in 1/16 °C. -/
def thermalCap (cap hot : Nat) : Nat :=
  if 1632 ≤ hot then 0 else if 1520 ≤ hot then cap - 1 else if hot < 1472 then Nat.min 15 (cap + 1) else cap

/-- The power cap after a tick. -/
def powerCap (cap watts limit : Nat) (highest : Bool) : Nat :=
  if limit < watts then (if highest then cap - 1 else cap)
  else if watts * 100 < 95 * limit then Nat.min 15 (cap + 1) else cap

def capOf (s : State) (j : Nat) (d : Domain) : Nat :=
  Nat.min (bitsAt (gvdom s j) 20 4) (Nat.min d.thermal d.power)

/-! ## Steps (R313, R314) -/

/-- What a tick knows of an open step: remaining work R, time left, and its rate rho as a fraction. -/
structure StepView where
  core : Nat
  hslot : Nat
  r : Nat
  left : Int
  num : Nat
  den : Nat
  deriving DecidableEq, Repr

/-- The rate of the last period, or the step's previous non-zero one; `ahead` are the carats of later cycles. -/
def stepRate (x : StepRec) (cycle ahead : Nat) : Nat × Nat :=
  let n := cycle - x.periodCycle
  if x.periodCarat ≤ ahead || n = 0 then (x.rho, x.rhoDen) else (x.periodCarat - ahead, n)

/-- The carats that passes under way have charged to a group's step in cycles that are still to come. -/
def stepAhead (s : State) (c h : Nat) : Nat :=
  let g := s.group c h
  caratsAfter g.late (Nat.max (s.core c).cycle g.step.cycle)

def stepView (s : State) (c h : Nat) : StepView :=
  let x := (s.group c h).step
  let ahead := stepAhead s c h
  let (num, den) := stepRate x (s.core c).cycle ahead
  { core := c, hslot := h, r := x.work - (x.charged - ahead), left := (x.deadline : Int) - s.gt, num := num, den := den }

/-- The point that a step demands. -/
def stepDemand (base : Nat) (v : StepView) : Nat :=
  if v.num = 0 then 12
  else if v.r = 0 then base
  else if v.left ≤ 0 then 15
  else ((List.range 15).find? (fun p => 21 * v.r * v.den ≤ 2 * (6 + p) * v.num * v.left.toNat)).getD 15

/-- Whether a step is at risk with a cap. -/
def stepRisk (cap : Nat) (v : StepView) : Bool :=
  0 < v.r && (decide (v.left ≤ 0) || (v.num ≠ 0 && v.left.toNat * v.num * (6 + cap) < 10 * v.r * v.den))

/-- The groups of a domain with an open step of class 1 to 3. -/
def openSteps (s : State) (j : Nat) : List (Nat × Nat) :=
  ((domainCores s j).map (fun c => ((liveGroups s c).filter (fun h =>
    (s.group c h).step.opened && (s.teamOf c h).dclass ≠ 0)).map (fun h => (c, h)))).flatten

/-- Judge one step at a tick: the risk bit, DRISK, the record and the mark; then its next period begins. -/
def judgeStep (j cap : Nat) (s : State) (v : StepView) : State :=
  let g := s.group v.core v.hslot
  let k := s.core v.core
  let x := { g.step with rho := v.num, rhoDen := v.den, periodCarat := stepAhead s v.core v.hslot, periodCycle := k.cycle,
                         tick := (s.domain j).tick, phase := k.phase }
  if !stepRisk cap v then s.setGroup v.core v.hslot { g with step := { x with atRisk := false } }
  else if x.risk then s.setGroup v.core v.hslot { g with step := x }
  else
    let x := { x with risk := true, atRisk := true }
    let alive := !g.frags.isEmpty || !g.spill.isEmpty
    let note : EngFault := { cause := 21, slot := x.slot, faddr := stepWord x, fword := 0, notice := true }
    let s := s.setGroup v.core v.hslot { g with step := x, heldEng := if alive then g.heldEng ++ [note] else g.heldEng }
    let d := s.domain j
    s.setDomain j { d with risks := Nat.min 65535 (d.risks + 1), riskGt := s.gt }

/-- The domain turns to a target: a lower point takes effect at once, a higher one with the regulator. -/
def setTarget (d : Domain) (target : Nat) : Domain :=
  if target ≤ d.cur then { d with target := target, cur := target, moving := none }
  else { d with target := target, moving := some target }

/-- The highest point of a domain with clusters, as the tick of a number finds it: the domains are judged on the points before
that tick. -/
def topPoint (s : State) (n : Nat) : Nat :=
  if s.gov.top.1 = n then s.gov.top.2
  else (((List.range 4).filter (fun j => !(domainClusters s j).isEmpty)).map (fun j => (s.domain j).cur)).foldl Nat.max 0

/-- A control tick of a domain: temperatures of the eight stacks and the module's power come from outside. -/
def execControlTick (domain : Nat) (temps : List Nat) (watts : Nat) (s : State) : Host.Outcome State Fault Refusal :=
  let d := s.domain domain
  let n := s.gt / 8000
  if 4 ≤ domain || n ≤ d.tick then .next s
  else
    let put (m : SMap W64) (p : Nat × Nat) : SMap W64 :=
      m.set (0x200 + 8 * p.2) (.ofNat 64 (p.1 % 65536 + (if 1360 < p.1 then 65536 else 0)))
    let top := topPoint s n
    let s := { s with gov := { s.gov with regs := (temps.zipIdx).foldl put s.gov.regs, watts := watts, top := (n, top) } }
    let clusters := domainClusters s domain
    let hot := (clusters.map (fun c => temps.getD (c / 3) 0)).foldl Nat.max 0
    let d := { d with tick := n, thermal := thermalCap d.thermal hot,
                      power := powerCap d.power watts (gvpcap s) (d.cur == top) }
    let cap := capOf s domain d
    let base := bitsAt (gvdom s domain) 0 4
    let views := (openSteps s domain).map (fun q => stepView s q.1 q.2)
    let best := views.foldl (fun (b : Option (Nat × StepView)) v =>
      let p := stepDemand base v
      match b with
      | some (q, _) => if q < p then some (p, v) else b
      | none => some (p, v)) none
    let floor := Nat.max base (bitsAt (gvdom s domain) 16 4)
    let want := match best with | some (p, _) => Nat.max floor p | none => floor
    let target := if clusters.isEmpty then 0 else Nat.min want cap
    let decided := match best with
      | some (p, v) => if floor < p then some (v.core, v.hslot) else none
      | none => none
    let s := s.setDomain domain (setTarget { d with decided := decided } target)
    let s := views.foldl (judgeStep domain cap) s
    .next { s with cores := s.cores.map (fun k =>
      if clusters.contains (clusterOf k.1) then (k.1, { k.2 with tickCycle := k.2.cycle }) else k) }

/-- The regulator has reached the new voltage: the clock changes. -/
def execVfTransitionDone (domain : Nat) (s : State) : Host.Outcome State Fault Refusal :=
  let d := s.domain domain
  match d.moving with
  | some p => .next (s.setDomain domain { d with cur := p, moving := none })
  | none => .next s

/-! ## Quotas (R315, R316) -/

/-- The quota of a context, and the partition that last read it. -/
def quotaOf (s : State) (asid : Nat) : Option (Nat × Nat) := SMap.find? s.gov.qcs asid

/-- The supervisor hears of the first hold of a period (R315). -/
def noticeHold (s : State) (asid part : Nat) : State :=
  if s.gov.noticed.contains asid then s
  else
    let s := { s with gov := { s.gov with noticed := asid :: s.gov.noticed } }
    queueNotice s part { kind := 3, cause := 22, asid := asid }

/-- The fragments of a group slot begin to wait for a start in the present cycle, and may merge again (R59, R60, R115). -/
def renewGroup (s : State) (c h : Nat) : State :=
  let now := (s.core c).cycle
  let s := s.modGroup c h (fun g => { g with frags := g.frags.map (fun p =>
    (p.1, if p.2.wait == .ready then { p.2 with since := Nat.max p.2.since now } else p.2)) })
  ((s.group c h).frags.map Prod.fst).foldl (fun s e => settleAt s c h e) s

/-- The hold of a context ends. -/
def endHold (s : State) (asid : Nat) : State :=
  if !s.held.contains asid then s
  else
    let s := { s with held := s.held.filter (· ≠ asid) }
    ((s.cores.filter (fun k => k.1 < 192)).map Prod.fst).foldl (fun s c =>
      ((liveGroups s c).filter (fun h => (s.teamOf c h).ctx.asid = asid)).foldl (fun s h => renewGroup s c h) s) s

/-- A period begins: the quota is refilled and a hold may end. -/
def execQuotaPeriodStart (asid : Nat) (s : State) : Host.Outcome State Fault Refusal :=
  let n := s.gt / 1000000
  if n ≤ s.gov.quotaFrom.get 0 asid || (SMap.find? s.quotas asid).isNone then .next s
  else
    let gov := { s.gov with quotaFrom := s.gov.quotaFrom.set asid n, noticed := s.gov.noticed.filter (· ≠ asid) }
    let (q, part) := (quotaOf s asid).getD (0, 0)
    let v : Int := min (s.quotas.get 0 asid) 0 + q
    let s := { s with gov := gov, quotas := s.quotas.set asid v }
    .next (if 0 < v || q = 0 then endHold s asid
      else noticeHold (if s.held.contains asid then s else { s with held := asid :: s.held }) asid part)

/-- Take a context's reported carats from its quota; an exhausted one is held, with one notice in a period. -/
def reportCarats (s : State) (asid n : Nat) : State :=
  let v : Int := s.quotas.get 0 asid - n
  let s := { s with quotas := s.quotas.set asid v }
  match quotaOf s asid with
  | none => s
  | some (q, part) =>
    if q = 0 || 0 < v then s
    else noticeHold (if s.held.contains asid then s else { s with held := asid :: s.held }) asid part

/-- Every 256 core cycles a cluster reports the carats of its contexts. -/
def execQuotaReport (cluster : Nat) (s : State) : Host.Outcome State Fault Refusal :=
  let n := (s.core (8 * cluster)).cycle / 256
  if n ≤ s.gov.lastReport.get 0 cluster then .next s
  else
    let mine := s.qsub.filter (fun p => p.1 / 65536 == cluster)
    let s := { s with qsub := s.qsub.filter (fun p => p.1 / 65536 != cluster),
                      gov := { s.gov with lastReport := s.gov.lastReport.set cluster n } }
    .next (mine.foldl (fun s p => reportCarats s (p.1 % 65536) p.2) s)

/-! ## Droop and the switch matrix (R317, R321) -/

/-- A droop stretches the cluster's next core cycle; GT does not stretch. -/
def execDroopDetect (cluster : Nat) (s : State) : Host.Outcome State Fault Refusal :=
  let a := 0x1008 + 0x10 * cluster
  let half := periodAt (pointOf s cluster) / 2
  let s := (List.range 8).foldl (fun s i => s.modCore (8 * cluster + i) (fun k => { k with phase := k.phase + half })) s
  let n : W64 := .ofNat 64 (((s.gov.regs.get 0 a).toNat + 1) % 2 ^ 32)
  .next { s with gov := { s.gov with regs := s.gov.regs.set a n } }

/-- Whether two clusters belong to different partitions. -/
def apart (s : State) (c d : Nat) : Bool :=
  match partitionOf s c, partitionOf s d with
  | some p, some q => p != q
  | _, _ => false

/-- Whether a cluster's move would put clusters of two partitions on one regulator. -/
def crowds (s : State) (new : List Nat) (c : Nat) : Bool :=
  new.getD c 0 != domainOf s c && (List.range 24).any (fun d => new.getD d 0 == new.getD c 0 && apart s c d)

/-- The regulators that a write of GVSW gives the clusters: such moves are refused, until none is left (R317). -/
def settleSwitch (s : State) : Nat → List Nat → List Nat
  | 0, new => new
  | n + 1, new =>
    settleSwitch s n ((List.range 24).map (fun c => if crowds s new c then domainOf s c else new.getD c 0))

/-- A regulator with no cluster stays at point 0. -/
def restEmpty (s : State) : State :=
  (List.range 4).foldl (fun s j =>
    if (domainClusters s j).isEmpty then s.setDomain j { s.domain j with cur := 0, target := 0, moving := none } else s) s

def execGvswWrite (v : W64) (s : State) : Host.Outcome State Fault Refusal :=
  if !s.plat.rdy.getLsbD 11 then .next s
  else
    let ask (cl : Nat) : Nat := if clusterEmpty s cl then bitsAt v (2 * cl) 2 else domainOf s cl
    let new := settleSwitch s 24 ((List.range 24).map ask)
    let w := new.zipIdx.foldl (fun n p => n + p.1 * 4 ^ p.2) 0
    .next (restEmpty { s with gov := { s.gov with regs := s.gov.regs.set 0 (.ofNat 64 w) } })

end Sys2Proof.Machine
end

