-- ==== Sys2Proof/Machine/Porsen.lean ====
section
/-! DEFINITION. The Porsen link (R228, R357, R359): requests of the host through its windows, the host's answers to
the device, and accesses that are lost with their link (R191, R252, R359). -/

namespace Sys2Proof.Machine

/-! ## Readiness and addresses -/

/-- Whether the Porsen link serves (R357, R363). -/
def linkReady (s : State) : Bool := s.plat.rdy.getLsbD 1

/-- Whether the home of a die is ready (R357). -/
def homeReady (s : State) (d : Nat) : Bool := s.plat.rdy.getLsbD (2 + d)

/-- Whether bytes are local physical memory (R183). -/
def localBytesOk (pa n : Nat) : Bool := pa + n ≤ 2 ^ 38

/-- The physical lines of bytes. -/
def linesOf (pa n : Nat) : List Nat := (List.range ((pa % 256 + n + 255) / 256)).map (pa / 256 + ·)

/-- Whether a read of the bytes has to wait: a line of them has a pending store (R223 S2, R228), or a deque operation acts on
it (R207). -/
def linesPending (s : State) (pa n : Nat) : Bool :=
  (linesOf pa n).any (fun l => !(s.homes.get {} l).pending.isEmpty || lineLocked s l)

/-- Whether a deque operation acts on a line of the bytes (R207). -/
def linesLocked (s : State) (pa n : Nat) : Bool := (linesOf pa n).any (lineLocked s)

/-- Cut bytes at line ends: each piece with its address. -/
def linePieces : Nat → Nat → List Byte → List (Nat × List Byte)
  | 0, _, _ => []
  | fuel + 1, pa, l =>
    if l.isEmpty then []
    else
      let n := 256 - pa % 256
      (pa, l.take n) :: linePieces fuel (pa + n) (l.drop n)

/-! ## Windows (R359) -/

def hwin (s : State) (w : Nat) : W64 × W64 := (s.plat.regs.get 0 (0x1000 + 0x10 * w), s.plat.regs.get 0 (0x1008 + 0x10 * w))

/-- Whether an enabled window covers an offset. -/
def winCovers (s : State) (x w : Nat) : Bool :=
  let (a, b) := hwin s w
  a.getLsbD 63 && b.toNat % 2 ^ 32 * 4096 ≤ x && x < (b.toNat % 2 ^ 32 + b.toNat / 2 ^ 32) * 4096

/-- Where a request of n bytes at an offset goes: the window's word 0 and the physical address, or nowhere. -/
def hostRoute (s : State) (x n : Nat) : Option (W64 × Nat) :=
  match (List.range 16).find? (winCovers s x) with
  | none => none
  | some w =>
    let (a, b) := hwin s w
    let pa := bitsAt a 12 40 * 4096 + (x - b.toNat % 2 ^ 32 * 4096)
    if x + n ≤ (b.toNat % 2 ^ 32 + b.toNat / 2 ^ 32) * 4096 && localBytesOk pa n then some (a, pa) else none

def answerHost (s : State) (m : OutMsg) : State := { s with outbox := s.outbox ++ [m] }

/-- A refused request: an entry of source 2 at a home that is ready, and an error response. -/
def refuseHost (s : State) (d kind x : Nat) : State :=
  answerHost (if homeReady s d then logViolation s d { gt := s.gt, addr := x, asid := 0, source := 2, kind := kind, who := 0 }
    else s) .hostError

/-- Whether a write or an atomic of the host waits already: what follows it on the link waits with it. -/
def hostQueued (s : State) : Bool :=
  s.inbox.any (fun i => match i with
    | .hostWrite .. | .hostAtomic .. => true
    | _ => false)

/-- A request of the host waits in the inbox. -/
def hostWaits (s : State) (i : Instr) : State := { s with inbox := s.inbox ++ [i] }

/-- A read through a window: a fetch without a lease, which waits for the stores pending on its lines. -/
def hostReadData (x len : Nat) (s : State) : State :=
  match hostRoute s x len with
  | none => refuseHost s 0 1 x
  | some (_, pa) =>
    if !homeReady s (dieOfPa pa) then answerHost s .hostError
    else if linesPending s pa len || hostQueued s then hostWaits s (.hostRead (.data x) len)
    else answerHost s (.hostData (newestBytes s pa len))

/-- A posted write of the host: each line's part is an arrival that takes its T above the link's last one (R228). -/
def hostPut (s : State) (pa : Nat) (bytes : List Byte) : State :=
  (linePieces (bytes.length + 1) pa bytes).foldl (fun s q =>
    let (t, s) := arriveAfter s (q.1 / 256) s.linkT { t := none, bytes := putBytes [] (q.1 % 256) q.2 }
    { s with linkT := t }) s

/-- Cameo logs a host write: address, length, commit T, and the data (R339 kind 2). -/
def logHostWrite (s : State) (d pa : Nat) (bytes : List Byte) : State :=
  cmEvent s d 2 (cmAny s d) 0 [] [pa, bytes.length, s.linkT] bytes

/-- A posted write through a window. Cameo refuses a live one in replay (R340). -/
def hostWriteData (x : Nat) (bytes : List Byte) (s : State) : State :=
  match hostRoute s x bytes.length with
  | none => refuseHost s 0 1 x
  | some (w, pa) =>
    let d := dieOfPa pa
    if !homeReady s d then answerHost s .hostError
    else if w.getLsbD 62 || (cmMode (s.die d) == 2 && !cmDiverged (s.die d)) then refuseHost s d 2 x
    else if linesLocked s pa bytes.length || hostQueued s then hostWaits s (.hostWrite (.data x) bytes)
    else logHostWrite (hostPut s pa bytes) d pa bytes

/-- The atomic's opcode, none where the host class does not hold it. -/
def hostOpcode (op : HostOp) : Option Nat :=
  match op with
  | .add => some 0x90
  | .swap => some 0x96
  | .cas => some 0x97
  | .other => none

/-- An atomic at its home as S7 lays down: it reads the newest value and writes in one step. -/
def homeAtomic (s : State) (op : Nat) (signed h2 : Bool) (pa n operand : Nat) : Nat × State :=
  let old := newestWord s pa n
  let new := atomicNew op signed h2 (8 * n) old operand
  (old, (arriveAt s (pa / 256) { t := none, bytes := putBytes [] (pa % 256) (wordBytes n new) }).2)

/-- The operand of an atomic of n bytes: for CAS the compare value below the new one. -/
def atomicOperand (op n : Nat) (operand compare : W64) : Nat :=
  let v (w : W64) : Nat := w.toNat % 256 ^ n
  if op = 0x97 then v compare + v operand * 256 ^ n else v operand

/-- What Cameo logs of an atomic that the host or a peer makes at a home (R339; log entry 11): the line, who makes it (0 for the
host, 1 above its number for a peer), and which of its message it is. -/
def outsideIdent (pl who n : Nat) : List Nat := [pl, 2 ^ 64 - 2 ^ 32 + who, n]

/-- Whether Cameo holds it (R340), and its event. -/
def outsideHeld (s : State) (pl who n : Nat) : Bool :=
  let d := dieOfPa (256 * pl)
  cmHolds s d 4 (cmAny s d) [pl] (outsideIdent pl who n)
def outsideEvent (s : State) (pl who n : Nat) : State :=
  let d := dieOfPa (256 * pl)
  cmEvent s d 4 (cmAny s d) 0 [pl] (outsideIdent pl who n) []

/-- A host-class atomic through a window; ro = 1 refuses it as a write (R359, log entry 50). -/
def hostAtomicData (op : HostOp) (x : Nat) (wide : Bool) (operand compare : W64) (s : State) : State :=
  let n := if wide then 8 else 4
  match hostRoute s x n with
  | none => refuseHost s 0 1 x
  | some (w, pa) =>
    let d := dieOfPa pa
    match hostOpcode op with
    | some code =>
      if !homeReady s d then answerHost s .hostError
      else if !w.getLsbD 61 || pa % n ≠ 0 then refuseHost s d 7 x
      else if w.getLsbD 62 then refuseHost s d 2 x
      else if lineLocked s (pa / 256) || hostQueued s || outsideHeld s (pa / 256) 0 0 then
        hostWaits s (.hostAtomic op (.data x) wide operand compare)
      else
        let s := outsideEvent s (pa / 256) 0 0
        let (old, s) := homeAtomic s code false false pa n (atomicOperand code n operand compare)
        answerHost s (.hostData (wordBytes n old))
    | none => if homeReady s d then refuseHost s d 7 x else answerHost s .hostError

/-! ## Answers to the device (R228, R359) -/

def dropFetch (s : State) (id : Nat) : State := { s with fetches := s.fetches.filter (fun f => f.id != id) }
def dropPosted (s : State) (id : Nat) : State := { s with posted := s.posted.filter (fun p => p.id != id) }

/-- Tags of a line that no home of the device holds: what TAGLD reads there is a free value. -/
def freeTags (s : State) : List (BitVec 4) × State :=
  ((List.range 8).map (fun i => (Sys2Proof.Config.remoteByte (s.freeCtr + i)).truncate 4), { s with freeCtr := s.freeCtr + 8 })

/-- The bytes a fetch needs. -/
def fetchNeed (s : State) (f : Fetch) : Nat :=
  if f.engine then
    match s.copies.find? (fun x => match x.waiting with | some w => w.1 == f.id | none => false) with
    | some x => (match x.waiting with | some w => w.2.1 | none => 0)
    | none => 0
  else if f.sector = 4 then 256 else 64

/-- The data of a read from the host or a peer arrives: registers fill, an instruction's words enter the buffer, or an
engine goes on. No copy is kept (R181), and no tag is compared. -/
def fetchServed (s : State) (f : Fetch) (bytes : List Byte) : State :=
  if bytes.length < fetchNeed s f then s
  else if f.engine then engAnswer s f.id bytes
  else if f.inst then
    let s := dropFetch s f.id
    if f.stale then s else bufferLine s f.core f.asid f.line bytes 0
  else
    let (tags, s) := freeTags s
    f.accs.foldl (serveAcc false true false (sectorLine f.sector bytes) tags 0) (dropFetch s f.id)

/-- The old value of an atomic at the host or a peer arrives; of a deque operation, the value with its status (R206). -/
def atomicServed (s : State) (p : Posted) (old status : Nat) : State :=
  let s := dropPosted s p.id
  match p.accs with
  | [] => s
  | a :: _ =>
    match a.kind with
    | .dqpush | .dqpop | .dqsteal => dequeResult s a old status false false
    | _ => atomicResult s a (old % 256 ^ a.size) false

def isHostStage (st : Stage) : Bool := match st with | .host _ => true | _ => false

/-- Whether a posted access is the write of a deque operation's element (R206). -/
def writesElem (p : Posted) : Bool := p.elem.isSome && p.accs.any (fun a => a.kind == .dqpush)

/-- Whether a posted access returns a value. -/
def returnsValue (p : Posted) : Bool := (p.kind == .atomic || p.kind == .deque) && !writesElem p

/-- The host's data, atomic result or acknowledgement. Writes are acknowledged in issue order (R228). -/
def execHostResponse (id : Nat) (bytes : List Byte) (s : State) : Host.Outcome State Fault Refusal :=
  if !linkReady s then .next s
  else
    match s.fetches.find? (fun f => f.id == id && isHostStage f.stage) with
    | some f => .next (fetchServed s f bytes)
    | none =>
      match s.posted.find? (fun p => p.id == id && isHostStage p.stage) with
      | none => .next s
      | some p =>
        if returnsValue p then
          .next (if p.elem.isNone then atomicServed s p (bytesVal bytes) 0
            else if bytes.length < 8 then s else dequeFinish s p (bytesVal (bytes.take 8)))
        else
          let first := s.posted.find? (fun q => isHostStage q.stage && !returnsValue q)
          .next (if first ≠ some p then s else if p.elem.isSome then dequeFinish s p 0 else dropPosted s id)

/-! ## Lost accesses (R191, R252, R359) -/

/-- The address of an engine's request. -/
def engWaitVa (x : CopyRun) : W64 :=
  let isIndex := match x.waiting with | some w => w.2.2 | none => false
  let c := x.cmd
  if isIndex then engAddr c.istream (c.rowOf x.rd * c.isize : Nat)
  else match (c.elem x.idx x.rd).bind CopyElem.src with
    | some o => engAddr (c.w 0) o
    | none => c.w 0

/-- A violation entry of kind 4 for a lost access. -/
def logGone (s : State) (d source who addr asid : Nat) : State :=
  logViolation s d { gt := s.gt, addr := addr, asid := asid, source := source, kind := 4, who := who }

/-- The entries of a lost request: the address of each of its accesses as issued, else the one given (R193). -/
def logLost (s : State) (core asid other : Nat) (accs : List Acc) : State :=
  if accs.isEmpty then logGone s (dieOf core) 0 core other asid
  else accs.foldl (fun s a => logGone s (dieOf core) 0 core a.addr.toNat asid) s

/-- A read completes as REMOTE-GONE: deferred for strands, a stop for an engine; instruction words are fetched
again. -/
def goneFetch (s : State) (f : Fetch) : State :=
  match (if f.engine then s.copies.find? (fun x => match x.waiting with | some w => w.1 == f.id | none => false) else none) with
  | some x => engLost (logGone s (x.engine / 12) 1 x.engine (engWaitVa x).toNat x.cmd.asid) f.id 13
  | none => logAll (dropFetch (logLost s f.core f.asid f.shown (issueOrder f)) f.id) (issueOrder f) 13

/-- A write of an engine is lost: its command stops at the first element lost, and the clasp is lowered for the elements before it
alone (R253). -/
def goneBeat (s : State) (p : Posted) (due : Nat) : State :=
  let s := dropPosted s p.id
  match (s.dues.find? (fun x => x.id == due)).bind (fun q => (findRun s q.cmd).map (fun x => (q, x))) with
  | none => s
  | some (q, x) =>
    let s := logGone s (x.engine / 12) 1 x.engine p.va.toNat x.cmd.asid
    let before := Nat.min q.bytes ((p.nth - q.first) * x.cmd.size)
    let s := { s with dues := s.dues.map (fun (y : Due) => if y.id == due then { y with bytes := before } else y) }
    match x.stop with
    | some st => if st.at_ ≤ p.nth then s else stopRun s x p.nth 13 p.va false
    | none => stopRun s x p.nth 13 p.va false

/-- The address at which a posted access of the device's own begins. -/
def postedAddr (p : Posted) : Nat := p.line * 256 + (p.bytes.head?.map Prod.fst).getD 0

/-- A posted access completes as REMOTE-GONE: deferred for a strand, the end of a group whose log it carries, an entry of the
dispatcher's for a write of its own. -/
def gonePosted (s : State) (p : Posted) : State :=
  match p.due, p.peer with
  | some due, _ => goneBeat s p due
  | none, some (m, seq, wanted) =>
    let d := dieOf p.core
    let s := logGone (dropPosted s p.id) d 0 p.core p.va.toNat p.asid
    if wanted then answerAtomic s m seq d (faulted + 13) 8 0 else s
  | none, none =>
    let s := dropPosted s p.id
    match p.kind with
    | .service => logGone s 0 5 p.hslot p.va.toNat p.asid
    | .hardware => killGroup (logGone s (dieOf p.core) 0 p.core (postedAddr p) p.asid) p.core p.hslot 13
    | _ =>
      let s := if p.elem.isSome then logGone s (dieOf p.core) 0 p.core p.va.toNat p.asid
        else if p.kind == .atomic && p.accs.isEmpty then logGone s 0 5 p.hslot p.va.toNat p.asid
        else logLost s p.core p.asid (p.line * 256) p.accs
      logAll s p.accs 13

/-- An access held 10 ms for a link that is not ready (R359). -/
def execHostLinkTimeout (id : Nat) (s : State) : Host.Outcome State Fault Refusal :=
  let late (since : Nat) : Bool := since + 10000000 ≤ s.gt
  if linkReady s then .next s
  else
    match s.fetches.find? (fun f => f.id == id && isHostStage f.stage && late f.since) with
    | some f => .next (goneFetch s f)
    | none =>
      match s.posted.find? (fun p => p.id == id && isHostStage p.stage && late p.since) with
      | some p => .next (gonePosted s p)
      | none => .next s

end Sys2Proof.Machine
end

