-- ==== Sys2Proof/Machine/Chain.lean ====
section
/-! DEFINITION. The Chain fabric (R191, R251, R360-R362): messages from peers, answers of peers, acknowledgements and
retransmission, lost peers, and the state of the ports. -/

namespace Sys2Proof.Machine

/-! ## Messages from a peer -/

/-- Whether Cameo of a die holds a message: it is not the next one logged on its connection (R340). -/
def chainHeld (s : State) (m seq d : Nat) : Bool := cmHolds s d 3 (cmAny s d) [m] [m, seq]

/-- What becomes of a message that arrives: it is a duplicate, it has to wait, or it is delivered now. -/
inductive Delivery where
  | duplicate | waits | now
  deriving DecidableEq, Repr

def deliveryOf (s : State) (m seq d : Nat) (pending : Bool) : Delivery :=
  if seq < (s.conn m).recvNext then .duplicate
  else if seq ≠ (s.conn m).recvNext || pending || chainHeld s m seq d then .waits
  else .now

/-- Deliver a message in sequence order to a die that observes it (R361): a duplicate is acknowledged again, one that has to
wait joins the inbox, and a gap in the sequence is reported with a nak. -/
def deliver (s : State) (i : Instr) (m seq clk d : Nat) (pending : Bool) (k : State → Nat → State) : State :=
  if !peerUp s m then s
  else
    match deliveryOf s m seq d pending with
    | .duplicate => sendAck s m
    | .waits =>
      let s := { s with inbox := s.inbox ++ [i] }
      if (s.conn m).recvNext < seq then putOut s m [ackMsg s m 7] else s
    | .now =>
      let (v, s) := recvPort s m clk
      let s := s.setConn m { s.conn m with recvNext := seq + 1 }
      k (cmEvent s d 3 (cmAny s d) 0 [m] [m, seq] []) v

/-- The home that a message reaches receives the port's clock (R328). -/
def homeReceives (s : State) (d clk : Nat) : State :=
  s.modDie d (fun x => { x with homeClk := clockNext (Nat.max x.homeClk clk) })

/-- An error response to a request, of the response kind given. -/
def refusePeer (s : State) (m seq kind addr : Nat) (log : Bool) (resp : Nat := 2) : State :=
  let s := if log then logViolation s (if addr < 2 ^ 38 then dieOfPa addr else 0)
    { gt := s.gt, addr := addr, asid := 0, source := 3, kind := kind, who := m } else s
  sendPeer s m resp refused [] seq

/-- Serve a peer's request at its home, or refuse it. -/
def atPeerHome (s : State) (m seq addr n clk : Nat) (resp : Nat) (k : State → State) : State :=
  if !localBytesOk addr n then refusePeer s m seq 1 addr true resp
  else if !homeReady s (dieOfPa addr) then refusePeer s m seq 1 addr false resp
  else k (homeReceives s (dieOfPa addr) clk)

def execChainRead (peer seq clk addr len : Nat) (s : State) : Host.Outcome State Fault Refusal :=
  .next (deliver s (.chainRead peer seq clk addr len) peer seq clk (dieOfPa addr) (linesPending s addr len) (fun s v =>
    atPeerHome s peer seq addr len v 2 (fun s => sendPeer s peer 2 0 (newestBytes s addr len) seq)))

/-- A write is an arrival that takes its T above that of the connection's last one (R228); it is acknowledged once
visible. -/
def chainPut (s : State) (m seq addr : Nat) (bytes : List Byte) : State :=
  (linePieces (bytes.length + 1) addr bytes).foldl (fun s q =>
    let p : Pend := { t := none, bytes := putBytes [] (q.1 % 256) q.2, link := some (m, seq) }
    let (t, s) := arriveAfter s (q.1 / 256) (s.conn m).lastT p
    s.setConn m { s.conn m with lastT := t }) s

def execChainWrite (peer seq clk addr : Nat) (bytes : List Byte) (s : State) : Host.Outcome State Fault Refusal :=
  .next (deliver s (.chainWrite peer seq clk addr bytes) peer seq clk (dieOfPa addr) (linesLocked s addr bytes.length) (fun s v =>
    atPeerHome s peer seq addr bytes.length v 2 (fun s => chainPut s peer seq addr bytes)))

/-- A deque operation of a peer at its descriptor, as one step with its element access (R206): it answers with its status and its
value. An element that the host or another peer holds is asked for over its link; until its answer nothing else acts on the
descriptor's line (R207). -/
def peerDeque (s : State) (m seq : Nat) (o : PeerOp) (addr data : Nat) : State :=
  let k : AccKind := if o.code = 0x9A then .dqpush else if o.code = 0x9B then .dqpop else .dqsteal
  let ws := dequeWords s addr
  let d := dieOfPa addr
  match dequeDo k ws with
  | .ends st => answerAtomic s m seq d st 8 0
  | .element i =>
    match dequeElement s d o.asid m o.pkr ws i (o.code == 0x9A) with
    | (.inr cause, s) => answerAtomic s m seq d (faulted + cause) 8 0
    | (.inl (.home ea), s) =>
      let (v, s) := dequeLocal s k ea data
      answerAtomic (arriveAt s (addr / 256) { t := none, bytes := dequeUpdate k (addr % 256) ws }).2 m seq d 0 8 v
    | (.inl st, s) =>
      let (id, s) := s.fresh
      let va : W64 := .ofNat 64 (elementVa ws i)
      -- the access is of no core and no group slot of the device
      let a : Acc := { kind := k, core := 256 + m, hslot := 64, sid := 0, slot := 0, uni := true, addr := .ofNat 64 addr, pc := 0, word := 0,
                       size := 64, pos := 0, data := data, asid := o.asid, esize := 8 }
      let p : Posted := { id := id, kind := .deque, core := 24 * d, hslot := 64, asid := o.asid, line := va.toNat % 2 ^ 57 / 256,
                          accs := [a], pkr := o.pkr, stage := st, elem := some (addr / 256), va := va, since := s.gt,
                          bytes := putBytes [] (va.toNat % 256) (wordBytes 8 data), peer := some (m, seq, true) }
      let s := { s with posted := s.posted ++ [p] }
      match st with
      | .peer m' ea => if k == .dqpush then sendPeer s m' 3 ea (wordBytes 8 data) id else sendRead s m' ea 8 id
      | _ => s

/-- Whether an atomic message has to wait at its line: for a deque operation under way, or for its turn in the log of Cameo. -/
def peerAtomicWaits (s : State) (m seq addr : Nat) : Bool :=
  lineLocked s (addr / 256) || outsideHeld s (addr / 256) (m + 1) (seq * 2 ^ 16)

def execChainAtomic (peer seq clk : Nat) (o : PeerOp) (addr : Nat) (signed h2 wide : Bool) (operand compare : W64) (s : State) :
    Host.Outcome State Fault Refusal :=
  let op := o.code
  let deque : Bool := 0x9A ≤ op && op ≤ 0x9C
  let n := if deque then 64 else if wide then 8 else 4
  .next (deliver s (.chainAtomic peer seq clk o addr signed h2 wide operand compare) peer seq clk (dieOfPa addr)
    (peerAtomicWaits s peer seq addr) (fun s v =>
    atPeerHome s peer seq addr n (Nat.max v o.clk) 5 (fun s =>
      if op < 0x90 || 0x9C < op || addr % n ≠ 0 then refusePeer s peer seq 7 addr true 5
      else
        let s := outsideEvent s (addr / 256) (peer + 1) (seq * 2 ^ 16)
        if deque then peerDeque s peer seq o addr operand.toNat
        else
          let (old, s) := homeAtomic s op signed h2 addr n (atomicOperand op n operand compare)
          answerAtomic s peer seq (dieOfPa addr) 0 n old)))

/-- One element of a reduce: an atomic at its home, whose T lies above that of the connection's last write (R227, R228, R251). -/
def reduceOne (m seq addr : Nat) (float : Bool) (s : State) (q : W32 × Nat) : State :=
  let pa := addr + 4 * q.2
  let s := outsideEvent s (pa / 256) (m + 1) (seq * 2 ^ 16 + q.2)
  let new := wordBytes 4 (reduceVal float (newestWord s pa 4) q.1.toNat)
  let (t, s) := arriveAfter s (pa / 256) (s.conn m).lastT
    { t := none, bytes := putBytes [] (pa % 256) new, link := some (m, seq) }
  s.setConn m { s.conn m with lastT := t }

/-- Add the elements of a reduce. It is acknowledged once they are visible. -/
def reduceAt (s : State) (m seq addr : Nat) (float : Bool) (elems : List W32) : State :=
  elems.zipIdx.foldl (reduceOne m seq addr float) s

/-- Whether a reduce has to wait: for a deque operation under way on a line of it, or for the turn of an element in the log of
Cameo, those before it made. -/
def reduceWaits (s : State) (m seq addr : Nat) (float : Bool) (elems : List W32) : Bool :=
  linesLocked s addr (4 * elems.length)
  || (elems.zipIdx.foldl (fun (x : Bool × State) q =>
      (x.1 || outsideHeld x.2 ((addr + 4 * q.2) / 256) (m + 1) (seq * 2 ^ 16 + q.2), reduceOne m seq addr float x.2 q))
    (false, s)).1

def execChainReduce (peer seq clk addr : Nat) (float : Bool) (elems : List W32) (s : State) :
    Host.Outcome State Fault Refusal :=
  .next (deliver s (.chainReduce peer seq clk addr float elems) peer seq clk (dieOfPa addr)
    (reduceWaits s peer seq addr float elems) (fun s v =>
    atPeerHome s peer seq addr (4 * elems.length) v 2 (fun s =>
      if addr % 4 ≠ 0 then refusePeer s peer seq 7 addr true else reduceAt s peer seq addr float elems)))

/-! ## Answers of a peer -/

/-- The module a stage names. -/
def peerOf (st : Stage) : Option Nat := match st with | .peer m _ => some m | _ => none

/-- The message of a request leaves the buffer with its answer. -/
def answered (s : State) (m id : Nat) : State :=
  let c := s.conn m
  sendWaiting (s.setConn m { c with unacked := c.unacked.filter (fun x => x.ref != id), progressGt := s.gt, sentGt := s.gt }) m

/-- The die that observes the response to a request: that of the core, or of the engine's core, that issued it. -/
def responseDie (s : State) (id : Nat) : Nat :=
  match s.fetches.find? (fun f => f.id == id), s.posted.find? (fun p => p.id == id) with
  | some f, _ => dieOf f.core
  | none, some p => dieOf p.core
  | none, none => 0

/-- A read response: the data, or an error response, which the access takes as REMOTE-GONE (log entry 48). The element of a
deque operation completes it. -/
def readAnswered (s : State) (m id status : Nat) (bytes : List Byte) : State :=
  let s := sendAck (answered s m id) m
  match s.fetches.find? (fun f => f.id == id && peerOf f.stage == some m) with
  | some f => if status = 0 then fetchServed s f bytes else goneFetch s f
  | none =>
    match s.posted.find? (fun p => p.id == id && peerOf p.stage == some m && p.elem.isSome) with
    | some p => if status = 0 then dequeFinish s p (bytesVal (bytes.take 8)) else gonePosted s p
    | none => s

def execChainReadResponse (x : Response) (clk : Nat) (bytes : List Byte) (s : State) : Host.Outcome State Fault Refusal :=
  .next (deliver s (.chainReadResponse x clk bytes) x.peer x.seq clk (responseDie s x.id) false (fun s _ =>
    readAnswered s x.peer x.id x.status bytes))

/-- An atomic response, with the clocks of the port and of the peer's home: the old value; of a deque operation the value and
status, or the fault of its element (R206). -/
def atomicAnswered (s : State) (m clk id status : Nat) (old : W64) : State :=
  let s := sendAck (answered s m id) m
  match s.posted.find? (fun p => p.id == id && peerOf p.stage == some m && returnsValue p) with
  | none => s
  | some p =>
    match p.accs with
    | [] => if status = 0 then dropPosted s id else gonePosted s p
    | a :: _ =>
      let s := receiveClock s a.core a.hslot clk
      if status < 4 then atomicServed s p old.toNat status
      else if status = refused then gonePosted s p
      else logAccess (dropPosted s id) a (status - faulted)

def execChainAtomicResponse (x : Response) (clk : Nat) (old : W64) (s : State) : Host.Outcome State Fault Refusal :=
  .next (deliver s (.chainAtomicResponse x clk old) x.peer x.seq clk (responseDie s x.id) false (fun s v =>
    atomicAnswered s x.peer (Nat.max v x.home) x.id x.status old))

/-- A posted write or reduce whose every message is acknowledged is done (R228, R249); with that of its element, a deque
operation. -/
def settleAcked (s : State) (m : Nat) : State :=
  let left := ((s.conn m).unacked ++ (s.conn m).waiting).map ChainMsg.ref
  let done (p : Posted) : Bool := peerOf p.stage == some m && !left.contains p.id && !(returnsValue p && !p.accs.isEmpty)
  (s.posted.filter done).foldl (fun s p => if p.elem.isSome then dequeFinish s p 0 else dropPosted s p.id) s

def execChainAck (peer ack : Nat) (s : State) : Host.Outcome State Fault Refusal :=
  let c := s.conn peer
  let left := c.unacked.filter (fun x => ack ≤ x.seq)
  if !peerUp s peer || left.length = c.unacked.length then .next s
  else
    let s := settleAcked (s.setConn peer { c with unacked := left, progressGt := s.gt, sentGt := s.gt }) peer
    .next ((waitingPeers s).foldl sendWaiting s)

/-- Resend from the first unacknowledged message. -/
def resend (s : State) (m : Nat) : State :=
  let c := s.conn m
  putOut (s.setConn m { c with sentGt := s.gt }) m c.unacked

def execChainNak (peer : Nat) (s : State) : Host.Outcome State Fault Refusal :=
  .next (if peerUp s peer && !(s.conn peer).unacked.isEmpty then resend s peer else s)

def execChainRetransmitTimeout (peer : Nat) (s : State) : Host.Outcome State Fault Refusal :=
  let c := s.conn peer
  .next (if c.unacked.isEmpty || s.gt < c.sentGt + 20000 then s else resend s peer)

/-! ## Lost peers (R191, R361) -/

/-- The module of a window. -/
def winModule (dd : Die) (w : Nat) : Nat := bitsAt (pwEntry dd w).1 32 14

/-- Clear a die's windows of a module, and drop the translations that use them. -/
def dropWindows (s : State) (m d : Nat) : State :=
  let dd := s.die d
  let ws := (List.range 256).filter (fun w => (pwEntry dd w).1.getLsbD 63 && winModule dd w == m)
  if ws.isEmpty then s
  else
    let clear (r : SMap W64) (w : Nat) : SMap W64 := r.set (0x1000 + 16 * w) ((pwEntry dd w).1 &&& ~~~(1#64 <<< 63))
    let uses (e : SliceEntry) : Bool := e.leaf.attr == 2 && ws.contains e.leaf.pwin
    s.setDie d { dd with regs := ws.foldl clear dd.regs,
                         slices := dd.slices.map (fun p => (p.1, p.2.filter (fun e => !uses e))) }

/-- The peer that a waiting message came from. -/
def messageOf (i : Instr) : Option Nat :=
  match i with
  | .chainRead m .. | .chainWrite m .. | .chainAtomic m .. | .chainReduce m .. => some m
  | .chainReadResponse x .. | .chainAtomicResponse x .. => some x.peer
  | _ => none

/-- A link-down or a reset of a module is reported: its windows close on every die, what was sent to it completes as
REMOTE-GONE, and its connection begins anew. -/
def execPeerLinkDown (module : Nat) (s : State) : Host.Outcome State Fault Refusal :=
  let s := { s with downs := s.downs.filter (fun m => m != module), inbox := s.inbox.filter (fun i => messageOf i != some module) }
  let s := (List.range 8).foldl (fun s d => dropWindows s module d) s
  let s := s.setConn module {}
  let forget (p : Posted) : Posted := { p with peer := p.peer.map (fun q => (q.1, q.2.1, q.2.2 && q.1 != module)) }
  let s := { s with posted := s.posted.map forget }
  let s := (s.fetches.filter (fun f => peerOf f.stage == some module)).foldl goneFetch s
  .next ((s.posted.filter (fun p => peerOf p.stage == some module)).foldl gonePosted s)

/-- A connection without progress for 20 ms declares its peer lost, which is a link-down event for its windows. -/
def execPeerLost (peer : Nat) (s : State) : Host.Outcome State Fault Refusal :=
  let c := s.conn peer
  if c.unacked.isEmpty || s.gt < c.progressGt + 20000000 then .next s else execPeerLinkDown peer s

/-! ## Ports (R357, R360-R362) -/

/-- The modules that are reached through a port: those of connections and of valid windows. -/
def modulesOf (s : State) (q : Nat) : List Nat :=
  let wins := ((List.range 8).map (fun d => ((List.range 256).filter (fun w => (pwEntry (s.die d) w).1.getLsbD 63)).map
    (winModule (s.die d)))).flatten
  (((s.conns.map Prod.fst) ++ wins).eraseDups).filter (fun m => chainPortOf s m == some q)

/-- A port stops: its ready bit clears, and its modules are reported down in the steps that follow. -/
def downPort (s : State) (q : Nat) : State :=
  let s := { s with downs := (s.downs ++ modulesOf s q).eraseDups }
  let s := s.setPort q { s.port q with lanes := 0 }
  { s with plat := { s.plat with rdy := s.plat.rdy &&& ~~~(1#29 <<< (13 + q)) } }

def execLinkDown (port : Nat) (s : State) : Host.Outcome State Fault Refusal :=
  .next (if portUp s port && port < 16 then downPort s port else s)

/-- Whether the boot has verified its images (R363). -/
def booted (s : State) : Bool := s.plat.rdy.getLsbD 0

/-- What a port has trained as, as the event of its training says it beside the four lanes (log entry 30). -/
def phyOf (lanes : Nat) : Option Phy :=
  match lanes with
  | 4 => some .copperL7
  | 12 => some .copper
  | 20 => some .optical
  | _ => none

/-- An enabled port has trained: it is up, with its four lanes (R360); only the shedding of lanes leaves fewer (R362). -/
def execLinkUp (port lanes : Nat) (s : State) : Host.Outcome State Fault Refusal :=
  match phyOf lanes with
  | none => .next s
  | some phy =>
    if !booted s || 16 ≤ port || !(s.port port).cfg.getLsbD 0 || portUp s port then .next s
    else
      let s := s.setPort port { s.port port with lanes := 4, phy := phy }
      .next { s with plat := { s.plat with rdy := s.plat.rdy ||| (1#29 <<< (13 + port)) } }

/-- The frames in flight are discarded; the buffer of every connection of the port sends again (R362). -/
def resendPort (s : State) (q : Nat) : State :=
  ((s.conns.map Prod.fst).filter (fun m => chainPortOf s m == some q)).foldl resend s

/-- Whether a port sheds lanes: its shed bit is set, and it has trained as 400GBASE-CR4 to another L7 (R362). -/
def ChainPort.shedding (p : ChainPort) : Bool := p.cfg.getLsbD 1 && p.phy == .copperL7

/-- A lane in use fails, with a number of the four lanes still healthy: a shedding port retrains to two or one of them, any other is
down. -/
def execLaneShed (port healthy : Nat) (s : State) : Host.Outcome State Fault Refusal :=
  let p := s.port port
  if 16 ≤ port || !portUp s port || 4 ≤ healthy then .next s
  else if !p.shedding || healthy = 0 then .next (downPort s port)
  else .next (resendPort (s.setPort port { p with lanes := Nat.min 2 healthy, sheds := (p.sheds + 1) % 2 ^ 32 }) port)

/-- A retrain of shed lanes has brought lanes back. -/
def execLaneRestore (port lanes : Nat) (s : State) : Host.Outcome State Fault Refusal :=
  let p := s.port port
  if 16 ≤ port || !portUp s port || !p.shedding || lanes ≤ p.lanes || !(lanes == 2 || lanes == 4) then .next s
  else .next (resendPort (s.setPort port { p with lanes := lanes }) port)

end Sys2Proof.Machine
end

