-- ==== Sys2Proof/Machine/Sha.lean ====
section
/-! DEFINITION. SHA-384, with which the boot measures its images (R363), as FIPS 180-4 defines it: a word of the message block by
block, 80 rounds each. -/

namespace Sys2Proof.Machine.Sha

/-- The round constants: the first 64 bits of the fractions of the cube roots of the first 80 primes. -/
def roundKeysLow : List W64 :=
  [ 0x428A2F98D728AE22, 0x7137449123EF65CD, 0xB5C0FBCFEC4D3B2F, 0xE9B5DBA58189DBBC, 0x3956C25BF348B538,
    0x59F111F1B605D019, 0x923F82A4AF194F9B, 0xAB1C5ED5DA6D8118, 0xD807AA98A3030242, 0x12835B0145706FBE,
    0x243185BE4EE4B28C, 0x550C7DC3D5FFB4E2, 0x72BE5D74F27B896F, 0x80DEB1FE3B1696B1, 0x9BDC06A725C71235,
    0xC19BF174CF692694, 0xE49B69C19EF14AD2, 0xEFBE4786384F25E3, 0x0FC19DC68B8CD5B5, 0x240CA1CC77AC9C65,
    0x2DE92C6F592B0275, 0x4A7484AA6EA6E483, 0x5CB0A9DCBD41FBD4, 0x76F988DA831153B5, 0x983E5152EE66DFAB,
    0xA831C66D2DB43210, 0xB00327C898FB213F, 0xBF597FC7BEEF0EE4, 0xC6E00BF33DA88FC2, 0xD5A79147930AA725,
    0x06CA6351E003826F, 0x142929670A0E6E70, 0x27B70A8546D22FFC, 0x2E1B21385C26C926, 0x4D2C6DFC5AC42AED,
    0x53380D139D95B3DF, 0x650A73548BAF63DE, 0x766A0ABB3C77B2A8, 0x81C2C92E47EDAEE6, 0x92722C851482353B ]

def roundKeysHigh : List W64 :=
  [ 0xA2BFE8A14CF10364, 0xA81A664BBC423001, 0xC24B8B70D0F89791, 0xC76C51A30654BE30, 0xD192E819D6EF5218,
    0xD69906245565A910, 0xF40E35855771202A, 0x106AA07032BBD1B8, 0x19A4C116B8D2D0C8, 0x1E376C085141AB53,
    0x2748774CDF8EEB99, 0x34B0BCB5E19B48A8, 0x391C0CB3C5C95A63, 0x4ED8AA4AE3418ACB, 0x5B9CCA4F7763E373,
    0x682E6FF3D6B2B8A3, 0x748F82EE5DEFB2FC, 0x78A5636F43172F60, 0x84C87814A1F0AB72, 0x8CC702081A6439EC,
    0x90BEFFFA23631E28, 0xA4506CEBDE82BDE9, 0xBEF9A3F7B2C67915, 0xC67178F2E372532B, 0xCA273ECEEA26619C,
    0xD186B8C721C0C207, 0xEADA7DD6CDE0EB1E, 0xF57D4F7FEE6ED178, 0x06F067AA72176FBA, 0x0A637DC5A2C898A6,
    0x113F9804BEF90DAE, 0x1B710B35131C471B, 0x28DB77F523047D84, 0x32CAAB7B40C72493, 0x3C9EBE0A15C9BEBC,
    0x431D67C49C100D4C, 0x4CC5D4BECB3E42B6, 0x597F299CFC657E2A, 0x5FCB6FAB3AD6FAEC, 0x6C44198C4A475817 ]

def roundKeys : List W64 := roundKeysLow ++ roundKeysHigh

/-- The eight working words. -/
structure Regs where
  a : W64
  b : W64
  c : W64
  d : W64
  e : W64
  f : W64
  g : W64
  h : W64
  deriving DecidableEq, Repr

/-- The initial hash value of SHA-384: the first 64 bits of the fractions of the square roots of the ninth to sixteenth primes. -/
def start : Regs :=
  { a := 0xCBBB9D5DC1059ED8, b := 0x629A292A367CD507, c := 0x9159015A3070DD17, d := 0x152FECD8F70E5939, e := 0x67332667FFC00B31,
    f := 0x8EB44A8768581511, g := 0xDB0C2E0D64F98FA7, h := 0x47B5481DBEFA4FA4 }

def ror (x : W64) (n : Nat) : W64 := (x >>> n) ||| (x <<< (64 - n))

def bigSigma0 (x : W64) : W64 := ror x 28 ^^^ ror x 34 ^^^ ror x 39
def bigSigma1 (x : W64) : W64 := ror x 14 ^^^ ror x 18 ^^^ ror x 41
def smallSigma0 (x : W64) : W64 := ror x 1 ^^^ ror x 8 ^^^ (x >>> 7)
def smallSigma1 (x : W64) : W64 := ror x 19 ^^^ ror x 61 ^^^ (x >>> 6)

/-- One round, with its constant and its word of the schedule. -/
def round (r : Regs) (k w : W64) : Regs :=
  let t1 := r.h + bigSigma1 r.e + ((r.e &&& r.f) ^^^ (~~~r.e &&& r.g)) + k + w
  let t2 := bigSigma0 r.a + ((r.a &&& r.b) ^^^ (r.a &&& r.c) ^^^ (r.b &&& r.c))
  { a := t1 + t2, b := r.a, c := r.b, d := r.c, e := r.d + t1, f := r.e, g := r.f, h := r.g }

/-- The rounds that the constants give, over the sixteen words of the schedule in hand: each round takes the first and appends the
next. -/
def rounds : List W64 → List W64 → Regs → Regs
  | [], _, r => r
  | k :: ks, ws, r =>
    let w := ws.getD 0 0
    let next := smallSigma1 (ws.getD 14 0) + ws.getD 9 0 + smallSigma0 (ws.getD 1 0) + w
    rounds ks (ws.drop 1 ++ [next]) (round r k w)

/-- A big-endian word of eight bytes. -/
def beWord (l : List Byte) : W64 := l.foldl (fun w b => (w <<< 8) ||| b.zeroExtend 64) 0

def beBytes (w : W64) : List Byte := (List.range 8).map (fun i => (w >>> (56 - 8 * i)).truncate 8)

/-- The first 16 words of a block. -/
def blockWords (l : List Byte) : List W64 := (List.range 16).map (fun i => beWord ((l.drop (8 * i)).take 8))

def block (r : Regs) (l : List Byte) : Regs :=
  let x := rounds roundKeys (blockWords l) r
  { a := r.a + x.a, b := r.b + x.b, c := r.c + x.c, d := r.d + x.d, e := r.e + x.e, f := r.f + x.f, g := r.g + x.g, h := r.h + x.h }

/-- The message with its padding and its length in bits. -/
def padded (m : List Byte) : List Byte :=
  m ++ 0x80 :: List.replicate ((239 - m.length % 128) % 128) 0 ++ (List.range 16).map (fun i => .ofNat 8 (8 * m.length / 256 ^ (15 - i)))

/-- The hash of `n` blocks. -/
def blocks : Nat → List Byte → Regs → Regs
  | 0, _, r => r
  | n + 1, l, r => blocks n (l.drop 128) (block r (l.take 128))

/-- The 48 bytes of the SHA-384 of a message. -/
def sha384 (m : List Byte) : List Byte :=
  let l := padded m
  let r := blocks (l.length / 128) l start
  ([r.a, r.b, r.c, r.d, r.e, r.f].map beBytes).flatten

end Sys2Proof.Machine.Sha
end

