-- ==== Sys2Proof/Machine/Platform.lean ====
section
/-! DEFINITION. Power (R358), the boot (R363) and Locket's attestation reports (R364). -/

namespace Sys2Proof.Machine

/-! ## Power and boot -/

/-- RDY.pl (R356). -/
def linkBit : BitVec 29 := 2

/-- The state after a reset keeps the fuses; the outside world's coming events and the counter of free values are no
state of the device. -/
def resetKeeping (s : State) (powered : Bool) : State :=
  { State.reset with powered := powered, fuses := s.fuses, agenda := s.agenda, freeCtr := s.freeCtr }

/-- Power-on: the boot begins, and its ROM has trained the Porsen link before it verifies an image (R363). -/
def execPowerOnReset (s : State) : Host.Outcome State Fault Refusal :=
  let s := resetKeeping s true
  .next { s with plat := { s.plat with rdy := linkBit } }

/-- The loss of power keeps the fuses only. -/
def execPowerOff (s : State) : Host.Outcome State Fault Refusal := .next (resetKeeping s false)

/-- The leaves of the top tree of the attestation key: one for each boot (R364). -/
def topLeaves : Nat := 32768

/-- Reports that one boot's bottom tree signs (R364). -/
def bottomLeaves : Nat := 1024

/-- The ready bits of every function but the Chain ports (R356): Locket, the link, eight homes, dispatchers, governor,
Loupe. -/
def bootReady : BitVec 29 := 0x1FFF

/-- The images that the boot finds: each of them after its length in 8 bytes, as the event of the boot brings them (log entry 30). -/
def imagesOf : Nat → List Byte → List (List Byte)
  | 0, _ => []
  | n + 1, l =>
    let size := bytesVal (l.take 8)
    (l.drop 8).take size :: imagesOf n (l.drop (8 + size))

/-- The measurements M0 to M2 of the three images, and M3 of their security versions (R363). -/
def measure (images : List (List Byte)) : List Byte :=
  (images.map Sha.sha384).flatten
    ++ Sha.sha384 ((images.map (fun i => Sys2Proof.Config.versionBytes (Sys2Proof.Config.imageVersion i))).flatten)

/-- Whether an image carries a security version below the fused minimum. -/
def tooOld (s : State) (image : List Byte) : Bool := decide (Sys2Proof.Config.imageVersion image < s.fuses.minVersion)

/-- The boot ROM, its Porsen link trained, has looked at its three images (R363): every function starts, or only the link serves.
`signed` says whether both signatures of each verify, against keys that the spec does not give. -/
def execBootVerify (signed : Bool) (found : List Byte) (s : State) : Host.Outcome State Fault Refusal :=
  let images := imagesOf 3 found
  if booted s || s.plat.fail then .next s
  else if signed && !images.any (tooOld s) then
    let n := s.fuses.boots + 1
    .next { s with fuses := { s.fuses with boots := n },
                   plat := { s.plat with rdy := s.plat.rdy ||| bootReady, measures := measure images,
                                         lmsx := topLeaves < n } }
  else .next { s with plat := { s.plat with rdy := s.plat.rdy ||| linkBit, fail := true } }

/-! ## Reports (R364) -/

/-- The nonce as the registers hold it. -/
def nonceOf (s : State) : List Byte := ((List.range 6).map (fun i => wordBytes 8 (s.plat.regs.get 0 (0x100 + 8 * i)).toNat)).flatten

/-- A write of LKCMD: a report is requested, unless one is being produced. -/
def execLkcmdReport (v : W64) (s : State) : Host.Outcome State Fault Refusal :=
  .next (if booted s && bitsAt v 0 4 = 1 && s.plat.busy.isNone then
    { s with plat := { s.plat with busy := some (bitsAt v 12 40 * 4096, nonceOf s) } } else s)

/-- A field of a fixed length. -/
def fieldBytes (n : Nat) (l : List Byte) : List Byte := (l ++ List.replicate n 0).take n

/-- "LOCKETAT" in ASCII. -/
def reportMagic : List Byte := [0x4C, 0x4F, 0x43, 0x4B, 0x45, 0x54, 0x41, 0x54]

/-- The signed part of a report: bytes 0x000 to 0x0FF. -/
def reportBody (s : State) (nonce : List Byte) : List Byte :=
  reportMagic ++ wordBytes 4 s.fuses.boots ++ wordBytes 4 s.plat.reports ++ fieldBytes 48 nonce ++ fieldBytes 192 s.plat.measures

/-- The HSS signature of a report (R364): Nspk, which is 1, then the top tree's signature of this boot's bottom public key and that
key, the same in every report of the boot, then the bottom tree's signature. -/
def hssBytes (s : State) (body : List Byte) : List Byte :=
  let boot := wordBytes 8 s.fuses.boots
  [0, 0, 0, 1] ++ fieldBytes 1620 (Sys2Proof.Config.locketBytes 1 boot) ++ fieldBytes 48 (Sys2Proof.Config.locketBytes 2 boot)
    ++ fieldBytes 1500 (Sys2Proof.Config.locketBytes 3 body)

/-- A report: the body, the ECDSA signature, and the HSS signature while leaves are left. -/
def reportBytes (s : State) (nonce : List Byte) : List Byte :=
  let body := reportBody s nonce
  body ++ fieldBytes 96 (Sys2Proof.Config.locketBytes 0 body) ++ (if s.plat.lmsx then List.replicate 3172 0 else hssBytes s body)

/-- Locket writes the report to its buffer and clears busy. -/
def execReportComplete (s : State) : Host.Outcome State Fault Refusal :=
  match s.plat.busy with
  | none => .next s
  | some (dst, nonce) =>
    let bytes := reportBytes s nonce
    let s := if localBytesOk dst 4096 then
        (linePieces (bytes.length + 1) dst bytes).foldl (fun s q => engineWrite s q.1 q.2 { t := none }) s
      else s
    let n := s.plat.reports + 1
    .next { s with plat := { s.plat with busy := none, reports := n, lmsx := s.plat.lmsx || bottomLeaves ≤ n } }

end Sys2Proof.Machine
end

