-- ==== Sys2Proof/Machine/Mgmt.lean ====
section
/-! DEFINITION. The management space (R355): where each register lies, which bits a write keeps, what a read returns
(R193, R257, R303, R322, R323, R330, R338, R340, R344, R345, R356, R361), and the writes with an effect of their own. -/

namespace Sys2Proof.Machine

/-- A block of the management space with an offset in it. -/
inductive Block where
  | platform (off : Nat)
  | die (d off : Nat)
  | governor (off : Nat)
  | dispatcher (p off : Nat)
  | chain (q off : Nat)
  | core (n off : Nat)
  | none
  deriving DecidableEq, Repr

/-- The block of an offset (R355). -/
def blockOf (x : Nat) : Block :=
  if x < 0x100000 then .platform x
  else if x < 0x180000 then .die ((x - 0x100000) / 0x10000) (x % 0x10000)
  else if x < 0x200000 then .none
  else if x < 0x300000 then .governor (x - 0x200000)
  else if x < 0x380000 then .dispatcher ((x - 0x300000) / 0x10000) (x % 0x10000)
  else if x < 0x400000 then .none
  else if x < 0x410000 then .chain ((x - 0x400000) / 0x1000) (x % 0x1000)
  else if x < 0x1000000 then .none
  else if x < 0x1000000 + 192 * 0x10000 then .core ((x - 0x1000000) / 0x10000) (x % 0x10000)
  else .none

/-- Bits lo to lo + n - 1. -/
def maskBits (lo n : Nat) : W64 := .ofNat 64 ((2 ^ n - 1) * 2 ^ lo)

/-! ## Bits a write keeps; 0 for a register that is not written -/

def platformMask (off : Nat) : W64 :=
  if off = 0x20 then maskBits 32 16 ||| maskBits 16 14
  else if 0x100 ≤ off && off < 0x130 then maskBits 0 64
  else if 0x1000 ≤ off && off < 0x1100 then (if off % 16 = 0 then maskBits 61 3 ||| maskBits 12 40 else maskBits 0 64)
  else 0

def dieMask (off : Nat) : W64 :=
  if off = 0x0 then maskBits 20 32 ||| maskBits 0 1
  else if 0x1000 ≤ off && off < 0x2000 then
    (if off % 16 = 0 then maskBits 63 1 ||| maskBits 0 46 else maskBits 15 37)
  else if off = 0x4000 then maskBits 12 40 ||| maskBits 0 5
  else if off = 0x4018 then maskBits 63 1 ||| maskBits 0 5
  else if off = 0x4020 then maskBits 12 40 ||| maskBits 0 4
  else if off = 0x4400 then maskBits 0 18
  else if off = 0x4408 then maskBits 12 40 ||| maskBits 0 5
  else 0

def governorMask (off : Nat) : W64 :=
  if off = 0x0 then maskBits 0 48
  else if off = 0x8 then maskBits 0 11
  else if off = 0x100 || off = 0x140 || off = 0x180 || off = 0x1C0 then maskBits 8 16 ||| maskBits 0 5
  else 0

def dispatcherMask (off : Nat) : W64 :=
  if off = 0x0 then maskBits 0 24
  else if off = 0x8 then maskBits 0 49
  else if off = 0x10 then maskBits 12 45 ||| maskBits 0 4
  else if off = 0x18 then maskBits 0 32
  else if 0x1000 ≤ off && off < 0x2000 then
    match off % 0x40 with
    | 0x0 => maskBits 8 24 ||| maskBits 0 1
    | 0x8 => maskBits 6 46
    | 0x10 => maskBits 12 45 ||| maskBits 0 4
    | 0x18 => maskBits 0 32
    | _ => 0
  else 0

def chainMask (off : Nat) : W64 := if off = 0 then maskBits 0 2 else if off = 0x10 then maskBits 12 40 else 0

def idMask : W64 := maskBits 32 10 ||| maskBits 16 6 ||| maskBits 0 16

def coreMask (off : Nat) : W64 :=
  if off = 0x0 then maskBits 0 32
  else if off = 0x10 then maskBits 0 1
  else if off = 0x408 then maskBits 0 10
  else if 0x100 ≤ off && off < 0x200 then (if off % 16 = 0 then maskBits 61 3 ||| maskBits 3 54 else if off % 16 = 8 then idMask else 0)
  else if 0x200 ≤ off && off < 0x400 then
    match off % 0x20 with
    | 0x0 => maskBits 0 57
    | 0x8 => maskBits 57 7 ||| maskBits 8 1 ||| maskBits 0 5
    | 0x10 => idMask
    | _ => 0
  else 0

/-! ## Readiness (R357) -/

/-- Whether the function that a register belongs to can be used. Chain ports train once the boot has verified its
images; matrix registers belong to the cores, which start with it. -/
def blockReady (s : State) (b : Block) : Bool :=
  match b with
  | .platform _ => true
  | .die d off => if off < 0x4000 then homeReady s d else s.plat.rdy.getLsbD 12
  | .governor _ => s.plat.rdy.getLsbD 11
  | .dispatcher .. => s.plat.rdy.getLsbD 10
  | .chain .. => booted s
  | .core _ off => if off < 0x100 then booted s else s.plat.rdy.getLsbD 12
  | .none => false

/-! ## Reads -/

def lkstat (s : State) : W64 :=
  .ofNat 64 ((if s.plat.busy.isSome then 2 ^ 63 else 0) + (if s.plat.fail then 2 ^ 62 else 0)
    + (if s.plat.lmsx then 2 ^ 61 else 0) + s.plat.reports % 65536 * 2 ^ 32 + s.fuses.boots % 65536)

def platformRead (s : State) (off : Nat) : W64 :=
  if off = 0 then 0xC011
  else if off = 0x8 then s.plat.rdy.zeroExtend 64
  else if off = 0x10 then lkstat s
  else if platformMask off = 0 then 0
  else s.plat.regs.get 0 off

/-- Registers of a die that are kept as they read. -/
def dieStored (off : Nat) : Bool :=
  off < 0x10 || (0x100 ≤ off && off < 0x900) || (0x1000 ≤ off && off < 0x2000) || (0x4000 ≤ off && off < 0x4060)
    || (0x4060 ≤ off && off < 0x40A0) || (0x4100 ≤ off && off < 0x4300) || (0x4400 ≤ off && off < 0x4420)

def dieRead (s : State) (d off : Nat) : W64 := if dieStored off then (s.die d).regs.get 0 off else 0

/-- GVPT: the point in effect, the last target, the cap and the step that decided. -/
def gvpt (s : State) (j : Nat) : W64 :=
  let d := s.domain j
  let who := match d.decided with
    | some (c, h) => 2 ^ 26 + h % 64 * 2 ^ 20 + c % 256 * 2 ^ 12
    | none => 0
  .ofNat 64 (who + capOf s j d * 256 + d.target * 16 + d.cur)

def governorRead (s : State) (off : Nat) : W64 :=
  if off = 0x0 || off = 0x8 || (0x200 ≤ off && off < 0x240) then s.gov.regs.get 0 off
  else if 0x100 ≤ off && off < 0x200 then
    let j := (off - 0x100) / 0x40
    match off % 0x40 with
    | 0x0 => s.gov.regs.get 0 off
    | 0x8 => gvpt s j
    | 0x10 => .ofNat 64 ((s.domain j).risks * 2 ^ 48 + (s.domain j).riskGt % 2 ^ 48)
    | _ => 0
  else if 0x1000 ≤ off && off < 0x1180 then
    (if off % 16 = 0 then .ofNat 64 (s.clen.get 0 ((off - 0x1000) / 16)) else s.gov.regs.get 0 off)
  else 0

/-- Gangs of a launch that wait to be placed. -/
def waitingGangs (s : State) (l : Launch) : Nat := l.nteam / l.gsize - l.placed + (savedGangs s l).length

def dpstat (s : State) (p : Nat) : W64 :=
  let x := s.part p
  let waits := ((x.queues.vals.flatten).map (fun h => match s.launch? p h with | some l => waitingGangs s l | none => 0)).sum
  let teams := ((allTeams s).filter (fun q => q.1 < 192 && q.2.2.part == p)).length
  .ofNat 64 (x.handle * 2 ^ 32 + Nat.min 65535 waits * 65536 + teams)

def dispatcherRead (s : State) (p off : Nat) : W64 :=
  let x := s.part p
  if off = 0x28 then dpstat s p
  else if 0x1000 ≤ off && off < 0x2000 then
    let q := (off - 0x1000) / 0x40
    match off % 0x40 with
    | 0x20 => .ofNat 64 (waitingIn x q * 2 ^ 32 + (lqReg x q 0x20).toNat % 2 ^ 32)
    | 0x28 => .ofInt 64 (deficitOf x q)
    | 0x0 | 0x8 | 0x10 | 0x18 => x.regs.get 0 off
    | _ => 0
  else if off < 0x20 then x.regs.get 0 off
  else 0

def chainReadReg (s : State) (q off : Nat) : W64 :=
  let p := s.port q
  if off = 0 then p.cfg else if off = 8 then .ofNat 64 (p.sheds * 2 ^ 32 + p.lanes) else if off = 0x10 then p.tab else 0

/-- MXBANK: the owners of the two banks (R257). -/
def mxbank (s : State) (n : Nat) : W64 :=
  let one (b : Nat) : Nat := match ((s.core n).banks.get {} b).owner with
    | some t => 65536 + (s.team n t).ctx.asid % 65536
    | none => 0
  .ofNat 64 (one 1 * 2 ^ 32 + one 0)

def coreRead (s : State) (n off : Nat) : W64 :=
  if off = 0x8 then mxbank s n
  else if off = 0x18 || off = 0x400 || (0x500 ≤ off && off < 0x580) || coreMask off ≠ 0 then (s.core n).regs.get 0 off
  else 0

/-- Whether a failed boot leaves a block unserved: the link serves the platform block only (R363). -/
def unserved (s : State) (b : Block) : Bool :=
  s.plat.fail && (match b with
    | .platform _ => false
    | _ => true)

/-- What the host reads at an aligned offset of the management space (R355, R357). -/
def mgmtRead (s : State) (x : Nat) : W64 :=
  let b := blockOf x
  if !blockReady s b then 0
  else
    match b with
    | .platform off => platformRead s off
    | .die d off => dieRead s d off
    | .governor off => governorRead s off
    | .dispatcher p off => dispatcherRead s p off
    | .chain q off => chainReadReg s q off
    | .core n off => coreRead s n off
    | .none => 0

/-! ## Writes with an effect of their own (R193, R286, R302, R303) -/

/-- The ring size of a queue. -/
def ringSize (p : Part) (q : Nat) : Nat := 2 ^ Nat.min 10 (bitsAt (lqReg p q 0x10) 0 4)

def setLq (s : State) (part q off : Nat) (v : W64) : State :=
  s.modPart part (fun p => { p with regs := p.regs.set (0x1000 + 0x40 * q + off) v })

def execLqtailWrite (part queue : Nat) (v : W64) (s : State) : Host.Outcome State Fault Refusal :=
  let p := s.part part
  let tail := bitsAt v 0 32
  let head := bitsAt (lqReg p queue 0x20) 0 32
  let used := (tail + 2 ^ 32 - head) % 2 ^ 32
  .next (if !dpReady s || 8 ≤ part || 64 ≤ queue || ringSize p queue < used then s else setLq s part queue 0x18 (.ofNat 64 tail))

/-- A write of en = 1 with quantum 0 leaves en at 0. A disabled queue's head gives up its reservation (R292). -/
def execLqctlWrite (part queue : Nat) (v : W64) (s : State) : Host.Outcome State Fault Refusal :=
  if !dpReady s || 8 ≤ part || 64 ≤ queue then .next s
  else
    let w := v &&& dispatcherMask 0x1000
    let w := if bitsAt w 8 24 = 0 then w &&& ~~~1#64 else w
    let s := setLq s part queue 0 w
    .next (if w.getLsbD 0 then s else disableQueue s part queue)

def execLqctxWrite (part queue : Nat) (v : W64) (s : State) : Host.Outcome State Fault Refusal :=
  .next (if !dpReady s || 8 ≤ part || 64 ≤ queue || lqEnabled (s.part part) queue then s
    else setLq s part queue 8 (v &&& dispatcherMask 0x1008))

/-- Whether a partition holds no live launch and has every queue disabled. -/
def partIdle (s : State) (part : Nat) : Bool :=
  !s.launches.any (fun l => l.2.part == part) && (List.range 64).all (fun q => !lqEnabled (s.part part) q)

/-- The hypervisor changes a partition's clusters; a cluster that leaves it is no longer failed (R345). -/
def execDpcfgWrite (part : Nat) (v : W64) (s : State) : Host.Outcome State Fault Refusal :=
  let m := v &&& dispatcherMask 0
  let taken := (List.range 8).any (fun p => p != part && (s.part p).regs.get 0 0 &&& m != 0)
  .next (if !dpReady s || 8 ≤ part || taken || !partIdle s part then s
    else s.modPart part (fun p => { p with regs := p.regs.set 0 m, failed := p.failed.filter m.getLsbD }))

/-- A base outside the die's own range leaves en at 0. -/
def execDtbaseWrite (die : Nat) (v : W64) (s : State) : Host.Outcome State Fault Refusal :=
  let w := v &&& dieMask 0
  let own := bitsAt v 35 17 == die
  .next (if !homeReady s die || 8 ≤ die then s
    else s.modDie die (fun d => { d with regs := d.regs.set 0 (if own then w else w &&& ~~~1#64) }))

/-! ## The write of a register -/

/-- A write of DPCMD: the action of its op (R298, R303). -/
def dpcmdWrite (s : State) (part : Nat) (v : W64) : Host.Outcome State Fault Refusal :=
  let core := bitsAt v 4 8
  let hslot := bitsAt v 12 6
  let handle := bitsAt v 32 32
  match bitsAt v 0 4 with
  | 1 => execDpcmdResume part core hslot s
  | 2 => execDpcmdKill part core hslot s
  | 3 => execDpcmdSwapOut part core hslot s
  | 4 => execDpcmdPreemptHold part handle s
  | 5 => execDpcmdPreemptRequeue part handle s
  | 6 => execDpcmdRelease part handle s
  | _ => .next s

/-- A write of a die register; a new period of LSCTL begins to count, and a new mode of CMCTL begins its log. -/
def dieWrite (s : State) (d off : Nat) (v : W64) : State :=
  let w := v &&& dieMask off
  let s' := s.modDie d (fun x => { x with regs := x.regs.set off w })
  if off = 0x4018 then
    let k := Nat.min 20 (Nat.max 10 (bitsAt w 0 5))
    s'.modDie d (fun x => { x with lastSample := s.gt / 2 ^ k * 2 ^ k })
  else if off = 0x4400 && bitsAt w 16 2 ≠ cmMode (s.die d) then
    s'.modDie d (fun x => { x with cmUsed := [], cmHeld := [], regs := (x.regs.set 0x4410 0).set 0x4418 0 })
  else s'

/-- A write of a dispatcher register other than those of a row of their own. -/
def dispatcherWrite (s : State) (p off : Nat) (v : W64) : Host.Outcome State Fault Refusal :=
  let q := (off - 0x1000) / 0x40
  if off = 0 then execDpcfgWrite p v s
  else if off = 0x20 then dpcmdWrite s p v
  else if 0x1000 ≤ off && off % 0x40 = 0 then execLqctlWrite p q v s
  else if 0x1000 ≤ off && off % 0x40 = 8 then execLqctxWrite p q v s
  else if 0x1000 ≤ off && off % 0x40 = 0x18 then execLqtailWrite p q v s
  else .next (s.modPart p (fun x => { x with regs := x.regs.set off (v &&& dispatcherMask off) }))

/-- Turning a port off is a link-down. -/
def chainWriteReg (s : State) (q off : Nat) (v : W64) : State :=
  let w := v &&& chainMask off
  if off = 0 then
    let s := if portUp s q && !w.getLsbD 0 then downPort s q else s
    s.setPort q { s.port q with cfg := w }
  else s.setPort q { s.port q with tab := w }

/-- A management write (R355): misaligned, or outside the platform block after a failed boot, it receives an error response; to no register, to a register that is not
written, or before its function is ready, it is ignored. -/
def execRegisterWrite (offset : Nat) (v : W64) (s : State) : Host.Outcome State Fault Refusal :=
  let b := blockOf offset
  if !linkReady s then .next s
  else if offset % 8 ≠ 0 || unserved s b then .next (answerHost s .hostError)
  else if !blockReady s b then .next s
  else
    match b with
    | .platform off =>
      if off = 0x18 then execLkcmdReport v s
      else if platformMask off = 0 then .next s
      else .next { s with plat := { s.plat with regs := s.plat.regs.set off (v &&& platformMask off) } }
    | .die d off =>
      if off = 0 then execDtbaseWrite d v s
      else .next (if dieMask off = 0 then s else dieWrite s d off v)
    | .governor off =>
      if off = 0 then execGvswWrite v s
      else .next (if governorMask off = 0 then s
        else { s with gov := { s.gov with regs := s.gov.regs.set off (v &&& governorMask off) } })
    | .dispatcher p off => if off ≠ 0x20 && dispatcherMask off = 0 then .next s else dispatcherWrite s p off v
    | .chain q off => .next (if chainMask off = 0 then s else chainWriteReg s q off v)
    | .core n off => .next (if coreMask off = 0 then s else s.modCore n (fun k => { k with regs := k.regs.set off (v &&& coreMask off) }))
    | .none => .next s

/-! ## Requests of the host (R355, R357, R359) -/

/-- A read of the host: of device memory through a window, or of a management register, aligned and of 8 bytes. -/
def execHostRead (x : HostAddr) (len : Nat) (s : State) : Host.Outcome State Fault Refusal :=
  if !linkReady s then .next s
  else
    match x with
    | .data x => .next (hostReadData x len s)
    | .management x => .next (if hostQueued s then hostWaits s (.hostRead (.management x) len) else answerHost s (if x % 8 = 0 && len = 8 && !unserved s (blockOf x) then .hostData (wordBytes 8 (mgmtRead s x).toNat) else .hostError))

/-- A write of the host: to device memory, or of 8 bytes to a management register. -/
def execHostWrite (x : HostAddr) (bytes : List Byte) (s : State) : Host.Outcome State Fault Refusal :=
  if !linkReady s then .next s
  else
    match x with
    | .data x => .next (hostWriteData x bytes s)
    | .management x =>
      if hostQueued s then .next (hostWaits s (.hostWrite (.management x) bytes))
      else if bytes.length = 8 then execRegisterWrite x (.ofNat 64 (bytesVal bytes)) s else .next (answerHost s .hostError)

/-- A host-class atomic through a window; the management space takes none. -/
def execHostAtomic (op : HostOp) (x : HostAddr) (wide : Bool) (operand compare : W64) (s : State) :
    Host.Outcome State Fault Refusal :=
  if !linkReady s then .next s
  else
    match x with
    | .data x => .next (hostAtomicData op x wide operand compare s)
    | .management x => .next (if hostQueued s then hostWaits s (.hostAtomic op (.management x) wide operand compare)
        else answerHost s .hostError)

/-! ## Requests that wait (R203, R228, R340) -/

/-- Whether a request that waits in the inbox can be served; `before` are those that have waited longer. -/
def inboxReady (s : State) (before : List Instr) (i : Instr) : Bool :=
  let s := { s with inbox := before }
  match i with
  | .hostRead (.data x) len => hostReadData x len s != hostWaits s i
  | .hostWrite (.data x) bytes => hostWriteData x bytes s != hostWaits s i
  | .hostAtomic op (.data x) wide operand compare => hostAtomicData op x wide operand compare s != hostWaits s i
  | .hostRead (.management _) _ | .hostWrite (.management _) _ | .hostAtomic _ (.management _) .. => !linkReady s || !hostQueued s
  | .chainRead m seq _ addr len => deliveryOf s m seq (dieOfPa addr) (linesPending s addr len) != .waits
  | .chainWrite m seq _ addr bytes => deliveryOf s m seq (dieOfPa addr) (linesLocked s addr bytes.length) != .waits
  | .chainAtomic m seq _ _ addr _ _ _ _ _ => deliveryOf s m seq (dieOfPa addr) (peerAtomicWaits s m seq addr) != .waits
  | .chainReduce m seq _ addr float elems => deliveryOf s m seq (dieOfPa addr) (reduceWaits s m seq addr float elems) != .waits
  | .chainReadResponse x _ _ | .chainAtomicResponse x _ _ => deliveryOf s x.peer x.seq (responseDie s x.id) false != .waits
  | _ => true

/-- Whether the request at a place of the inbox can be served. -/
def inboxReadyAt (s : State) (k : Nat) : Bool :=
  match s.inbox[k]? with
  | some i => inboxReady s (s.inbox.take k) i
  | none => false

/-- The line of a peer's deque operation with the opcodes given. -/
def peerDequeLine (ops : List Nat) (i : Instr) : Option Nat :=
  match i with
  | .chainAtomic _ _ _ o addr .. => if ops.contains o.code then some (addr / 256) else none
  | _ => none

/-- Whether a peer's DQPUSH or DQPOP that can be served waits for a line: a DQSTEAL of the line comes after it (R207). -/
def peerOwnerWaits (s : State) (pl : Nat) : Bool :=
  (List.range s.inbox.length).any (fun k => (s.inbox[k]?).bind (peerDequeLine [0x9A, 0x9B]) == some pl && inboxReadyAt s k)

/-- The first of the waiting requests that can be served, by its place; a DQSTEAL after the DQPUSH and DQPOP of its line. -/
def inboxNext (s : State) : Option Nat :=
  (List.range s.inbox.length).find? (fun k => inboxReadyAt s k && (match (s.inbox[k]?).bind (peerDequeLine [0x9C]) with
    | some pl => !peerOwnerWaits s pl
    | none => true))

/-- A request of the host or of a peer takes its place in the tick in which it comes (R203, R224). -/
def isRequest : Instr → Bool
  | .hostRead .. | .hostWrite .. | .hostAtomic .. | .chainRead .. | .chainWrite .. | .chainAtomic .. | .chainReduce ..
  | .chainReadResponse .. | .chainAtomicResponse .. => true
  | _ => false

end Sys2Proof.Machine
end

