-- ==== Sys2Proof/Machine/Loupe.lean ====
section
/-! DEFINITION. Loupe at the dies (R277, R337-R340, R343-R345): samples, replay by Cameo, errors, the scan self-test
and known-answer operations. -/

namespace Sys2Proof.Machine

/-! ## Samples (R338) -/

def lsctl (d : Die) : W64 := d.regs.get 0 0x4018
def sampleShift (d : Die) : Nat := Nat.min 20 (Nat.max 10 (bitsAt (lsctl d) 0 5))

/-- The 3,200 bytes of a sample. -/
def sampleBytes (s : State) (d tick n : Nat) : List Byte :=
  let header := [tick, n, d, 0, 0, 0, 0, 0]
  let core (c : Nat) : List Nat := (List.range 16).map (fun i => ((s.core c).regs.get 0 (0x500 + 8 * i)).toNat)
  let cores := ((List.range 24).map (fun i => core (24 * d + i))).flatten
  let die := (List.range 8).map (fun i => ((s.die d).regs.get 0 (0x4060 + 8 * i)).toNat)
  ((header ++ cores ++ die).map (wordBytes 8)).flatten

/-- At each GT multiple of 2^k the counters latch and one sample is written; a multiple that passed without a latch is
a dropped sample. -/
def execSampleLatch (die : Nat) (s : State) : Host.Outcome State Fault Refusal :=
  let d := s.die die
  let k := sampleShift d
  let n := s.gt / 2 ^ k
  let last := d.lastSample / 2 ^ k
  if 8 ≤ die || !(lsctl d).getLsbD 63 || n ≤ last then .next s
  else
    let ring := d.regs.get 0 0x4020
    let at_ := bitsAt ring 12 40 * 4096 + d.samples % 2 ^ bitsAt ring 0 4 * 4096
    let bytes := sampleBytes s die (n * 2 ^ k) d.samples
    let s := (linePieces (bytes.length + 1) at_ bytes).foldl (fun s q => engineWrite s q.1 q.2 { t := none }) s
    .next (s.modDie die (fun x => { x with samples := d.samples + 1, lastSample := n * 2 ^ k,
                                           regs := x.regs.set 0x4028 (x.regs.get 0 0x4028 + .ofNat 64 (n - last - 1)) }))

/-! ## Cameo (R340) -/

/-- Fragments parked on a queue port that the log holds back. -/
def heldPorts (s : State) (d : Nat) : List Nat :=
  let one (c h e : Nat) (f : Frag) : Bool :=
    let t := s.teamOf c h
    let g := s.group c h
    let held (q push : Nat) : Bool := cmHolds s d 5 t.ctx.asid ((queueIdent t q g.gid push).take 2) (queueIdent t q g.gid push)
    e < 8 && (match f.wait with
      | .pops need => need.any (fun p => p.2 ≤ (queueOf t p.1).length && held p.1 0)
      | .push q => (queueOf t q).length < 16 && held q 1
      | _ => false)
  ((List.range 24).map (fun i =>
    let c := 24 * d + i
    ((liveGroups s c).map (fun h => (((s.group c h).frags.filter (fun p => one c h p.1 p.2)).map (fun p =>
      4 * ((c * 64 + h) * 8 + p.1) + 1)))).flatten)).flatten

/-- The key of a request in the inbox that a die's log holds back (R340). -/
def heldRequest (s : State) (d : Nat) (i : Instr) : Option Nat :=
  let message (m seq at_ : Nat) (home : Bool) : Option Nat :=
    if at_ = d && seq = (s.conn m).recvNext && (chainHeld s m seq d || home) then some (4 * (m * 2 ^ 64 + seq) + 2) else none
  match i with
  | .chainRead m seq _ a _ | .chainWrite m seq _ a _ => message m seq (dieOfPa a) false
  | .chainAtomic m seq _ _ a _ _ _ _ _ => message m seq (dieOfPa a) (outsideHeld s (a / 256) (m + 1) (seq * 2 ^ 16))
  | .chainReduce m seq _ a fl es => message m seq (dieOfPa a) (reduceWaits s m seq a fl es && !linesLocked s a (4 * es.length))
  | .chainReadResponse x _ _ | .chainAtomicResponse x _ _ => message x.peer x.seq (responseDie s x.id) false
  | .hostAtomic op (.data x) wide _ _ => match hostRoute s x (if wide then 8 else 4) with
      | some (_, pa) => if op ≠ .other && dieOfPa pa = d && outsideHeld s (pa / 256) 0 0 then some (4 * 2 ^ 96 + 2) else none
      | none => none
  | _ => none

/-- The operations that a die's log holds back, by a key of the model. -/
def heldKeys (s : State) (d : Nat) : List Nat :=
  if cmMode (s.die d) ≠ 2 || cmDiverged (s.die d) then []
  else
    let atomics := s.posted.filter (fun p => (p.kind == .atomic || p.kind == .deque) && (match p.stage, p.accs with
      | .home pa, a :: _ => dieOfPa pa == d && cmHolds s d 4 a.asid [pa / 256] (homeIdent s (pa / 256) a)
      | _, _ => false))
    let adds := s.copies.filter (fun x => addHeldAt s x == some d)
    let messages := s.inbox.filterMap (heldRequest s d)
    let runs := if d = 0 then s.runs.filter (fun x => !x.arrived && ringRecordNext s x.ctx.asid) else []
    let notices := (List.range 8).filter (fun p => noticeHeldAt s p == some d)
    atomics.map (fun p => 4 * p.id) ++ adds.map (fun x => 4 * x.cmd.id) ++ heldPorts s d ++ messages
      ++ runs.map (fun x => 4 * x.id + 3) ++ notices.map (fun p => 4 * (2 ^ 97 + p) + 1)

/-- How long the held operations of a die wait: after 10 ms the replay has diverged. -/
def execCameoHoldTimeout (die : Nat) (s : State) : Host.Outcome State Fault Refusal :=
  let old := (s.die die).cmHeld
  let now := (heldKeys s die).foldl (fun (m : SMap Nat) k => m.set k (old.get s.gt k)) []
  let s := if old == now then s else s.modDie die (fun x => { x with cmHeld := now })
  .next (if now.any (fun p => p.2 + 10000000 ≤ s.gt) then
      (cmDiverge s die 0).modDie die (fun x => { x with cmHeld := [] })
    else s)

/-- Enter a logged launch record with its handle. -/
def replayRecord (s : State) (q handle : Nat) (bytes : List Byte) : State :=
  let part := ((List.range 8).find? (fun p => lqEnabled (s.part p) q)).getD 0
  let (ctx, s) := readContext s part (queueCtx (s.part part) q)
  let (st, l, s) := judge s part handle ctx ctx.pkr (wordsOf 8 bytes) (some q)
  let s := s.modPart part (fun p => { p with handle := (handle + 1) % 2 ^ 32 })
  if st = 0 && handleFree s part handle then enterQueue s { l with deps := liveDeps s l } else s

/-- Cameo performs the next logged host write, or enters the next logged ring record; at the end of the log it stops
enforcing. -/
def execCameoReplay (die : Nat) (s : State) : Host.Outcome State Fault Refusal :=
  let d := s.die die
  if 8 ≤ die || cmMode d ≠ 2 || cmDiverged d then .next s
  else
    match cmHead s die with
    | none => .next (cmDiverge s die 0)
    | some (n, 2, cnt, id) =>
      let bytes := (cmDataOf s die n cnt).take (id.getD 1 0)
      .next (hostPut (cmConsume s die n cnt) (id.getD 0 0) bytes)
    | some (n, 1, cnt, id) =>
      if id.getD 2 0 ≠ 0 then .next s
      else .next (replayRecord (cmConsume s die n cnt) (id.getD 0 0) (id.getD 1 0) ((cmDataOf s die n cnt).take 64))
    | some _ => .next s

/-! ## Errors (R343, R344) -/

/-- Poison the copies of a granule in a cache: the ASID, the line and the granule within it. -/
def poisonLines (ls : List CacheLine) (asid line gran : Nat) : List CacheLine :=
  ls.map (fun l => if l.asid == asid && l.line == line then { l with poison := l.poison ||| (1#8 <<< gran) } else l)

/-- Poison the data where it lies: `at_` says which register file, team, line or tile, and `addr` the place in it. -/
def poisonAt (s : State) (unit_ who addr : Nat) (at_ : List Nat) : State :=
  match unit_, at_ with
  | 0, [0, team, sid] => s.setVreg who team sid addr { s.vreg who team sid addr with poison := true }
  | 0, [1, hslot] => s.setKreg who hslot addr { s.kreg who hslot addr with poison := true }
  | 1, [team] => s.modTeam who team (fun t =>
      if t.lpoison.contains (addr / 16) then t else { t with lpoison := addr / 16 :: t.lpoison })
  | 2, [asid, line] => s.modCore who (fun k => { k with l1 := poisonLines k.l1 asid line (addr / 32 % 8) })
  | 3, [asid, line] => s.modDie (who / 24) (fun x => { x with l2 := poisonLines x.l2 asid line (addr / 32 % 8) })
  | 4, _ | 5, _ => if s.poison.contains (addr / 32) then s else { s with poison := addr / 32 :: s.poison }
  | 6, [bank, z] =>
    let t := s.tile who bank z
    s.setTile who bank z (if t.poison.contains addr then t else { t with poison := addr :: t.poison })
  | _, _ => s

/-- An ECC error: corrected where it is found, counted and logged; or logged, its data poisoned. -/
def execErrorDetected (die unit_ who addr : Nat) (at_ : List Nat) (corrected : Bool) (s : State) :
    Host.Outcome State Fault Refusal :=
  if 8 ≤ die || 7 ≤ unit_ then .next s
  else if corrected then .next (logError (bumpDie s die 7 1) die unit_ 1 who addr)
  else .next (poisonAt (logError s die unit_ 2 who addr) unit_ who addr at_)

/-! ## Known answers and the scan (R277, R345) -/

/-- A known-answer operation is to run in the array of a core, in the next cycle in which it is idle (R277). -/
def execKnownAnswerInjection (core : Nat) (mismatch : Bool) (s : State) : Host.Outcome State Fault Refusal :=
  let k := s.core core
  if 192 ≤ core || !(k.regs.get 0 0x10).getLsbD 0 || k.kat.isSome || !booted s then .next s
  else .next (s.setCore core { k with kat := some { mismatch := mismatch } })

/-- Leave a cluster's cores cleared: instruction buffers, group slots and banks. -/
def clearCluster (s : State) (cl : Nat) : State :=
  (List.range 8).foldl (fun s i => s.modCore (8 * cl + i) (fun k =>
    { k with groups := [], atlb := [], l1 := [], ibuf := [], banks := [] })) s

/-- LSTEST after a run: sticky fail, saturating runs, GT. -/
def lstest (old : W64) (fail : Bool) (gt : Nat) : W64 :=
  .ofNat 64 ((if fail || old.getLsbD 63 then 2 ^ 63 else 0) + Nat.min 32767 (bitsAt old 48 15 + 1) * 2 ^ 48 + gt % 2 ^ 48)

/-- The scan of a drained cluster that no team occupies any more. -/
def execScanSelfTest (part : Nat) (fail : Bool) (s : State) : Host.Outcome State Fault Refusal :=
  let p := s.part part
  match p.draining.find? (fun d => clusterEmpty s d.1) with
  | none => .next s
  | some (cl, _) =>
    let s := clearCluster (flushCluster s cl) cl
    let d := cl / 3
    let a := 0x4040 + 8 * (cl % 3)
    let s := s.modDie d (fun x => { x with regs := x.regs.set a (lstest (x.regs.get 0 a) fail s.gt) })
    let s := s.modPart part (fun x => { x with
      draining := x.draining.filter (fun q => q.1 != cl),
      failed := if fail && !x.failed.contains cl then cl :: x.failed else x.failed })
    .next (if fail then
        queueNotice (logError s d 8 4 cl 0) part { kind := 3, cause := 0, launch := 0x100 + cl }
      else s)

end Sys2Proof.Machine
end

