-- ==== Sys2Proof/Machine/Tree.lean ====
section
/-! DEFINITION. TREE (R117-R122): each active strand descends on its own, with the writes of its path held back
until its leaf. -/

namespace Sys2Proof.Machine

/-- A strand's path so far: pending register and predicate writes, flags, the queues popped, carats, steps, and what it
reads of earlier passes and the predicates it has written (R51, R82). -/
structure Path where
  regs : SMap W32 := []
  order : List Nat := []
  preds : BitVec 15 := 0
  flags : BitVec 5 := 0
  pops : List Nat := []
  cost : Nat := 0
  steps : Nat := 0
  uses : List Nat := []
  kuses : List Nat := []
  qs : List Nat := []
  deriving DecidableEq, Repr

/-- A step of a path reads predicates: of those it has not written itself, the path uses what earlier passes wrote. -/
def Path.usePreds (p : Path) (s : State) (r : FragRef) (slot : Nat) (qs : List Nat) : Path :=
  { p with uses := (qs.filter (fun q => !p.qs.contains q)).map (qKey s r slot) ++ p.uses }

/-- One v register on a path: the pending write, else the register under R55 and R120. -/
def pathV (s : State) (r : FragRef) (slot : Nat) (p : Path) (trap : Bool) (n : Nat) : Except Stop (W32 × Path) :=
  match p.regs.find? n with
  | some v => .ok (v, p)
  | none =>
    let g := s.group r.core r.hslot
    let pos := (s.frag r).wbase + n
    let x := s.vreg r.core g.team (sidOf g slot) pos
    if !x.full then
      .error (if trap then .fault 3 (regAddr false n) else .park (.regs (sidOf g slot) [pos] []))
    else if x.poison then .error .kill
    else .ok (x.val, { p with uses := vKey s r slot n :: p.uses })

/-- A queue port on a path: the entry after those the path has popped (R216). -/
def pathPort (s : State) (r : FragRef) (p : Path) (q : Nat) : Except Stop (W64 × Path) :=
  let g := s.group r.core r.hslot
  let t := s.team r.core g.team
  let n := p.pops.count q
  match (readyOf t q (laneNow s r + p.steps))[n]? with
  | some e => if popHeld s r q then .error (.park (.pops [(q, n + 1)])) else .ok (e.val, { p with pops := p.pops ++ [q] })
  | none => .error (.park (.pops [(q, n + 1)]))

/-- One source on a path. -/
def pathSrc (s : State) (r : FragRef) (slot : Nat) (p : Path) (x : SrcReg) : Except Stop (W64 × Path) :=
  if x.isK then
    if 56 ≤ x.num then pathPort s r p (x.num - 56)
    else
      let k := s.kreg r.core r.hslot x.num
      if !k.full then
        let sid := sidOf (s.group r.core r.hslot) slot
        .error (if x.trap then .fault 3 (regAddr true x.num) else .park (.regs sid [] [x.num]))
      else if k.poison then .error .kill
      else .ok (kSeen (s.group r.core r.hslot) (s.frag r).m x.num (laneNow s r + p.steps), { p with kuses := x.num :: p.kuses })
  else
    match pathV s r slot p x.trap x.num with
    | .error e => .error e
    | .ok (lo, p) =>
      if !x.pair then .ok (lo.zeroExtend 64, p)
      else
        match pathV s r slot p x.trap (x.num + 1) with
        | .error e => .error e
        | .ok (hi, p) => .ok (hi ++ lo, p)

def pathOpt (s : State) (r : FragRef) (slot : Nat) (p : Path) : Option SrcReg → Except Stop (W64 × Path)
  | none => .ok (0, p)
  | some x => pathSrc s r slot p x

/-- q0-q14 of a path with q15 reading true. -/
def Path.preds16 (p : Path) : BitVec 16 := (1#1 ++ p.preds : BitVec 16)

/-- The condition code of a comparison, as the comparisons of R96 number them. -/
def condFn (c : Cond) : Nat :=
  match c with
  | .eq => 0 | .ne => 1 | .lt => 2 | .le => 3 | .gt => 4 | .ge => 5 | _ => 0

/-- A test (R119). -/
def pathTest (s : State) (r : FragRef) (slot : Nat) (p : Path) (t : TestNode) : Except Stop (Bool × Path) :=
  let w64 := t.ty.is64
  let sa : SrcReg := { isK := t.ka, num := t.a.toNat, pair := w64 && !t.ka, trap := t.ea }
  match t.kind with
  | .pred => .ok (p.preds16.getLsbD (t.a.toNat % 16) == (t.cond == .pt),
      p.usePreds s r slot [t.a.toNat % 16])
  | .regImm =>
    match pathSrc s r slot p sa with
    | .error e => .error e
    | .ok (a, p) =>
      let imm : W64 := if t.ty == .i64 then t.imm.signExtend 64 else t.imm.zeroExtend 64
      .ok (typeCond t.ty (condFn t.cond) a imm, p)
  | .regReg =>
    match pathSrc s r slot p sa with
    | .error e => .error e
    | .ok (a, p) =>
      match pathSrc s r slot p { isK := t.kb, num := t.b.toNat, pair := w64 && !t.kb, trap := t.eb } with
      | .error e => .error e
      | .ok (b, p) => .ok (typeCond t.ty (condFn t.cond) a b, p)
  | .bit =>
    match pathSrc s r slot p sa with
    | .error e => .error e
    | .ok (a, p) =>
      let bit (n : Nat) : Bool := (decide (n < t.ty.width) && a.getLsbD n) == (t.cond == .bs)
      if t.bimm then .ok (bit t.imm.toNat, p)
      else
        match pathSrc s r slot p { isK := t.kb, num := t.b.toNat, trap := t.eb } with
        | .error e => .error e
        | .ok (b, p) => .ok (bit (b.toNat % 2 ^ 32), p)

/-- Pending writes of consecutive registers. -/
def Path.writeRegs (p : Path) (n : Nat) : List W32 → Path
  | [] => p
  | v :: vs => Path.writeRegs { p with regs := p.regs.set n v, order := p.order ++ [n] } (n + 1) vs

/-- An arc operation (R118, R42). -/
def pathOp (s : State) (r : FragRef) (slot : Nat) (p : Path) (o : ArcOp) : Except Stop Path :=
  match pathOpt s r slot p (srcA o.op o.f) with
  | .error e => .error e
  | .ok (a, p) =>
    match pathOpt s r slot p (srcB o.op o.f) with
    | .error e => .error e
    | .ok (b, p) =>
      match pathOpt s r slot p (srcC o.op o.f) with
      | .error e => .error e
      | .ok (c, p) =>
        let out := aluVal o.op o.f o.table { a := a, b := b, c := c, q := p.preds16 }
        let p := p.usePreds s r slot (predSources o.op o.f)
        let preds := out.p.foldl (fun m x => setPred m x.1 x.2) p.preds
        let p := { p with preds := preds, flags := p.flags ||| out.flags, cost := p.cost + weightOf o.op.code,
                                   steps := p.steps + 1, qs := p.qs ++ out.p.map Prod.fst }
        .ok (match out.d with
          | some v => if writesReg o.op o.f then p.writeRegs o.f.d.toNat (vWords (aluRow o.op o.f).pd v) else p
          | none => p)

def pathOps (s : State) (r : FragRef) (slot : Nat) : List ArcOp → Path → Except Stop Path
  | [], p => .ok p
  | o :: rest, p =>
    match pathOp s r slot p o with
    | .error e => .error e
    | .ok p => pathOps s r slot rest p

/-- Arcs that end at leaves, in the order of a depth-first walk (R40). -/
def leafArcs (t : Tree) : Nat → Nat → List Nat
  | 0, _ => []
  | n + 1, i =>
    let arc (j : Nat) : List Nat := if j + 1 ≤ 6 && t.has (j + 1) then leafArcs t n (j + 1) else [j]
    arc (2 * i) ++ arc (2 * i + 1)

/-- The operations of arc j (R42). -/
def arcOps (t : Tree) (j : Nat) : List ArcOp :=
  (t.ops.drop (((List.range j).map t.count).sum)).take (t.count j)

/-- The test of a present slot. -/
def testOf (t : Tree) (i : Nat) : Option TestNode := t.tests[((List.range i).filter t.has).length]?

/-- The registers that a test, and that operations in turn, read from registers, given those a path has written. -/
def testReads (t : TestNode) : List SrcReg :=
  let w64 := t.ty.is64
  let a : SrcReg := { isK := t.ka, num := t.a.toNat, pair := w64 && !t.ka }
  match t.kind with
  | .pred => []
  | .regImm => [a]
  | .regReg => [a, { isK := t.kb, num := t.b.toNat, pair := w64 && !t.kb }]
  | .bit => if t.bimm then [a] else [a, { isK := t.kb, num := t.b.toNat }]

def singles (xs : List SrcReg) : List SrcReg := (xs.map (fun x => x.regs.map (fun n => { isK := x.isK, num := n : SrcReg }))).flatten

def opReads : List ArcOp → List Nat → List SrcReg × List Nat
  | [], written => ([], written)
  | o :: rest, written =>
    let here := (singles (aluSources o.op o.f)).filter (fun x => x.isK || !written.contains x.num)
    let out := if writesReg o.op o.f then (List.range (if (aluRow o.op o.f).pd then 2 else 1)).map (o.f.d.toNat + ·) else []
    let (more, w) := opReads rest (written ++ out)
    (here ++ more, w)

/-- A strand that parks waits for every register it is sure to read: those of the step it stands at, of the rest of its arc,
and of the test after it (R55). -/
def widen (s : State) (r : FragRef) (slot : Nat) (xs : List SrcReg) (x : Stop) : Stop :=
  match x with
  | .park (.regs sid vs ks) =>
    match parkOn s r slot xs with
    | .regs _ vs' ks' => .park (.regs sid (vs ++ vs'.filter (fun n => !vs.contains n)) (ks ++ ks'.filter (fun n => !ks.contains n)))
    | _ => x
  | _ => x

def arcReads (t : Tree) (j : Nat) (p : Path) (ops : List ArcOp) : List SrcReg :=
  let (xs, written) := opReads ops p.regs.keys
  let next := if j + 1 ≤ 6 && t.has (j + 1) then
      (match testOf t (j + 1) with | some n => singles (testReads n) | none => []) else []
  xs ++ next.filter (fun x => x.isK || !written.contains x.num)

/-- Descend from slot i: the leaf number and the path (R117). -/
def descend (s : State) (r : FragRef) (slot : Nat) (t : Tree) : Nat → Nat → Path → Except Stop (Nat × Path)
  | 0, _, p => .ok (0, p)
  | n + 1, i, p =>
    match testOf t i with
    | none => .ok (0, p)
    | some node =>
      match pathTest s r slot p node with
      | .error e =>
        .error (widen s r slot ((singles (testReads node)).filter (fun x => x.isK || (p.regs.find? x.num).isNone)) e)
      | .ok (yes, p) =>
        let j := 2 * i + (if yes then 0 else 1)
        match pathOps s r slot (arcOps t j) { p with cost := p.cost + weightOf 0x1D, steps := p.steps + 1 } with
        | .error e => .error (widen s r slot (arcReads t j p (arcOps t j)) e)
        | .ok p =>
          if j + 1 ≤ 6 && t.has (j + 1) then descend s r slot t n (j + 1) p
          else .ok ((leafArcs t 3 0).findIdx (· == j), p)

/-- The successor a leaf names (R121); the target of a branch is a 64-bit sum (log entry 55). -/
def leafSucc (f : Frag) (fall : W64) (l : Leaf) : Succ :=
  match l.kind with
  | .next => .go fall f.wbase
  | .branch => .go (f.pc + l.offset.signExtend 64 * 8) f.wbase
  | .exit => .exit
  | .trap => .trap

/-- Write the pending writes of a path. -/
def commitPath (s : State) (r : FragRef) (slot : Nat) (p : Path) : State :=
  let g := s.group r.core r.hslot
  -- the strand's results and charges come with its last cycle (R50, R304)
  let s := tickLane s r (p.steps - 1)
  let s := p.pops.foldl (fun s q => (popQueue s r slot q).2) s
  let s := p.regs.foldl (fun s x => putVs (!p.pops.isEmpty) 4 s r slot x.1 [x.2]) s
  let s := s.modTeam r.core g.team (fun k => { k with
    strands := k.strands.update {} (sidOf g slot) (fun (x : Strand) => { x with preds := p.preds }) })
  let s := p.qs.foldl (fun s q => produce s r (qKey s r slot q) 4) s
  tickLane (chargeAt (orFlags s r p.flags 4) r.core r.hslot p.cost (laneNow s r)) r 1

/-- One strand of a tree: its path, the checks of its commit, and its successor (R117, R120). -/
def treeBody (i : Instr) (t : Tree) (r : FragRef) (s : State) (slot : Nat) : StrandRes :=
  let start : Path := { preds := (strandAt s r slot).preds }
  let walk (s : State) : Except Stop (Nat × Path) :=
    if t.has 0 then descend s r slot t 3 0 start else .ok (0, { start with cost := 1, steps := 1 })
  -- the strand enters the lane once what its path reads can be read (R51)
  let s := match walk s with | .ok (_, p) => p.kuses.foldl (fun s n => awaitK s r n) (awaitRegs s r p.uses) | .error _ => s
  match walk s with
  | .error e => .stop s e
  | .ok (leaf, p) =>
    match checkVDest s r slot p.order with
    | some x => .stop s x
    | none =>
      let s := if p.pops.isEmpty then s else switchRegion s r i
      let s := commitPath s r slot p
      let f := s.frag r
      .ok (setSucc s r slot (leafSucc f (nextPc f i) (t.leaves.getD leaf { kind := .next, offset := 0 })))

def execTree (t : Tree) (s : State) : Host.Outcome State Fault Refusal :=
  let i : Instr := .tree t
  .next (strandPass i 15#4 false 0 (treeBody i t) (splitEnd i) s)

end Sys2Proof.Machine
end

