-- ==== Sys2Proof/Machine/Dispatch.lean ====
section
/-! DEFINITION. The dispatch of the steps: one arm per constructor of `Instr`, each a direct call of its meaning. -/

namespace Sys2Proof.Machine

/-- What each step does. -/
def exec (i : Instr) (s : State) : Host.Outcome State Fault Refusal :=
  match i with
  | .nop f => Sys2Proof.Machine.execNop f s
  | .mov f => Sys2Proof.Machine.execMov f s
  | .add f => Sys2Proof.Machine.execAdd f s
  | .sub f => Sys2Proof.Machine.execSub f s
  | .mul f => Sys2Proof.Machine.execMul f s
  | .mulh f => Sys2Proof.Machine.execMulh f s
  | .mad f => Sys2Proof.Machine.execMad f s
  | .addc f => Sys2Proof.Machine.execAddc f s
  | .subb f => Sys2Proof.Machine.execSubb f s
  | .min f => Sys2Proof.Machine.execMin f s
  | .max f => Sys2Proof.Machine.execMax f s
  | .abs f => Sys2Proof.Machine.execAbs f s
  | .neg f => Sys2Proof.Machine.execNeg f s
  | .and f => Sys2Proof.Machine.execAnd f s
  | .or f => Sys2Proof.Machine.execOr f s
  | .xor f => Sys2Proof.Machine.execXor f s
  | .andn f => Sys2Proof.Machine.execAndn f s
  | .shl f => Sys2Proof.Machine.execShl f s
  | .shr f => Sys2Proof.Machine.execShr f s
  | .sar f => Sys2Proof.Machine.execSar f s
  | .rot f => Sys2Proof.Machine.execRot f s
  | .bfx f => Sys2Proof.Machine.execBfx f s
  | .bfi f => Sys2Proof.Machine.execBfi f s
  | .popc f => Sys2Proof.Machine.execPopc f s
  | .clz f => Sys2Proof.Machine.execClz f s
  | .ctz f => Sys2Proof.Machine.execCtz f s
  | .fnsb f => Sys2Proof.Machine.execFnsb f s
  | .brev f => Sys2Proof.Machine.execBrev f s
  | .sel f => Sys2Proof.Machine.execSel f s
  | .cmp f => Sys2Proof.Machine.execCmp f s
  | .plog f => Sys2Proof.Machine.execPlog f s
  | .pmov f => Sys2Proof.Machine.execPmov f s
  | .fadd f => Sys2Proof.Machine.execFadd f s
  | .fsub f => Sys2Proof.Machine.execFsub f s
  | .fmul f => Sys2Proof.Machine.execFmul f s
  | .ffma f => Sys2Proof.Machine.execFfma f s
  | .fmin f => Sys2Proof.Machine.execFmin f s
  | .fmax f => Sys2Proof.Machine.execFmax f s
  | .fcmp f => Sys2Proof.Machine.execFcmp f s
  | .fcls f => Sys2Proof.Machine.execFcls f s
  | .rcp f => Sys2Proof.Machine.execRcp f s
  | .rsq f => Sys2Proof.Machine.execRsq f s
  | .sqrt f => Sys2Proof.Machine.execSqrt f s
  | .ex2 f => Sys2Proof.Machine.execEx2 f s
  | .lg2 f => Sys2Proof.Machine.execLg2 f s
  | .sinp f => Sys2Proof.Machine.execSinp f s
  | .cosp f => Sys2Proof.Machine.execCosp f s
  | .tanh f => Sys2Proof.Machine.execTanh f s
  | .cvt f => Sys2Proof.Machine.execCvt f s
  | .cvtef f => Sys2Proof.Machine.execCvtef f s
  | .qblk f => Sys2Proof.Machine.execQblk f s
  | .pack f => Sys2Proof.Machine.execPack f s
  | .unpk f => Sys2Proof.Machine.execUnpk f s
  | .dot4 f => Sys2Proof.Machine.execDot4 f s
  | .fdot2 f => Sys2Proof.Machine.execFdot2 f s
  | .blut f table => Sys2Proof.Machine.execBlut f table s
  | .mfs f => Sys2Proof.Machine.execMfs f s
  | .mts f => Sys2Proof.Machine.execMts f s
  | .tree t => Sys2Proof.Machine.execTree t s
  | .br f => Sys2Proof.Machine.execBr f s
  | .bru f => Sys2Proof.Machine.execBru f s
  | .jmpi f => Sys2Proof.Machine.execJmpi f s
  | .call f => Sys2Proof.Machine.execCall f s
  | .calli f => Sys2Proof.Machine.execCalli f s
  | .ret f => Sys2Proof.Machine.execRet f s
  | .rjn f => Sys2Proof.Machine.execRjn f s
  | .rjnRelease core hslot => Sys2Proof.Machine.execRjnRelease core hslot s
  | .regroup f => Sys2Proof.Machine.execRegroup f s
  | .regroupRelease core team role => Sys2Proof.Machine.execRegroupRelease core team role s
  | .exit f => Sys2Proof.Machine.execExit f s
  | .region klive vlive => Sys2Proof.Machine.execRegion klive vlive s
  | .trap f => Sys2Proof.Machine.execTrap f s
  | .iret f => Sys2Proof.Machine.execIret f s
  | .bkpt f => Sys2Proof.Machine.execBkpt f s
  | .sigchk f => Sys2Proof.Machine.execSigchk f s
  | .sigrst f => Sys2Proof.Machine.execSigrst f s
  | .xchg f => Sys2Proof.Machine.execXchg f s
  | .xshf f => Sys2Proof.Machine.execXshf f s
  | .scan f => Sys2Proof.Machine.execScan f s
  | .red f => Sys2Proof.Machine.execRed f s
  | .vote f => Sys2Proof.Machine.execVote f s
  | .bcst f => Sys2Proof.Machine.execBcst f s
  | .rbal f => Sys2Proof.Machine.execRbal f s
  | .shfx f => Sys2Proof.Machine.execShfx f s
  | .stepRel f => Sys2Proof.Machine.execStepRel f s
  | .stepAbs f => Sys2Proof.Machine.execStepAbs f s
  | .stepEnd f => Sys2Proof.Machine.execStepEnd f s
  | .launch f => Sys2Proof.Machine.execLaunch f s
  | .trc f => Sys2Proof.Machine.execTrc f s
  | .lclk f => Sys2Proof.Machine.execLclk f s
  | .lclkMrg f => Sys2Proof.Machine.execLclkMrg f s
  | .haltbTeam f => Sys2Proof.Machine.execHaltbTeam f s
  | .haltbTrel f => Sys2Proof.Machine.execHaltbTrel f s
  | .haltbCtx f => Sys2Proof.Machine.execHaltbCtx f s
  | .haltbCrel f => Sys2Proof.Machine.execHaltbCrel f s
  | .inspKreg f => Sys2Proof.Machine.execInspKreg f s
  | .inspVreg f => Sys2Proof.Machine.execInspVreg f s
  | .inspGrp f => Sys2Proof.Machine.execInspGrp f s
  | .inspFrag f => Sys2Proof.Machine.execInspFrag f s
  | .inspLmem f => Sys2Proof.Machine.execInspLmem f s
  | .inspLfe f => Sys2Proof.Machine.execInspLfe f s
  | .inspBar f => Sys2Proof.Machine.execInspBar f s
  | .inspQueue f => Sys2Proof.Machine.execInspQueue f s
  | .cmntInst f => Sys2Proof.Machine.execCmntInst f s
  | .cmntIpkg f => Sys2Proof.Machine.execCmntIpkg f s
  | .cmntWb f => Sys2Proof.Machine.execCmntWb f s
  | .atlbiPage f => Sys2Proof.Machine.execAtlbiPage f s
  | .atlbiAsid f => Sys2Proof.Machine.execAtlbiAsid f s
  | .atlbiAll f => Sys2Proof.Machine.execAtlbiAll f s
  | .ld f => Sys2Proof.Machine.execLd f s
  | .st f => Sys2Proof.Machine.execSt f s
  | .ldline f => Sys2Proof.Machine.execLdline f s
  | .stline f => Sys2Proof.Machine.execStline f s
  | .ldf f => Sys2Proof.Machine.execLdf f s
  | .stf f => Sys2Proof.Machine.execStf f s
  | .pref f => Sys2Proof.Machine.execPref f s
  | .tagst f => Sys2Proof.Machine.execTagst f s
  | .tagld f => Sys2Proof.Machine.execTagld f s
  | .aadd f => Sys2Proof.Machine.execAadd f s
  | .amin f => Sys2Proof.Machine.execAmin f s
  | .amax f => Sys2Proof.Machine.execAmax f s
  | .aand f => Sys2Proof.Machine.execAand f s
  | .aor f => Sys2Proof.Machine.execAor f s
  | .axor f => Sys2Proof.Machine.execAxor f s
  | .aswp f => Sys2Proof.Machine.execAswp f s
  | .acas f => Sys2Proof.Machine.execAcas f s
  | .afadd f => Sys2Proof.Machine.execAfadd f s
  | .ainc f => Sys2Proof.Machine.execAinc f s
  | .dqpush f => Sys2Proof.Machine.execDqpush f s
  | .dqpop f => Sys2Proof.Machine.execDqpop f s
  | .dqsteal f => Sys2Proof.Machine.execDqsteal f s
  | .fence f => Sys2Proof.Machine.execFence f s
  | .waitc f n => Sys2Proof.Machine.execWaitc f n s
  | .bar f => Sys2Proof.Machine.execBar f s
  | .bara f => Sys2Proof.Machine.execBara f s
  | .barw f => Sys2Proof.Machine.execBarw f s
  | .clinit f => Sys2Proof.Machine.execClinit f s
  | .clarr f => Sys2Proof.Machine.execClarr f s
  | .clwait f => Sys2Proof.Machine.execClwait f s
  | .cltry f => Sys2Proof.Machine.execCltry f s
  | .qtry f => Sys2Proof.Machine.execQtry f s
  | .cpy f => Sys2Proof.Machine.execCpy f s
  | .cpyp f => Sys2Proof.Machine.execCpyp f s
  | .cpyg f => Sys2Proof.Machine.execCpyg f s
  | .cpys f => Sys2Proof.Machine.execCpys f s
  | .cpyr f => Sys2Proof.Machine.execCpyr f s
  | .mma f => Sys2Proof.Machine.execMma f s
  | .mmas f => Sys2Proof.Machine.execMmas f s
  | .msca f => Sys2Proof.Machine.execMsca f s
  | .acz f => Sys2Proof.Machine.execAcz f s
  | .acrd f => Sys2Proof.Machine.execAcrd f s
  | .acwr f => Sys2Proof.Machine.execAcwr f s
  | .registerFill id => Sys2Proof.Machine.execRegisterFill id s
  | .issueCycle core => Sys2Proof.Machine.execIssueCycle core s
  | .urgentPromotion core hslot entry => Sys2Proof.Machine.execUrgentPromotion core hslot entry s
  | .spillRotation core hslot => Sys2Proof.Machine.execSpillRotation core hslot s
  | .handlerEntry core hslot => Sys2Proof.Machine.execHandlerEntry core hslot s
  | .homeFetch id => Sys2Proof.Machine.execHomeFetch id s
  | .postedArrival id => Sys2Proof.Machine.execPostedArrival id s
  | .storeVisible line => Sys2Proof.Machine.execStoreVisible line s
  | .atomicArrival id => Sys2Proof.Machine.execAtomicArrival id s
  | .dequeAtHome id => Sys2Proof.Machine.execDequeAtHome id s
  | .leaseExpiry level unit asid line => Sys2Proof.Machine.execLeaseExpiry level unit asid line s
  | .privateSectorArrival id => Sys2Proof.Machine.execPrivateSectorArrival id s
  | .mscWriteback line => Sys2Proof.Machine.execMscWriteback line s
  | .atlbFill id => Sys2Proof.Machine.execAtlbFill id s
  | .translationWalk id => Sys2Proof.Machine.execTranslationWalk id s
  | .peerLinkDown module => Sys2Proof.Machine.execPeerLinkDown module s
  | .copyEngineStart die => Sys2Proof.Machine.execCopyEngineStart die s
  | .copySourceArrival id => Sys2Proof.Machine.execCopySourceArrival id s
  | .copyBeatDelivery id => Sys2Proof.Machine.execCopyBeatDelivery id s
  | .claspRemoteDecrement id => Sys2Proof.Machine.execClaspRemoteDecrement id s
  | .copyComplete id => Sys2Proof.Machine.execCopyComplete id s
  | .arrayFillStart core bank => Sys2Proof.Machine.execArrayFillStart core bank s
  | .matrixCommandComplete core => Sys2Proof.Machine.execMatrixCommandComplete core s
  | .portCommandStart core bank => Sys2Proof.Machine.execPortCommandStart core bank s
  | .matrixSlotBoundary => Sys2Proof.Machine.execMatrixSlotBoundary s
  | .knownAnswerInjection core mismatch => Sys2Proof.Machine.execKnownAnswerInjection core mismatch s
  | .placementDecision part => Sys2Proof.Machine.execPlacementDecision part s
  | .teamStart core team => Sys2Proof.Machine.execTeamStart core team s
  | .ringEntryAccept part queue => Sys2Proof.Machine.execRingEntryAccept part queue s
  | .launchRunArrival id => Sys2Proof.Machine.execLaunchRunArrival id s
  | .childQueueEntry id => Sys2Proof.Machine.execChildQueueEntry id s
  | .reservationTake part queue => Sys2Proof.Machine.execReservationTake part queue s
  | .placeStarved part queue => Sys2Proof.Machine.execPlaceStarved part queue s
  | .teamRetire core team => Sys2Proof.Machine.execTeamRetire core team s
  | .launchRetire part handle => Sys2Proof.Machine.execLaunchRetire part handle s
  | .noticeDelivery part => Sys2Proof.Machine.execNoticeDelivery part s
  | .dpcmdResume part core hslot => Sys2Proof.Machine.execDpcmdResume part core hslot s
  | .dpcmdKill part core hslot => Sys2Proof.Machine.execDpcmdKill part core hslot s
  | .dpcmdSwapOut part core hslot => Sys2Proof.Machine.execDpcmdSwapOut part core hslot s
  | .dpcmdPreemptHold part handle => Sys2Proof.Machine.execDpcmdPreemptHold part handle s
  | .dpcmdPreemptRequeue part handle => Sys2Proof.Machine.execDpcmdPreemptRequeue part handle s
  | .dpcmdRelease part handle => Sys2Proof.Machine.execDpcmdRelease part handle s
  | .preemptSave core team => Sys2Proof.Machine.execPreemptSave core team s
  | .autoSwapOut core team => Sys2Proof.Machine.execAutoSwapOut core team s
  | .selfTestDrain part => Sys2Proof.Machine.execSelfTestDrain part s
  | .scanSelfTest part fail => Sys2Proof.Machine.execScanSelfTest part fail s
  | .lqtailWrite part queue v => Sys2Proof.Machine.execLqtailWrite part queue v s
  | .lqctlWrite part queue v => Sys2Proof.Machine.execLqctlWrite part queue v s
  | .lqctxWrite part queue v => Sys2Proof.Machine.execLqctxWrite part queue v s
  | .dpcfgWrite part v => Sys2Proof.Machine.execDpcfgWrite part v s
  | .dtbaseWrite die v => Sys2Proof.Machine.execDtbaseWrite die v s
  | .gvswWrite v => Sys2Proof.Machine.execGvswWrite v s
  | .registerWrite offset v => Sys2Proof.Machine.execRegisterWrite offset v s
  | .controlTick domain temps watts => Sys2Proof.Machine.execControlTick domain temps watts s
  | .vfTransitionDone domain => Sys2Proof.Machine.execVfTransitionDone domain s
  | .quotaPeriodStart asid => Sys2Proof.Machine.execQuotaPeriodStart asid s
  | .quotaReport cluster => Sys2Proof.Machine.execQuotaReport cluster s
  | .droopDetect cluster => Sys2Proof.Machine.execDroopDetect cluster s
  | .sampleLatch die => Sys2Proof.Machine.execSampleLatch die s
  | .cameoHoldTimeout die => Sys2Proof.Machine.execCameoHoldTimeout die s
  | .errorDetected die unit who addr at_ corrected => Sys2Proof.Machine.execErrorDetected die unit who addr at_ corrected s
  | .hostRead x len => Sys2Proof.Machine.execHostRead x len s
  | .hostWrite x bytes => Sys2Proof.Machine.execHostWrite x bytes s
  | .hostAtomic op x wide operand compare => Sys2Proof.Machine.execHostAtomic op x wide operand compare s
  | .hostLinkTimeout id => Sys2Proof.Machine.execHostLinkTimeout id s
  | .chainRead peer seq clk addr len => Sys2Proof.Machine.execChainRead peer seq clk addr len s
  | .chainReadResponse id clk bytes => Sys2Proof.Machine.execChainReadResponse id clk bytes s
  | .chainWrite peer seq clk addr bytes => Sys2Proof.Machine.execChainWrite peer seq clk addr bytes s
  | .chainAtomic peer seq clk op addr signed h2 wide operand compare => Sys2Proof.Machine.execChainAtomic peer seq clk op addr signed h2 wide operand compare s
  | .chainAtomicResponse id clk old => Sys2Proof.Machine.execChainAtomicResponse id clk old s
  | .chainAck peer ack => Sys2Proof.Machine.execChainAck peer ack s
  | .chainNak peer => Sys2Proof.Machine.execChainNak peer s
  | .chainReduce peer seq clk addr float elems => Sys2Proof.Machine.execChainReduce peer seq clk addr float elems s
  | .chainRetransmitTimeout peer => Sys2Proof.Machine.execChainRetransmitTimeout peer s
  | .peerLost peer => Sys2Proof.Machine.execPeerLost peer s
  | .laneShed port healthy => Sys2Proof.Machine.execLaneShed port healthy s
  | .laneRestore port lanes => Sys2Proof.Machine.execLaneRestore port lanes s
  | .linkDown port => Sys2Proof.Machine.execLinkDown port s
  | .linkUp port lanes => Sys2Proof.Machine.execLinkUp port lanes s
  | .powerOnReset => Sys2Proof.Machine.execPowerOnReset s
  | .bootVerify ok measurements => Sys2Proof.Machine.execBootVerify ok measurements s
  | .powerOff => Sys2Proof.Machine.execPowerOff s
  | .lkcmdReport v => Sys2Proof.Machine.execLkcmdReport v s
  | .reportComplete => Sys2Proof.Machine.execReportComplete s
  | .hostResponse id bytes => Sys2Proof.Machine.execHostResponse id bytes s
  | .portCommandComplete core bank => Sys2Proof.Machine.execPortCommandComplete core bank s
  | .cameoReplay die => Sys2Proof.Machine.execCameoReplay die s

end Sys2Proof.Machine
end

