-- ==== Sys2Proof/Machine/Moves.lean ====
section
/-! DEFINITION. The moves that the machine may make on its own, in the order in which one GT tick makes them (R224), and
how a program is laid out where the next fetch finds it. -/

namespace Sys2Proof.Machine

/-! ## The home (R223, R224) -/

/-- Copies whose lease has expired. -/
def leaseMoves (s : State) : List Instr :=
  let dead (l : CacheLine) : Bool := !lineLive s.gt l
  (s.cores.map (fun (k : Nat × Core) => (k.2.l1.filter dead).map (fun l => Instr.leaseExpiry 1 k.1 l.asid l.line))).flatten
    ++ (s.dies.map (fun (d : Nat × Die) => (d.2.l2.filter dead).map (fun l => Instr.leaseExpiry 2 d.1 l.asid l.line))).flatten

/-- Dirty lines that are no longer in the memory-side cache of their home (R180, R192). -/
def writebackMoves (s : State) : List Instr :=
  (s.mscDirty.filter (fun pl => !(s.die (dieOfPa (pl * 256))).msc.any (fun x => x.1 == pl))).map Instr.mscWriteback

def visibleMoves (s : State) : List Instr :=
  (s.homes.filter (fun (h : Nat × HomeLine) => !h.2.pending.isEmpty)).map (fun h => Instr.storeVisible h.1)

/-- The arrival of a posted access. -/
def arrivalOf (p : Posted) : Instr :=
  match p.kind with
  | .atomic => .atomicArrival p.id
  | .deque => .dequeAtHome p.id
  | _ => .postedArrival p.id

def isSteal (p : Posted) : Bool := p.accs.any (fun a => a.kind == .dqsteal)

/-- Whether a posted access arrives in this tick: its way to its home has taken it at least one, so that what a core issues after
the arrivals and fetches of a tick comes with those of a later one (R224). A DQSTEAL comes after the DQPUSH and DQPOP of a peer
(R207). -/
def arrivesNow (s : State) (p : Posted) : Bool :=
  match p.stage with
  | .home pa => p.elem.isNone && p.since < s.gt && !(isSteal p && peerOwnerWaits s (pa / 256))
  | _ => false

/-- Arrivals of one tick: by core number, and steals after the other accesses (R203, R207). -/
def arrivalMoves (s : State) : List Instr :=
  let atHome := s.posted.filter (arrivesNow s)
  let byCore := (atHome.map Posted.core).eraseDups.mergeSort (fun a b => a ≤ b)
  let ofCore (f : Posted → Bool) : List Posted := (byCore.map (fun c => atHome.filter (fun p => p.core == c && f p))).flatten
  (ofCore (fun p => !isSteal p) ++ ofCore isSteal).map arrivalOf

/-- What reads do: the walk, the home, the data of a private sector, of the L2, and the registers. -/
def fetchMoves (s : State) : List Instr :=
  (s.fetches.map (fun f => match f.stage with
    | .walk => [Instr.translationWalk f.id]
    | .home _ => [Instr.homeFetch f.id]
    | .arrived => [if f.lane then Instr.privateSectorArrival f.id else Instr.registerFill f.id]
    | _ => [])).flatten
  ++ ((s.posted.filter (fun p => p.stage == .walk)).take 1).map (fun p => Instr.translationWalk p.id)
  ++ s.atlbReqs.map (fun q => if q.answer.isNone then Instr.translationWalk q.id else Instr.atlbFill q.id)
  ++ s.fills.map (fun f => Instr.registerFill f.id)

/-! ## The cores -/

def groupMoves (c h : Nat) (g : GroupSlot) : List Instr :=
  [Instr.rjnRelease c h, .handlerEntry c h, .spillRotation c h] ++ g.frags.map (fun p => Instr.urgentPromotion c h p.1)

def matrixMoves (c : Nat) (k : Core) : List Instr :=
  let banks (l : List MxCmd) : List Nat := ((l.filter (fun m => !m.started)).map MxCmd.bank).eraseDups
  [Instr.matrixCommandComplete c, .portCommandComplete c 0, .portCommandComplete c 1]
    ++ (banks k.array).map (Instr.arrayFillStart c) ++ (banks k.port).map (Instr.portCommandStart c)

def teamMoves (c t : Nat) : List Instr :=
  [Instr.teamStart c t, .regroupRelease c t 0, .regroupRelease c t 1, .regroupRelease c t 2, .teamRetire c t, .preemptSave c t,
    .autoSwapOut c t]

def coreMoves (c : Nat) (k : Core) : List Instr :=
  (k.groups.map (fun p => groupMoves c p.1 p.2)).flatten ++ (k.teams.map (fun p => teamMoves c p.1)).flatten ++ matrixMoves c k

/-! ## Engines, dispatchers, governor, Loupe and links -/

def copyMoves (s : State) : List Instr :=
  (s.copies.map (fun (x : CopyRun) => [Instr.copyBeatDelivery x.cmd.id, .copySourceArrival x.cmd.id])).flatten
  ++ s.dues.map (fun d => Instr.claspRemoteDecrement d.id)
  ++ s.copies.map (fun (x : CopyRun) => Instr.copyComplete x.cmd.id)
  ++ (List.range 8).map Instr.copyEngineStart

def partMoves (p : Nat) (x : Part) : List Instr :=
  let busy := (List.range 64).filter (fun q => lqEnabled x q)
  [Instr.noticeDelivery p] ++ (busy ++ x.heads.map Prod.fst).eraseDups.map (Instr.ringEntryAccept p) ++ [.placementDecision p]
    ++ busy.map (Instr.reservationTake p) ++ busy.map (Instr.placeStarved p) ++ [.selfTestDrain p, .scanSelfTest p false]

def launchMoves (s : State) : List Instr :=
  s.runs.map (fun x => if x.arrived then Instr.childQueueEntry x.id else Instr.launchRunArrival x.id)
  ++ s.launches.map (fun (l : Nat × Launch) => Instr.launchRetire l.2.part l.2.handle)

/-- The temperatures as the governor last measured them. -/
def lastTemps (s : State) : List Nat := (List.range 8).map (fun d => bitsAt (s.gov.regs.get 0 (0x200 + 8 * d)) 0 16)

def governorMoves (s : State) : List Instr :=
  (List.range 4).map (fun j => Instr.controlTick j (lastTemps s) s.gov.watts) ++ (List.range 4).map Instr.vfTransitionDone
  ++ s.quotas.map (fun (q : Nat × Int) => Instr.quotaPeriodStart q.1)
  ++ ((s.cores.filter (fun k => k.1 < 192)).map (fun k => clusterOf k.1)).eraseDups.map Instr.quotaReport

def loupeMoves (s : State) : List Instr :=
  (s.dies.map (fun d => [Instr.sampleLatch d.1, .cameoReplay d.1, .cameoHoldTimeout d.1])).flatten

def linkMoves (s : State) : List Instr :=
  s.fetches.map (fun f => Instr.hostLinkTimeout f.id) ++ s.posted.map (fun p => Instr.hostLinkTimeout p.id)
  ++ (s.conns.map (fun c => [Instr.chainRetransmitTimeout c.1, .peerLost c.1])).flatten ++ [.reportComplete]

/-- What comes before the requests of the host and of peers in one tick (R203, R224): expiries, visibilities, the arrivals of the
cores, and the engines' accesses. -/
def earlyMoves (s : State) : List Instr :=
  [Instr.matrixSlotBoundary] ++ s.downs.map Instr.peerLinkDown ++ leaseMoves s ++ visibleMoves s ++ writebackMoves s
  ++ arrivalMoves s ++ copyMoves s

/-- What comes after them: fetches, the cores, the dispatchers, the governor, Loupe and the links. -/
def lateMoves (s : State) : List Instr :=
  fetchMoves s ++ ((s.cores.filter (fun k => k.1 < 192)).map (fun (k : Nat × Core) => coreMoves k.1 k.2)).flatten
  ++ launchMoves s ++ (s.parts.map (fun p => partMoves p.1 p.2)).flatten ++ governorMoves s ++ loupeMoves s ++ linkMoves s

/-! ## Where the next instruction is placed -/

/-- The virtual address at which a placed instruction stands, and the physical address of its page. -/
def loadVa : W64 := 0x8000
def loadPa : Nat := 0x10000

/-- Words from a physical address on. -/
def storeWords (m : List Host.Cell) (at_ : Nat) : List W64 → List Host.Cell
  | [] => m
  | w :: r => storeWords (Memory.writeMap m at_ (putBytes [] 0 (wordBytes 8 w.toNat))) (at_ + 8) r

/-- A page table that maps the page of the instruction, readable, writable and executable (R184, R185). -/
def loadTables (m : List Host.Cell) : List Host.Cell :=
  let entries : List (Nat × W64) := [(0x1000, 0x2001), (0x2000, 0x3001), (0x3000, 0x4001), (0x4000, 0x5001), (0x5008, 0x1011F)]
  entries.foldl (fun m e => storeWords m e.1 [e.2]) m

/-- The words of an instruction, and after one of R168 the REGION that it needs, with nothing live. -/
def loadWords (w : Nat) : List W64 :=
  let ws := wordsOfNat maxWords w
  match decode 64 ws with
  | .ok i => if needsRegion i then ws.take i.len ++ [0x4A00000000000000, 0] else ws
  | .error _ => ws

/-- A team of one strand whose only fragment stands at the instruction. -/
def loadTeam : Team :=
  { nstr := 1, nteam := 1, started := true, budgets := [(0, 128), (1, 128), (2, 128)], ctx := { asid := 1, sys := true, root := 0x1000 },
    strands := [(0, { resident := [0, 1, 2, 3] })], roles := [1, 0, 0], entry := loadVa }

def loadGroup : GroupSlot :=
  { alloc := true, sids := [(0, 0)], frags := [(0, { pc := loadVa, m := 1, e := 1, lane := some 0,
                                                     region := { pc := loadVa, entryE := [0], snap := [(0, 0)] } })] }

/-- The words as the instruction buffer holds them, by ASID and address. -/
def loadBuffer (ws : List W64) : List (Nat × Nat × W64) := ws.zipIdx.map (fun p => (1, loadVa.toNat + 8 * p.2, p.1))

/-- Place an instruction: its bytes and their page, its words in the instruction buffer, and a fragment of core 0 that the issue
selector has started. -/
def placeInstr (s : State) (w : Nat) : State :=
  let s := { s with powered := true, agenda := [], inbox := [], mem := storeWords (loadTables s.mem) loadPa (loadWords w),
                    roots := s.roots.set 1 0x1000, cur := some { core := 0, hslot := 0, entry := 0 }, starts := [] }
  s.setCore 0 { s.core 0 with teams := [(0, loadTeam)], groups := [(0, loadGroup)], ibuf := loadBuffer (loadWords w) }

end Sys2Proof.Machine
end

