-- ==== Sys2Proof/Machine/Step.lean ====
section
/-! DEFINITION. One step of the machine: an event from outside, of which a request of the host or of a peer waits for its place in
the tick, the instruction that the issue selector has started, the next
start of the same core cycle, a request that waits at its home, a move of the machine's own, or a core cycle. -/

namespace Sys2Proof.Machine

/-- Whether a move would do anything. -/
def changes (s : State) (i : Instr) : Bool :=
  match exec i s with
  | .next t => decide (t ≠ s)
  | _ => true

/-- With the power off only the return of power has an effect. -/
def heard (s : State) (i : Instr) : Bool := i.isEvent && (s.powered || i == .powerOnReset)

/-- The first move of a list that does anything, else what follows. -/
def firstMove (s : State) (l : List Instr) (rest : Host.Outcome State Fault Refusal) : Host.Outcome State Fault Refusal :=
  match l.find? (changes s) with
  | some i => exec i s
  | none => rest

/-- A waiting request is served; those behind it stay behind it. -/
def serveInbox (s : State) (k : Nat) : Host.Outcome State Fault Refusal :=
  match exec (s.inbox.getD k .matrixSlotBoundary) { s with inbox := s.inbox.take k } with
  | .next t => .next { t with inbox := t.inbox ++ s.inbox.drop (k + 1) }
  | x => x

/-- The step of a machine on its own: the first move of the tick that does anything, the waiting requests of the host and of
peers in their place among them (R203, R224), else the next core's cycle. -/
def idleStep (s : State) : Host.Outcome State Fault Refusal :=
  firstMove s (earlyMoves s)
    (match inboxNext s with
    | some k => serveInbox s k
    | none => firstMove s (lateMoves s) (exec (.issueCycle (nextCore s)) s))

def step (s : State) : Host.Outcome State Fault Refusal :=
  match s.agenda with
  | i :: rest =>
    let s' := { s with agenda := rest }
    if !heard s i then .next s'
    else if isRequest i then .next { s' with inbox := s'.inbox ++ [i] }
    else exec i s'
  | [] =>
    if !s.powered then .fault .poweredOff
    else
      match s.cur with
      | some r =>
        match fetchCurrent s r with
        | (some i, s') => exec i s'
        | (none, s') => .next s'
      | none =>
        match s.starts with
        | r :: rest => .next { s with starts := rest, cur := if canStart s r then some r else none }
        | [] => idleStep s

/-- An instruction placed where the next step fetches it: the bits above `nbits` are 0. -/
def State.withFetchWord (s : State) (nbits w : Nat) : State := placeInstr s (w % 2 ^ nbits)

end Sys2Proof.Machine
end

