-- ==== Sys2Proof/Safety.lean ====
section
/-! DEFINITION. What the claims about this machine speak of: a fragment that stands at the start of a pass, operands that
are ready, and what an instruction that completes leaves as it was. -/

namespace Sys2Proof.Machine

/-- Format A fields of the spec's examples: the strand form, guard q15, every other field 0 (R28). -/
def exampleA : FmtA :=
  { u := false, d := 0, a := 0, b := 0, c := 0, ka := false, kb := false, kc := false, ea := false, eb := false, ec := false,
    guard := 15, gn := false, ty := .i8, mode := .rne, fn := 0, lit := none }

/-- Format M fields of the spec's examples: the strand form, guard q15, every other field 0 (R32). -/
def exampleM : FmtM :=
  { u := false, d := 0, base := 0, index := 0, kbase := false, ed := false, size := 0, space := .global, order := 0,
    obs := 0, na := false, prio := 0, guard := 15, gn := false, offset := 0 }

/-! ## Invariants -/

/-- Physical memory is in its canonical form. -/
abbrev MemoryOk (s : State) : Prop := Memory.wf s.mem = true

/-- The local memory of every team is in its canonical form. -/
abbrev LocalMemoryOk (s : State) : Prop := ∀ k ∈ s.cores, ∀ t ∈ k.2.teams, SMap.wf (0 : Byte) t.2.mem = true

/-! ## The start of a pass -/

/-- The issue selector has started the fragment `r`, which stands at the start of an instruction (R49, R52). -/
abbrev Starts (s : State) (r : FragRef) : Prop :=
  s.cur = some r ∧ (s.frag r).mid = false ∧ (s.frag r).wait = .ready ∧ (s.frag r).resume = 0 ∧ (s.frag r).kept = {}
    ∧ (s.frag r).released = false ∧ (s.frag r).switched = false ∧ (s.frag r).ireg = none

/-- A fragment after it has completed a pass and goes on at a PC (R25). -/
def passed (f : Frag) (pc : W64) (cycle : Nat) : Frag := { f.restart pc cycle with lastStart := cycle }

/-- The fragment of `r` as it goes on at a PC. -/
def State.passedAt (s : State) (r : FragRef) (pc : W64) : Frag := passed (s.frag r) pc (s.core r.core).cycle

/-- No fragment of the group stands where this one arrives as `nf`, so that none merges with it (R115), and no piece of
the group waits for an entry (R48). -/
abbrev UnmergedAs (s : State) (r : FragRef) (nf : Frag) : Prop :=
  mergePartner s r.core r.hslot r.entry nf = none ∧ (s.group r.core r.hslot).spill = []

abbrev Unmerged (s : State) (r : FragRef) (pc : W64) : Prop := UnmergedAs s r (s.passedAt r pc)

/-- The same for the next instruction. -/
abbrev Arrives (s : State) (r : FragRef) (i : Instr) : Prop := Unmerged s r (nextPc (s.frag r) i)

/-- The fragment is the only one of its group, and no piece waits. -/
abbrev Undivided (s : State) (r : FragRef) : Prop :=
  (s.group r.core r.hslot).frags = [(r.entry, s.frag r)] ∧ (s.group r.core r.hslot).spill = []

/-- The slots of M belong to different strands. -/
abbrev Distinct (s : State) (r : FragRef) : Prop :=
  ((slotsOf ((s.frag r).m ||| (s.frag r).e)).map (sidOf (s.group r.core r.hslot))).Nodup

/-- Whether a note is of the write of a k register that `which` names by a fragment that is none of those with these members. -/
def lateKOfOther (mine : W32) (which : Nat → Bool) : Late → Bool
  | .kreg n _ m _ => which n && !ownNote mine m
  | _ => false

/-- No write of a k register by another fragment of the group is still to be seen (R56). -/
abbrev KSettled (s : State) (r : FragRef) (n : Nat) : Prop :=
  (s.group r.core r.hslot).late.any (lateKOfOther (s.frag r).m (· == n)) = false

/-- The same for every k register. -/
abbrev KAllSettled (s : State) (r : FragRef) : Prop :=
  (s.group r.core r.hslot).late.any (lateKOfOther (s.frag r).m (fun _ => true)) = false

/-- Sources that a strand can read at once (R55, R343) with their newest values (R56), none a queue port. -/
abbrev SourcesReady (s : State) (r : FragRef) (slot : Nat) (xs : List SrcReg) : Prop :=
  ∀ x ∈ xs, emptyRegs s r slot x = [] ∧ poisonedReg s r slot x = false ∧ (x.isK = true → x.num < 56 ∧ KSettled s r x.num)

/-- v destinations that a strand can write at once: not live-in (R167), no fill pending (R55). -/
abbrev VDestReady (s : State) (r : FragRef) (slot : Nat) (ns : List Nat) : Prop :=
  ∀ n ∈ ns, vLive (s.frag r) ((s.frag r).wbase + n) = false
    ∧ (s.vreg r.core (s.group r.core r.hslot).team (sidOf (s.group r.core r.hslot) slot) ((s.frag r).wbase + n)).full = true

/-- A k destination, no port, that can be written at once. -/
abbrev KDestReady (s : State) (r : FragRef) (n : Nat) : Prop :=
  n < 56 ∧ kLive (s.group r.core r.hslot) r.entry n = false ∧ (s.kreg r.core r.hslot n).full = true

/-! ## What a completed pass leaves -/

/-- The flags of a noted set that takes effect after a cycle (R69). -/
def setAfter (cycle : Nat) : Late → BitVec 5
  | .fset b _ t => if cycle < t then b else 0
  | _ => 0

/-- Outside a core nothing changes but the counts of charges (R304) and the model's count of identities; no
fragment is in a pass. -/
abbrev OutsideSame (s t : State) (c : Nat) : Prop :=
  t = { s with cur := none, nextId := t.nextId, qsub := t.qsub, clen := t.clen, cores := t.cores } ∧ ∀ d, d ≠ c → t.core d = s.core d

/-- Within the core of `r` nothing changes but its group slot, its team, its lanes with the latencies of what the pass has
produced (R50, R51), and the counters of R337. -/
abbrev CoreSame (s t : State) (r : FragRef) : Prop :=
  t.core r.core = { s.core r.core with groups := (t.core r.core).groups, teams := (t.core r.core).teams,
                                       regs := (t.core r.core).regs, lanes := (t.core r.core).lanes,
                                       made := (t.core r.core).made }
  ∧ (∀ h, h ≠ r.hslot → t.group r.core h = s.group r.core h)
  ∧ (∀ u, u ≠ (s.group r.core r.hslot).team → t.team r.core u = s.team r.core u)
  ∧ (∀ o, o ≠ 0x500 → o ≠ 0x508 → o ≠ 0x510 → o ≠ 0x518 → (t.core r.core).regs.get 0 o = (s.core r.core).regs.get 0 o)

/-- The carats of a pass count to the group's step, where none was opened in this cycle or, by a pass under way, in a later one
(R309). -/
abbrev StepCharged (s t : State) (r : FragRef) (n : Nat) : Prop :=
  ((s.group r.core r.hslot).step.opened = true → (s.group r.core r.hslot).step.cycle < (s.core r.core).cycle) →
    (t.group r.core r.hslot).step.charged = (s.group r.core r.hslot).step.charged + n
    ∧ (t.group r.core r.hslot).step.periodCarat = (s.group r.core r.hslot).step.periodCarat + n

/-- A group slot after a completed pass of `n` carats: its fragment goes on as `nf`, and only the signature, the registers, the
flags and the notes of what is seen later may differ, as `t` has them. -/
def groupAfter (s t : State) (r : FragRef) (nf : Frag) (n : Nat) : GroupSlot :=
  let g := s.group r.core r.hslot
  let g' := t.group r.core r.hslot
  { g with frags := g.frags.set r.entry nf, sig := g'.sig, carat := g.carat + n, late := g'.late,
           step := { g.step with charged := g'.step.charged, periodCarat := g'.step.periodCarat }, k := g'.k, flags := g'.flags,
           flags0 := g'.flags0 }

/-- A pass of `n` carats has completed, and the fragment goes on as `nf`. Of all the machine only these differ: the
fragment, its group's signature, carats and counters, the charges of its context and cluster (R304), and the group's
k registers and flags and the strands' registers and predicates, of which the claim says the rest; `change` is what the
instruction does to its group beyond that. -/
abbrev CompletesG (s t : State) (r : FragRef) (nf : Frag) (n : Nat) (change : GroupSlot → GroupSlot) : Prop :=
  OutsideSame s t r.core ∧ CoreSame s t r
  ∧ t.group r.core r.hslot = change (groupAfter s t r nf n) ∧ StepCharged s t r n
  ∧ t.team r.core (s.group r.core r.hslot).team =
      { s.team r.core (s.group r.core r.hslot).team with strands := (t.team r.core (s.group r.core r.hslot).team).strands }
  ∧ (∀ sid, t.strand r.core (s.group r.core r.hslot).team sid =
      { s.strand r.core (s.group r.core r.hslot).team sid with
          regs := (t.strand r.core (s.group r.core r.hslot).team sid).regs,
          preds := (t.strand r.core (s.group r.core r.hslot).team sid).preds })
  ∧ t.clen.get 0 (clusterOf r.core) = s.clen.get 0 (clusterOf r.core) + n
  ∧ t.qsub.get 0 (clusterOf r.core * 65536 + (s.teamOf r.core r.hslot).ctx.asid) =
      s.qsub.get 0 (clusterOf r.core * 65536 + (s.teamOf r.core r.hslot).ctx.asid) + n
  ∧ (t.core r.core).regs.get 0 0x508 = (s.core r.core).regs.get 0 0x508 + 1

abbrev CompletesTo (s t : State) (r : FragRef) (nf : Frag) (n : Nat) : Prop := CompletesG s t r nf n id

/-- The signature of the fragment's lowest member has folded the words of the instruction, and no other has changed
(R341). -/
abbrev Folded (s t : State) (r : FragRef) (i : Instr) : Prop :=
  (t.group r.core r.hslot).sig = (s.group r.core r.hslot).sig.set (sigSlot (s.frag r))
    (foldSig i ((s.group r.core r.hslot).sig.get 0 (sigSlot (s.frag r))))

/-- The same for a fragment that goes on at a PC with its window and its region. -/
abbrev Completes (s t : State) (r : FragRef) (i : Instr) (pc : W64) (n : Nat) : Prop :=
  CompletesTo s t r (s.passedAt r pc) n ∧ Folded s t r i

/-- The counters of strand-operations and of uniform instructions have risen (R337). -/
abbrev Counted (s t : State) (r : FragRef) (strands uniform : Nat) : Prop :=
  (t.core r.core).regs.get 0 0x510 = (s.core r.core).regs.get 0 0x510 + .ofNat 64 strands
  ∧ (t.core r.core).regs.get 0 0x518 = (s.core r.core).regs.get 0 0x518 + .ofNat 64 uniform

/-- What MFS reads for the strand at a slot, in the `k`-th cycle of its pass: %flags, %exm, %pkr and %fpc after what the
fragment's earlier passes did to them, %carat without the charges of the last three cycles, any other register as it then is (R57, R69, R112, R307). -/
def mfsSeen (s : State) (r : FragRef) (f : FmtS) (k sl : Nat) : W64 :=
  let b := beginPass s r (.mfs f)
  let w := weightOf 0x38
  let b := tickLane (awaitSreg b r f.sreg) r k
  let g := b.group r.core r.hslot
  if f.sreg = .carat then .ofNat 64 (caratSeen { g with carat := g.carat + k * w } (laneNow b r) - Nat.min k 3 * w)
  else readSreg b r sl f.sreg

/-- The k registers other than those named are as before. -/
abbrev KSame (s t : State) (r : FragRef) (ns : List Nat) : Prop :=
  ∀ n, n ∉ ns → t.kreg r.core r.hslot n = s.kreg r.core r.hslot n

/-- Registers and predicates of the strands not named are as before. -/
abbrev StrandsSame (s t : State) (r : FragRef) (sids : List Nat) : Prop :=
  ∀ i, i ∉ sids → t.strand r.core (s.group r.core r.hslot).team i = s.strand r.core (s.group r.core r.hslot).team i

abbrev FlagsSame (s t : State) (r : FragRef) : Prop := (t.group r.core r.hslot).flags = (s.group r.core r.hslot).flags

/-- Every register, predicate and flag of the group's strands is as before. -/
abbrev RegistersSame (s t : State) (r : FragRef) : Prop := KSame s t r [] ∧ StrandsSame s t r [] ∧ FlagsSame s t r

/-- A slot of the group stands at a PC and window base, in a fragment or in a piece that waits for an entry, and executes or
not (R47, R48). -/
abbrev StandsAt (t : State) (r : FragRef) (slot : Nat) (pc : W64) (wbase : Nat) (e : Bool) : Prop :=
  (∃ p ∈ (t.group r.core r.hslot).frags, p.2.m.getLsbD slot = true ∧ p.2.pc = pc ∧ p.2.wbase = wbase ∧ p.2.e.getLsbD slot = e)
  ∨ (∃ p ∈ (t.group r.core r.hslot).spill, p.m.getLsbD slot = true ∧ p.pc = pc ∧ p.wbase = wbase ∧ p.e.getLsbD slot = e)

/-- No fault is recorded or handled in the group of a fragment. -/
abbrev NoFault (s : State) (r : FragRef) : Prop :=
  (s.group r.core r.hslot).fault = none ∧ (s.group r.core r.hslot).inHandler = false

/-- No trace record of any kind is enabled on the core (R329). -/
abbrev NoTrace (s : State) (r : FragRef) : Prop := (s.core r.core).regs.get 0 0x408 = 0

/-- Trace records of a kind are off on a core (R329). -/
abbrev NoTraceOf (s : State) (c kind : Nat) : Prop := ((s.core c).regs.get 0 0x408).getLsbD kind = false

/-- The region of a fragment after an instruction of R168, when its pass has performed. -/
def regionAfter (s : State) (r : FragRef) (i : Instr) : Region :=
  match s.follow with
  | none => (s.frag r).region
  | some (kl, vl) =>
    { opening := s.nextId, pc := nextPc (s.frag r) i, base := (s.frag r).wbase, vlive := vl, klive := kl,
      entryE := (slotsOf (s.frag r).e).map (sidOf (s.group r.core r.hslot)),
      snap := snapshot (s.teamOf r.core r.hslot) (s.group r.core r.hslot) (s.frag r).m }

/-- The fragment as an instruction of R168 leaves it. -/
def State.regionAt (s : State) (r : FragRef) (i : Instr) : Frag :=
  { s.passedAt r (nextPc (s.frag r) i) with region := regionAfter s r i }

/-- The fragment goes on at the next instruction, in the region of the REGION that follows it (R168). -/
abbrev Performs (s t : State) (r : FragRef) (i : Instr) : Prop :=
  t.frag r = s.regionAt r i ∧ t.cur = none

/-- The fragment of `r` goes on at the next instruction with its members and its window, its pass over. -/
abbrev GoesOn (s t : State) (r : FragRef) (i : Instr) : Prop :=
  (t.frag r).pc = nextPc (s.frag r) i ∧ (t.frag r).mid = false ∧ (t.frag r).wait = .ready ∧ (t.frag r).m = (s.frag r).m
  ∧ (t.frag r).e = (s.frag r).e ∧ (t.frag r).wbase = (s.frag r).wbase ∧ t.cur = none

/-- The strand of a slot. -/
abbrev sidAt (s : State) (r : FragRef) (slot : Nat) : Nat := sidOf (s.group r.core r.hslot) slot

/-- The fragment stays at its instruction until the accesses that are named are over (R194). -/
abbrev WaitsFor (s t : State) (r : FragRef) (reads : Fetch → Prop) (posts : Posted → Prop) : Prop :=
  (t.frag r).pc = (s.frag r).pc ∧ ∃ ids, (t.frag r).wait = .maintenance ids
    ∧ (∀ q ∈ s.fetches, reads q → q.id ∈ ids) ∧ (∀ q ∈ s.posted, posts q → q.id ∈ ids)

/-! ## Memory instructions -/

/-- The strands that a pass of Format M runs: the reference slot where the guard holds there in the uniform form, the active
ones in the strand form (R49). -/
def memSlots (s : State) (r : FragRef) (f : FmtM) : List Nat :=
  if f.u then (if guardHolds (strandAt s r (s.frag r).refSlot) f.guard f.gn then [(s.frag r).refSlot] else [])
  else activeSlots s r f.guard f.gn 0

/-- A memory instruction that may act at once: no acquire of its fragment is open, and for a release nothing that it
waits for (R229, R230). -/
abbrev MemStarts (s : State) (r : FragRef) (i : Instr) (f : FmtM) : Prop :=
  Starts s r ∧ Arrives s r i ∧ Distinct s r ∧ (s.frag r).acquires = []
  ∧ (f.order.getLsbD 1 = true → fenceDone s r.core r.hslot s.nextId (inHandlerAt s r) false (some f.obs) = true)

/-- The strand-operations or the uniform instruction of a pass are counted (R337) and charged (R304). -/
abbrev Ran (s t : State) (r : FragRef) (u : Bool) (act : List Nat) (w : Nat) : Prop :=
  Counted s t r (if u then 0 else act.length) (if u then act.length else 0)
  ∧ t.clen.get 0 (clusterOf r.core) = s.clen.get 0 (clusterOf r.core) + w * act.length
  ∧ (t.group r.core r.hslot).carat = (s.group r.core r.hslot).carat + w * act.length

/-- What a group has besides its fragments, its k registers and what a pass charges and clocks is as before: identities,
flags, fault and key registers, log, counters of commands and the step. -/
abbrev GroupKept (s t : State) (r : FragRef) : Prop :=
  let g := t.group r.core r.hslot
  let g0 := s.group r.core r.hslot
  g = { g0 with frags := g0.frags.set r.entry (t.frag r), k := g.k, sig := g.sig, carat := g.carat, lclk := g.lclk, late := g.late,
                step := { g0.step with charged := g.step.charged, periodCarat := g.step.periodCarat } }

/-- Outside the group of the fragment every group and every strand is as before. -/
abbrev OthersSame (s t : State) (r : FragRef) : Prop :=
  (∀ c h, (c, h) ≠ (r.core, r.hslot) → t.group c h = s.group c h)
  ∧ ∀ c u sid, (c, u) ≠ (r.core, (s.group r.core r.hslot).team) → t.strand c u sid = s.strand c u sid

/-- Memory beyond the core is as before, at its homes and as requests carry it. -/
abbrev BeyondSame (s t : State) : Prop :=
  t.mem = s.mem ∧ t.tags = s.tags ∧ t.poison = s.poison ∧ t.homes = s.homes

/-- Local memories, barriers and queues are as before. -/
abbrev LocalSame (s t : State) : Prop :=
  ∀ c u, t.team c u = { s.team c u with strands := (t.team c u).strands }

/-- The address a strand forms (R137). -/
def memAddr (s : State) (r : FragRef) (sl : Nat) (f : FmtM) (indexed : Bool) : W64 :=
  effAddr f indexed (readAll s r sl (addrSrcs f indexed)).1

/-- The data a strand stores (R143). -/
def memData (s : State) (r : FragRef) (sl : Nat) (f : FmtM) (ns : List Nat) : Nat :=
  joinWords (if f.u then 64 else 32) (readAll s r sl (dataSrcs f ns)).1

/-- Registers that an access fills can be written at once. -/
abbrev FillReady (s : State) (r : FragRef) (sl : Nat) (u : Bool) (ns : List Nat) : Prop :=
  if u then ∀ n ∈ ns, KDestReady s r n else VDestReady s r sl ns

/-- The registers that the accesses of a pass fill are empty until they do, and every other register, predicate and
flag of the group is as before. -/
abbrev OnlyEmptied (s t : State) (r : FragRef) (u : Bool) (act ns : List Nat) : Prop :=
  FlagsSame s t r
  ∧ (u = true → StrandsSame s t r [] ∧ KSame s t r (if act = [] then [] else ns)
      ∧ (act ≠ [] → ∀ n ∈ ns, (t.kreg r.core r.hslot n).full = false))
  ∧ (u = false → KSame s t r [] ∧ StrandsSame s t r (act.map (sidAt s r))
      ∧ ∀ sl ∈ act,
        { t.strand r.core (s.group r.core r.hslot).team (sidAt s r sl) with regs := [] } =
          { s.strand r.core (s.group r.core r.hslot).team (sidAt s r sl) with regs := [] }
        ∧ (∀ n ∈ ns, (t.vreg r.core (s.group r.core r.hslot).team (sidAt s r sl) ((s.frag r).wbase + n)).full = false)
        ∧ ∀ p, (∀ n ∈ ns, p ≠ (s.frag r).wbase + n) →
            t.vreg r.core (s.group r.core r.hslot).team (sidAt s r sl) p =
              s.vreg r.core (s.group r.core r.hslot).team (sidAt s r sl) p)

/-- A page that lets an access pass: the attribute TLB covers the address, and every entry that does, where it is no absent
page, has the rights, the key and the reach that the access needs and no tag check; no watchpoint on the bytes
(R148, R187, R189, R201, R325). -/
abbrev PageGood (s : State) (r : FragRef) (sl : Nat) (va : W64) (n : Nat) (rd wr : Bool) (kind : AccKind) : Prop :=
  (tlbFind s r.core (s.teamOf r.core r.hslot).ctx.asid (va.toNat % 2 ^ 57)).isSome = true
  ∧ (∀ e ∈ (s.core r.core).atlb, e.asid = (s.teamOf r.core r.hslot).ctx.asid → leafBase e.bits (va.toNat % 2 ^ 57) = e.va →
      ∀ l, e.leaf = some l →
        (rd = true → l.rd = true ∧ keyDenies (passPkr s r) l.key false = false)
        ∧ (wr = true → l.w = true ∧ keyDenies (passPkr s r) l.key true = false)
        ∧ reachOk l kind = true ∧ l.tagc = false)
  ∧ watched s r sl 0 (va.toNat % 2 ^ 57) n rd wr = none

/-- The words of an access to global or private memory: VA, bytes, first register (R138, R140). -/
def accWords (s : State) (r : FragRef) (sl : Nat) (f : FmtM) (a : W64) : List (W64 × Nat × Nat) :=
  let n := memBytes f
  let pos := regPos s r f.u f.d.toNat
  let va (p : Nat) : W64 := privateVa (s.teamOf r.core r.hslot) (sidAt s r sl) p
  if f.space = .lane then
    (if n = 8 then [(va a.toNat, 4, pos), (va (a.toNat + 4), 4, if f.u then pos else pos + 1)] else [(va a.toNat, n, pos)])
  else [(a, n, pos)]

/-- An address of global or private memory that passes the checks of R138, R139 and R148. -/
abbrev ReachGood (s : State) (r : FragRef) (sl : Nat) (f : FmtM) (a : W64) (rd wr : Bool) (kind : AccKind) : Prop :=
  a.toNat % memBytes f = 0
  ∧ (f.space = .global ∧ a.toNat < 2 ^ 61
      ∨ f.space = .lane ∧ a.toNat < 2 ^ 32 ∧ (a.toNat + memBytes f - 1) / 4 < (s.teamOf r.core r.hslot).laneWords)
  ∧ ∀ w ∈ accWords s r sl f a, PageGood s r sl w.1 w.2.1 rd wr kind

/-- There is room for `n` more accesses of `e` miss-status entries (R151, R156). -/
abbrev AccessRoom (s : State) (r : FragRef) (n e : Nat) : Prop :=
  outstandingOf s r.core r.hslot + n ≤ 255 ∧ missCount s r.core + e ≤ 256

/-- A read of a strand is under way: its data waits to fill the registers from `pos` on, or a request carries it. -/
abbrev InFlight (t : State) (r : FragRef) (u : Bool) (sid pos : Nat) (va : W64) : Prop :=
  (∃ q ∈ t.fills, q.core = r.core ∧ q.hslot = r.hslot ∧ q.uni = u ∧ q.sid = sid ∧ q.pos = pos)
  ∨ (∃ q ∈ t.fetches, ∃ x ∈ q.accs, x.core = r.core ∧ x.hslot = r.hslot ∧ x.uni = u ∧ x.sid = sid ∧ x.pos = pos ∧ x.addr = va)

/-- A posted access of a strand: its request, its record. -/
abbrev PostedOf (t : State) (r : FragRef) (kind : PostKind) (sid : Nat) (a : W64) (data : Nat) (q : Posted) (x : Acc) : Prop :=
  q ∈ t.posted ∧ q.kind = kind ∧ q.core = r.core ∧ q.hslot = r.hslot ∧ q.line = a.toNat % 2 ^ 57 / 256 ∧ x ∈ q.accs
  ∧ x.core = r.core ∧ x.hslot = r.hslot ∧ x.sid = sid ∧ x.addr = a ∧ x.data = data

/-- A place in local memory that a strand's address names, aligned, no watchpoint on it, not poisoned (R138, R139, R325,
R343). -/
abbrev LocalGood (s : State) (r : FragRef) (sl : Nat) (f : FmtM) (a : W64) (n : Nat) (rd wr : Bool) (p : LocalAt) : Prop :=
  (f.space = .local ∨ f.space = .gang) ∧ a.toNat % n = 0
  ∧ localAt r.core (s.group r.core r.hslot).team (s.teamOf r.core r.hslot) (f.space == .gang) a.toNat = some p
  ∧ (p.own = true → watched s r sl 1 p.off n rd wr = none) ∧ localBad (s.team p.core p.team) p.off n = false

/-- An access to another core's part of the gang-local view, but for its identity and its time: who made it, what it reads into
or writes, its place. -/
def GangAcc.brief (x : GangAcc) : (Nat × Nat × Bool × Nat) × Nat × Nat × (Nat × Nat × Nat) × GangWhat :=
  ((x.acc.core, x.acc.hslot, x.acc.uni, x.acc.sid), x.acc.pos, x.acc.data, (x.core, x.team, x.off), x.what)

/-- The strands of a pass have sent accesses to other cores' parts of the gang-local view, in slot order, which perform at least 4
cycles later (R226). -/
abbrev GangSends (s t : State) (r : FragRef) (u : Bool) (pos : Nat) (data : Nat → Nat) (p : Nat → LocalAt) (what : GangWhat)
    (sls : List Nat) : Prop :=
  t.gang.map GangAcc.brief = s.gang.map GangAcc.brief
    ++ sls.map (fun sl => ((r.core, r.hslot, u, sidAt s r sl), pos, data sl, ((p sl).core, (p sl).team, (p sl).off), what))
  ∧ ∀ x ∈ t.gang.drop s.gang.length, (s.core r.core).cycle + 4 ≤ x.at_

/-- Whether a byte of a team's local memory lies among the `n` bytes of a place. -/
def LocalAt.covers (p : LocalAt) (n c u o : Nat) : Bool := p.core == c && p.team == u && p.off ≤ o && o < p.off + n

/-- The ten atomics (R199): mnemonic and opcode. -/
def atomics (f : FmtM) : List (Instr × Nat) :=
  [(.aadd f, 0x90), (.amin f, 0x91), (.amax f, 0x92), (.aand f, 0x93), (.aor f, 0x94), (.axor f, 0x95), (.aswp f, 0x96),
   (.acas f, 0x97), (.afadd f, 0x98), (.ainc f, 0x99)]

/-- The registers an atomic reads its operands from, and those it returns the old value in (R198). -/
def atomicIn (op : Nat) (f : FmtM) : List Nat :=
  (List.range (if op = 0x97 then 2 * operandRegs f else operandRegs f)).map (f.d.toNat + ·)
def atomicOut (f : FmtM) : List Nat := if noResult f then [] else (List.range (operandRegs f)).map (f.d.toNat + ·)
def operandOf (s : State) (r : FragRef) (sl op : Nat) (f : FmtM) : Nat :=
  joinWords (if f.u then 8 * memBytes f else 32) (readAll s r sl (dataSrcs f (atomicIn op f))).1

/-- No strand of the group waits at a clasp, so that a write of local memory wakes none of them (R213). -/
abbrev NoClaspWait (s : State) (r : FragRef) : Prop :=
  (∀ q ∈ (s.group r.core r.hslot).frags, ∀ c u o ph v, q.2.wait ≠ .clasp c u o ph v)
  ∧ ∀ q ∈ (s.group r.core r.hslot).spill, ∀ c u o ph v, q.wait ≠ .clasp c u o ph v

/-- A clasp after one arrival that adds to its bytes pending: it flips when nothing is pending any more (R212, R213). -/
def arrivedClasp (c : Clasp) (x : W64) : Clasp :=
  let pb := (c.pbytes + x.toNat % 2 ^ 32) % 2 ^ 32
  if c.parr - 1 = 0 ∧ pb = 0 then { c with phase := !c.phase, parr := c.expect, pbytes := 0 }
  else { c with parr := c.parr - 1, pbytes := pb }

/-- A strand with registers of its window written, by register number, and predicates. -/
def Strand.write (x : Strand) (wbase : Nat) (rs : List (Nat × W32)) (ps : List (Nat × Bool)) : Strand :=
  { x with regs := rs.foldl (fun m p => m.set (wbase + p.1) { val := p.2 }) x.regs,
           preds := ps.foldl (fun q p => setPred q p.1 p.2) x.preds }

/-- The registers that an arithmetic operation's results take. -/
def outRegs (op : AluOp) (f : FmtA) (o : Outs) : List (Nat × W32) :=
  (match o.d with
    | some v => if writesReg op f then (vWords (aluRow op f).pd v).zipIdx.map (fun p => (f.d.toNat + p.2, p.1)) else []
    | none => [])
  ++ (match o.e with | some v => [(f.b.toNat, v.truncate 32)] | none => [])

/-! ## Translation -/

/-- The page that the slice finds for a read, or for a posted access: a replayed one walks anew (R188). -/
def fetchPage (s : State) (f : Fetch) : Option SliceEntry × State :=
  let shown := shownAddr f.line (issueOrder f)
  if f.replay then translateAnew s (dieOf f.core) f.asid (f.line * 256) f.core shown
  else translate s (dieOf f.core) f.asid (f.line * 256) f.core shown

def postedPage (s : State) (p : Posted) : Option SliceEntry × State :=
  let shown := shownAddr p.line p.accs
  if p.replay then translateAnew s (dieOf p.core) p.asid (p.line * 256) p.core shown
  else translate s (dieOf p.core) p.asid (p.line * 256) p.core shown

/-! ## Engine commands -/

/-- What a group has besides its fragments, what a pass charges and clocks, and the counters and queues of its engine
commands is as before. -/
abbrev GroupIssued (s t : State) (r : FragRef) : Prop :=
  let g := t.group r.core r.hslot
  let g0 := s.group r.core r.hslot
  g = { g0 with frags := g0.frags.set r.entry (t.frag r), sig := g.sig, carat := g0.carat + 2, lclk := g.lclk, late := g.late, cy := g.cy,
                cm := g.cm, yq := g.yq, mq := g.mq,
                step := { g0.step with charged := g.step.charged, periodCarat := g.step.periodCarat } } ∧ StepCharged s t r 2

/-- A command has been issued: the fragment goes on, the pass has its charge, and beyond the core nothing has changed. -/
abbrev Issued (s t : State) (r : FragRef) (i : Instr) : Prop :=
  Performs s t r i ∧ GroupIssued s t r ∧ OthersSame s t r ∧ BeyondSame s t ∧ LocalSame s t ∧ Counted s t r 0 1
    ∧ t.fills = s.fills ∧ t.fetches = s.fetches ∧ t.posted = s.posted

/-- An engine command that may issue: no acquire is open, and its descriptor can be read (R230, R238, R263). -/
abbrev CommandStarts (s : State) (r : FragRef) (i : Instr) (d len : Nat) : Prop :=
  Starts s r ∧ (s.frag r).acquires = [] ∧ UnmergedAs s r (s.regionAt r i) ∧ SourcesReady s r (s.frag r).refSlot (descSrcs d len)

/-- The words of a descriptor. -/
def descWords (s : State) (r : FragRef) (d len : Nat) : List W64 := (List.range len).map (fun j => (s.kreg r.core r.hslot (d + j)).val)

/-- The copy commands: instruction, opcode, words of the descriptor (R237). -/
def copyForms (f : FmtE) : List (Instr × Nat × Nat) :=
  [(.cpy f, 0xC0, 8), (.cpyp f, 0xC1, 8), (.cpyg f, 0xC2, 10), (.cpys f, 0xC3, 8), (.cpyr f, 0xC4, 8)]

/-- The commands of the array queue (R264). -/
def arrayForms (f : FmtE) : List (Instr × Nat × Nat) := [(.mma f, 0xC8, 2), (.mmas f, 0xC9, 3), (.msca f, 0xCA, 1), (.acz f, 0xCB, 0)]

/-- A copy command as its fragment issues it, but for its identity and its clock. -/
def copyOf (s : State) (r : FragRef) (i : Instr) (op len : Nat) (f : FmtE) : CopyCmd :=
  let g := s.group r.core r.hslot
  let t := s.team r.core g.team
  { id := 0, op := op, float := f.spec == 10#5, core := r.core, hslot := r.hslot, team := g.team,
    desc := descWords s r f.d.toNat len, asid := t.ctx.asid, sys := t.ctx.sys, pkr := passPkr s r, slot := (s.frag r).refSlot,
    word := word0 i }

/-- A matrix command as its fragment issues it, but for its identity and its clock. -/
def matrixOf (s : State) (r : FragRef) (i : Instr) (op len : Nat) (f : FmtE) : MxCmd :=
  mxCmd s r i op f (descWords s r f.d.toNat len)

/-- The checks of R262 that a matrix command passes. -/
abbrev MatrixGood (s : State) (r : FragRef) (m : MxCmd) (d : Nat) : Prop :=
  mxCheck (s.teamOf r.core r.hslot) (windowOf (s.teamOf r.core r.hslot) (s.group r.core r.hslot).role) m d = none

/-- Element k of row or column i of an operand in bit planes (R257, R258). -/
def planeElem (t : Team) (base n i k : Nat) (signed : Bool) : Int :=
  ((List.range n).map (fun p =>
    if (t.mem.get 0 (base + 1024 * p + 16 * i + k / 8)).getLsbD (k % 8) then planeWeight signed n p else 0)).foldl (· + ·) 0

/-- Element k of a row of A for a block: MMAS has 256 positions in two halves (R259). -/
def elemA (t : Team) (m : MxCmd) (b i k : Nat) : Int :=
  let base := m.abase + m.astr * b
  if k < 128 then planeElem t base m.pa i k m.sgnA else planeElem t (base + m.hoff) m.pa i (k - 128) m.sgnA

/-- The metadata nibble of a group of a column of block b, in a team's local memory (R259). -/
def nibbleAt (t : Team) (m : MxCmd) (b col g : Nat) : Nat :=
  (t.mem.get 0 (m.mbase + m.mstr * b + 32 * col + g / 2)).toNat / 16 ^ (g % 2) % 16

/-- The position of A that position q of a column of B meets: q itself, or the one that the metadata keeps (R259). -/
def meetsA (t : Team) (m : MxCmd) (b j q : Nat) : Nat :=
  if m.op = 0xC9 then 4 * (q / 2) + nibbleAt t m b j (q / 2) / 4 ^ (q % 2) % 4 else q

/-- The exact sum that a command adds to an element of its tile (R258, R259). -/
def mmaSum (t : Team) (m : MxCmd) (i j : Nat) : Int :=
  ((List.range m.nb).map (fun b => ((List.range 128).map (fun q =>
    elemA t m b i (meetsA t m b j q) * planeElem t (m.bbase + m.bstr * b) m.pb j q m.sgnB)).foldl (· + ·) 0)).foldl (· + ·) 0

end Sys2Proof.Machine
end

