-- ==== Sys2Proof/Certificates/Slice0/Obligations.lean ====
section
/-! DEFINITION. The statements for the provers. Each docstring names the rules it formalises. -/

open Sys2Proof Sys2Proof.Machine

/-! ## Encoding -/

/-- R25, R27: words written out in the spec's chapters decode to the instructions they stand for. -/
def Obligations.ExampleWordsDecode : Prop :=
  decodeTableWord 64 0x0000000001E00000 = some (.nop { exampleA with ty := .i8 })
  ∧ decodeTableWord 64 0x0206084001E10000 = some (.add { exampleA with d := 3, a := 1, b := 2, ty := .i32 })
  ∧ decodeTableWord 128 0x00000000000000400202080001E10080 = some (.add { exampleA with d := 1, a := 1, ty := .i32, lit := some 0x40 })
  ∧ decodeTableWord 64 0x1D0408A001E10200 = some (.cmp { exampleA with d := 2, a := 1, b := 5, ty := .i32, fn := 2 })
  ∧ decodeTableWord 64 0x3706002101EAC000 = some (.blut { exampleA with d := 3, a := 0, b := 1, c := 2, ty := .i8 } 0xAC)
  ∧ decodeTableWord 64 0x3800000001E00000 = some (.mfs { u := false, reg := 0, kr := false, sreg := .sid, er := false, guard := 15, gn := false })
  ∧ decodeTableWord 64 0x41F0000000000005 = some (.br { guard := 15, gn := false, kind := 0, offset := 5 })
  ∧ decodeTableWord 64 0x44F2000000000014 = some (.call { guard := 15, gn := false, kind := 2, offset := 0x14 })
  ∧ decodeTableWord 128 0x000000000000000F4A00000000000013 = some (.region 0x13 0xF)
  ∧ decodeTableWord 64 0x800200120001E000 = some (.ld { exampleM with d := 1, kbase := true, size := 2 })
  ∧ decodeTableWord 64 0xC8A007F800000000 = some (.mma { d := 16, zd := 0, zs := 0, pam1 := 7, pbm1 := 7, spec := 24, vb := 0 })

/-- R25 to R42: decoding the words of a well-formed instruction, with whatever follows them in memory, gives that
instruction, with every operand at every value that the encoding admits. The rows that are events of the engines have no
words. -/
def Obligations.DecodeEncode : Prop :=
  ∀ (i : Instr) (rest : List W64), i.wellFormed = true → windowOk 64 i = true → i.isEvent = false →
    decode 64 (encode i ++ rest) = .ok i

/-- R25: the words of a well-formed instruction are as many as its length says, and word 0 gives that length.

R27, R44: a word whose opcode no row of the table has is ILLOP, whatever its other bits and whatever follows.

R28: a word of any Format A instruction whose reserved bits are not all 0 is ILLENC. -/
def Obligations.EncodingRules : Prop :=
  (∀ i : Instr, i.wellFormed = true → i.isEvent = false → (encode i).length = i.len ∧ headLen (word0 i) = i.len)
  ∧ (∀ (win : Nat) (w : W64) (ws : List W64),
    ((0x3A ≤ opByte w ∧ opByte w ≤ 0x3F) ∨ (0x60 ≤ opByte w ∧ opByte w ≤ 0x7F) ∨ (0x89 ≤ opByte w ∧ opByte w ≤ 0x8F)
      ∨ (0x9D ≤ opByte w ∧ opByte w ≤ 0x9F) ∨ (0xAA ≤ opByte w ∧ opByte w ≤ 0xBF) ∨ (0xC5 ≤ opByte w ∧ opByte w ≤ 0xC7)
      ∨ 0xCE ≤ opByte w) →
    decode win (w :: ws) = .error (.illop 0))
  ∧ (∀ (win : Nat) (w : W64) (ws : List W64), (opByte w ≤ 0x37 ∨ opByte w = 0x43 ∨ (0x45 ≤ opByte w ∧ opByte w ≤ 0x49)
      ∨ (0x4B ≤ opByte w ∧ opByte w ≤ 0x5F) ∨ (0xA1 ≤ opByte w ∧ opByte w ≤ 0xA4) ∨ opByte w = 0xA9) → w.toNat % 128 ≠ 0 →
    decode win (w :: ws) = .error (.illenc 0))

/-! ## The step -/

/-- A step runs the decoded instruction (R43 to R45, R49): with nothing on the agenda, when the words at the PC of the
fragment that has been started decode to `i` and no comparator names the PC (R324; of an IRET outside a handler none is asked,
R44), the step is exec of `i` at the state
that the fetch leaves, which keeps `i` with the fragment. Before an instruction of R168 the words of the REGION after it
have been read as well. -/
def Obligations.StepRunsTheDecodedInstruction : Prop :=
  ∀ (s s1 s2 : State) (r : FragRef) (i : Instr) (fol : Option (BitVec 56 × W64)),
    s.agenda = [] → s.powered = true → s.cur = some r → (s.frag r).mid = false →
    fetchFrom r.core (s.teamOf r.core r.hslot).ctx.asid
      (windowOf (s.teamOf r.core r.hslot) (s.group r.core r.hslot).role) (s.frag r).pc maxWords [] s = (.run i, s1) →
    (if needsRegion i then fol.isSome = true ∧ fetchFollow { s1 with cur := none } r (s.teamOf r.core r.hslot).ctx.asid i = (fol, s2)
      else fol = none ∧ s2 = s1) →
    ((s.frag r).skip.isSome = true ∨ bareIret (s.group r.core r.hslot) r.entry i = true ∨ comparatorHit { s2 with follow := fol, cur := some r } r = none) →
    step s = exec i ({ s2 with follow := fol, cur := some r }.modFrag r (fun f => { f with instr := some i, follow := fol }))

/-- R43, R45, R195: of an executable page that the device's memory holds, a word that the instruction buffer holds as memory does is
fetched from there; one that no buffer holds, from the copy of its line that the L1 holds under a lease, and the buffer then holds
it; without such a copy the fetch waits for the line. One word that is an instruction is that instruction. (That a fetch takes the
word of a copy under its lease, S1 and S2 of R223, and that buffers hold words, is the model's choice of log entry 3.)

R45: the fetch faults of a word: beyond the address space ADDRESS (cause 4), of an absent page PAGE (11), of a page
without the execute bit RIGHTS (6). -/
def Obligations.FetchRules : Prop :=
  (∀ (s s1 : State) (c asid win n : Nat) (pc w : W64) (e : SliceEntry) (i : Instr),
    pc.toNat < 2 ^ 57 → translate s (dieOf c) asid pc.toNat c = (some e, s1) → e.leaf.x = true → e.leaf.attr = 0 →
    let line := pc.toNat / 256
    let lc := l1Core s1 c line
    let held : Option CacheLine := (findLine (s1.core lc).l1 asid line).filter
      (fun l => !l.lane && decide (s1.gt < l.expiry) && l.sectors.getLsbD (pc.toNat % 256 / 64))
    (bufferedWord s1 c asid pc.toNat = some w → w = .ofNat 64 (Memory.word s1.mem (leafAddr e.bits pc.toNat e.leaf) 8) →
      decode win [w] = .ok i → fetchFrom c asid win pc (n + 1) [] s = (.run i, s1))
    ∧ (∀ l, bufferedWord s1 c asid pc.toNat = none → held = some l → l.poison.getLsbD (pc.toNat % 256 / 32) = false →
      w = .ofNat 64 (bytesVal ((l.bytes.drop (pc.toNat % 256)).take 8)) → decode win [w] = .ok i →
      ∃ t, fetchFrom c asid win pc (n + 1) [] s = (.run i, t) ∧ bufferedWord t c asid pc.toNat = some w ∧ t.mem = s1.mem)
    ∧ (bufferedWord s1 c asid pc.toNat = none → held = none → findLine (s1.die (dieOf c)).l2 asid line = none →
      ∃ t, fetchFrom c asid win pc (n + 1) [] s = (.wait asid line, t) ∧ t.mem = s1.mem
        ∧ ∃ q ∈ t.fetches, q.inst = true ∧ q.core = c ∧ q.asid = asid ∧ q.line = line))
  ∧ (∀ (s : State) (c asid k : Nat) (pc : W64),
    ((2 ^ 61 ≤ pc.toNat ∨ 2 ^ 57 ≤ pc.toNat % 2 ^ 57 + 8 * k) → (fetchWord s c asid pc k).1 = .fault 4)
    ∧ (pc.toNat < 2 ^ 61 → pc.toNat % 2 ^ 57 + 8 * k < 2 ^ 57 →
        (translate s (dieOf c) asid (pc.toNat % 2 ^ 57 + 8 * k) c (pc.toNat / 2 ^ 57 * 2 ^ 57 + (pc.toNat % 2 ^ 57 + 8 * k))).1 = none → (fetchWord s c asid pc k).1 = .fault 11)
    ∧ (∀ e, pc.toNat < 2 ^ 61 → pc.toNat % 2 ^ 57 + 8 * k < 2 ^ 57 →
        (translate s (dieOf c) asid (pc.toNat % 2 ^ 57 + 8 * k) c (pc.toNat / 2 ^ 57 * 2 ^ 57 + (pc.toNat % 2 ^ 57 + 8 * k))).1 = some e → e.leaf.x = false →
        (fetchWord s c asid pc k).1 = .fault 6))

/-- A pass that was interrupted goes on with the instruction it began with, whatever memory holds now (log entry 17, the model's
choice).

What stands first on the agenda, by which the world outside acts on the machine (log entry 2, the model's choice), is what the
next step performs; a request of the host or of a peer joins those that wait for their place in the tick.

No step is refused, and a step faults only when the device has no power and nothing on its agenda. -/
def Obligations.StepOrder : Prop :=
  (∀ (s : State) (r : FragRef) (i : Instr), s.agenda = [] → s.powered = true → s.cur = some r → (s.frag r).mid = true →
    (s.frag r).instr = some i → step s = exec i { s with follow := (s.frag r).follow })
  ∧ (∀ (s : State) (i : Instr) (rest : List Instr), s.agenda = i :: rest → s.powered = true → i.isEvent = true →
    (isRequest i = false → step s = exec i { s with agenda := rest })
    ∧ (isRequest i = true → step s = .next { s with agenda := rest, inbox := s.inbox ++ [i] }))
  ∧ (∀ s : State, (∃ t, step s = .next t) ∨ (step s = .fault .poweredOff ∧ s.powered = false ∧ s.agenda = []))

/-! ## Invariants -/

/-- The canonical form of physical and of local memory at reset. -/
def Obligations.ResetMemoryOk : Prop := MemoryOk State.reset ∧ LocalMemoryOk State.reset

/-- Every step keeps the canonical form of physical memory.

Every step keeps the canonical form of the teams' local memories. -/
def Obligations.StepKeepsMemoryForm : Prop :=
  (∀ s t : State, MemoryOk s → step s = .next t → MemoryOk t)
  ∧ (∀ s t : State, LocalMemoryOk s → step s = .next t → LocalMemoryOk t)

/-- R222, R223: physical memory changes in one way only: a store that is pending at the home of a line becomes visible. No
other step, of an instruction or of an engine, changes a byte of it. -/
def Obligations.OnlyVisibleStoresChangeMemory : Prop :=
  ∀ (i : Instr) (s t : State), (∀ line, i ≠ .storeVisible line) → i ≠ .powerOff → i ≠ .powerOnReset → exec i s = .next t →
    ∀ a : Nat, Memory.read t.mem a = Memory.read s.mem a

/-! ## Arithmetic (opcodes 0x00 to 0x37) -/

/-- R49, R82: the strand form of every arithmetic instruction but QBLK. Each active strand whose sources are full and
whose destinations can be written reads its sources, and takes the operation's results in its own registers and
predicates; the flags of all are collected; the pass charges its weight for each strand that executes and goes on at the
next instruction. Nothing else changes.

R49, R82, R84: the uniform form runs once, for the reference slot. Its k register takes the result, and its predicates
are written in every strand of M. When the guard does not hold there, nothing is written or charged. -/
def Obligations.AluForms : Prop :=
  (∀ (i : Instr) (op : AluOp) (f : FmtA) (tb : Byte) (s : State) (r : FragRef),
    i.alu? = some (op, f, tb) → op ≠ .qblk → f.u = false → Starts s r → Arrives s r i → Distinct s r →
    (∀ sl ∈ activeSlots s r f.guard f.gn 0, SourcesReady s r sl (aluSources op f) ∧ VDestReady s r sl (vDests op f)) →
    let act := activeSlots s r f.guard f.gn 0
    let out (sl : Nat) : Outs := aluVal op f tb (readIns s r sl op f).1
    ∃ t, exec i s = .next t
      ∧ Completes s t r i (nextPc (s.frag r) i) (weightOf op.code * typeFactor op.code f.ty * act.length)
      ∧ Counted s t r act.length 0
      ∧ KSame s t r []
      ∧ (t.group r.core r.hslot).flags = act.foldl (fun x sl => x ||| (out sl).flags) (s.group r.core r.hslot).flags
      ∧ (∀ sl ∈ act, t.strand r.core (s.group r.core r.hslot).team (sidAt s r sl) =
          (s.strand r.core (s.group r.core r.hslot).team (sidAt s r sl)).write (s.frag r).wbase (outRegs op f (out sl)) (out sl).p)
      ∧ StrandsSame s t r (act.map (sidAt s r)))
  ∧ (∀ (i : Instr) (op : AluOp) (f : FmtA) (tb : Byte) (s : State) (r : FragRef),
    i.alu? = some (op, f, tb) → op ≠ .qblk → f.u = true → Starts s r → Arrives s r i → Distinct s r →
    SourcesReady s r (s.frag r).refSlot (aluSources op f) → (writesReg op f = true → KDestReady s r f.d.toNat) →
    let out := aluVal op f tb (readIns s r (s.frag r).refSlot op f).1
    let go := guardHolds (strandAt s r (s.frag r).refSlot) f.guard f.gn
    ∃ t, exec i s = .next t
      ∧ Completes s t r i (nextPc (s.frag r) i) (if go then weightOf op.code else 0)
      ∧ Counted s t r 0 (if go then 1 else 0)
      ∧ (t.group r.core r.hslot).flags = (if go then (s.group r.core r.hslot).flags ||| out.flags else (s.group r.core r.hslot).flags)
      ∧ (∀ v, go = true → writesReg op f = true → out.d = some v → t.kreg r.core r.hslot f.d.toNat = { val := v })
      ∧ KSame s t r (if go && writesReg op f && out.d.isSome then [f.d.toNat] else [])
      ∧ (∀ sl ∈ slotsOf (s.frag r).m, t.strand r.core (s.group r.core r.hslot).team (sidAt s r sl) =
          (s.strand r.core (s.group r.core r.hslot).team (sidAt s r sl)).write (s.frag r).wbase [] (if go then out.p else []))
      ∧ StrandsSame s t r ((slotsOf (s.frag r).m).map (sidAt s r)))

/-- R55: a strand that finds a source empty parks without that strand's effect when the source's empty-action bit is 0, and
raises EMPTY-READ (cause 3, with the register in %faddr) when it is 1; a destination whose fill is pending parks it whatever the
empty-action bits. Stated for the strand form of ADD and its source a, at the first active strand, with the other operands ready
(what happens when several are not is log entry 44).

R55, R215, R216: MOV from a port in the uniform form takes the head of the queue, and the group receives the clock of the
group that pushed it (R328); its k register is empty until the value, which is on its way, fills it; the fragment goes over to
the region of the REGION that follows (R168).

R215, R216: a uniform MOV to a port puts the value at the tail of the queue, where there is room, with the group's
clock after its event (R328), to be popped no earlier than 4 cycles later; the fragment goes over to the region of the REGION
that follows (R168). -/
def Obligations.EmptySourcesAndPorts : Prop :=
  (∀ (f : FmtA) (s : State) (r : FragRef) (sl : Nat) (rest : List Nat),
    f.u = false → f.ka = false → f.ty = .i32 → Starts s r → activeSlots s r f.guard f.gn 0 = sl :: rest →
    (∀ y ∈ (srcB .add f).toList, SourcesReady s r sl [y]) →
    let reg (n : Nat) : VReg := s.vreg r.core (s.group r.core r.hslot).team (sidAt s r sl) ((s.frag r).wbase + n)
    let parks (w : Wait) : Prop := ∃ t, exec (.add f) s = .next t ∧ (t.frag r).mid = true ∧ (t.frag r).resume = sl
      ∧ (t.frag r).pc = (s.frag r).pc ∧ (t.frag r).wait = w ∧ StrandsSame s t r [] ∧ KSame s t r [] ∧ FlagsSame s t r
    (VDestReady s r sl [f.d.toNat] → (reg f.a.toNat).full = false →
      (f.ea = false → parks (parkOn s r sl (aluSources .add f)))
      ∧ (f.ea = true → NoFault s r →
        ∃ t x, exec (.add f) s = .next t ∧ (t.group r.core r.hslot).fault = some x ∧ x.cause = 3 ∧ x.fslot = sl
          ∧ x.fpc = (s.frag r).pc ∧ x.faddr = regAddr false f.a.toNat ∧ StrandsSame s t r [] ∧ FlagsSame s t r))
    ∧ ((∀ y ∈ (srcA .add f).toList, SourcesReady s r sl [y]) → vLive (s.frag r) ((s.frag r).wbase + f.d.toNat) = false →
      (reg f.d.toNat).full = false →
      parks (.regs (sidAt s r sl) [(s.frag r).wbase + f.d.toNat] [])))
  ∧ (∀ (f : FmtA) (s : State) (r : FragRef) (e : QEntry) (rest : List QEntry),
    f.u = true → f.lit = none → 56 ≤ f.b.toNat → Starts s r → Unmerged s r (nextPc (s.frag r) (.mov f)) →
    guardHolds (strandAt s r (s.frag r).refSlot) f.guard f.gn = true → KDestReady s r f.d.toNat →
    queueOf (s.teamOf r.core r.hslot) (f.b.toNat - 56) = e :: rest →
    checkPorts s r (aluSources .mov f) = none → ((s.core r.core).regs.get 0 0x408).getLsbD 7 = false →
    ∀ (kl : BitVec 56) (vl : W64), s.follow = some (kl, vl) →
    ∃ t, exec (.mov f) s = .next t ∧ queueOf (t.teamOf r.core r.hslot) (f.b.toNat - 56) = rest
      ∧ (t.kreg r.core r.hslot f.d.toNat).full = false
      ∧ (∃ q ∈ t.fills, q.core = r.core ∧ q.hslot = r.hslot ∧ q.uni = true ∧ q.pos = f.d.toNat ∧ q.words = [copyBits f.ty e.val])
      ∧ KSame s t r [f.d.toNat] ∧ StrandsSame s t r []
      ∧ (t.group r.core r.hslot).lclk = (Nat.max (s.group r.core r.hslot).lclk e.clk + 1) % 2 ^ 64
      ∧ (t.frag r).pc = nextPc (s.frag r) (.mov f) ∧ (t.frag r).mid = false ∧ (t.frag r).wait = .ready
      ∧ (t.frag r).region.klive = kl ∧ (t.frag r).region.vlive = vl ∧ (t.frag r).region.base = (s.frag r).wbase)
  ∧ (∀ (f : FmtA) (s : State) (r : FragRef),
    f.u = true → 56 ≤ f.d.toNat → Starts s r → Unmerged s r (nextPc (s.frag r) (.mov f)) →
    guardHolds (strandAt s r (s.frag r).refSlot) f.guard f.gn = true → SourcesReady s r (s.frag r).refSlot (aluSources .mov f) →
    checkKDest s r (s.frag r).refSlot [f.d.toNat] (aluSources .mov f) = none →
    ((s.core r.core).regs.get 0 0x408).getLsbD 6 = false →
    ∀ (kl : BitVec 56) (vl : W64), s.follow = some (kl, vl) →
    ∃ t e, exec (.mov f) s = .next t
      ∧ queueOf (t.teamOf r.core r.hslot) (f.d.toNat - 56) = queueOf (s.teamOf r.core r.hslot) (f.d.toNat - 56) ++ [e]
      ∧ e.val = copyBits f.ty (readIns s r (s.frag r).refSlot .mov f).1.b
      ∧ e.clk = ((s.group r.core r.hslot).lclk + 1) % 2 ^ 64 ∧ (s.core r.core).cycle + 4 ≤ e.at_
      ∧ KSame s t r [] ∧ StrandsSame s t r [] ∧ (t.frag r).pc = nextPc (s.frag r) (.mov f) ∧ (t.frag r).mid = false
      ∧ (t.frag r).region.klive = kl ∧ (t.frag r).region.vlive = vl ∧ (t.frag r).region.base = (s.frag r).wbase)

/-- R89, R91: the 32-bit integer operations in the wrapping modes (0 to 4 of R64), as arithmetic on 32-bit words; `aluVal` is what
the forms above write.

R62, R89, R91: the 64-bit integer operations in the wrapping modes, as arithmetic on 64-bit words.

R62, R64: of every integer type a wrapping ADD, SUB, MUL, MAD, NEG or ABS delivers the exact result modulo 2^w, without a flag; a
saturating one (modes 5 and 6) the nearest value of its type, with the saturate flag (bit 4) exactly when the exact result lies
outside the type.

R65, R66: in every mode a sum, difference, product or fused product of f32, f16 or bf16 with a NaN among a and b is the canonical NaN, without
a flag. -/
def Obligations.ArithmeticResults : Prop :=
  (∀ (f : FmtA) (tb : Byte) (x : Ins), (f.ty = .i32 ∨ f.ty = .n32) → f.mode ∈ [Mode.rne, .rtz, .rdn, .rup, .rna] →
    let a : W32 := x.a.truncate 32
    let b : W32 := x.b.truncate 32
    let c : W32 := x.c.truncate 32
    let res (op : AluOp) : Option W32 := (aluVal op f tb x).d.map (fun v => v.truncate 32)
    let le : Bool := if f.ty = .i32 then a.sle b else a.ule b
    res .mov = some b ∧ res .add = some (a + b) ∧ res .sub = some (a - b) ∧ res .mul = some (a * b)
    ∧ res .mad = some (a * b + c) ∧ res .neg = some (-a)
    ∧ res .mulh = some (if f.ty = .i32 then ((a.signExtend 64 * b.signExtend 64) >>> 32).truncate 32
        else ((a.zeroExtend 64 * b.zeroExtend 64) >>> 32).truncate 32)
    ∧ res .min = some (if le then a else b) ∧ res .max = some (if le then b else a)
    ∧ res .abs = some (if f.ty = .i32 ∧ a.slt 0 then -a else a)
    ∧ res .and = some (a &&& b) ∧ res .or = some (a ||| b) ∧ res .xor = some (a ^^^ b) ∧ res .andn = some (a &&& ~~~b)
    ∧ res .sel = some (if x.q.getLsbD (f.c.toNat % 16) then a else b)
    ∧ ∀ op ∈ [AluOp.add, .sub, .mul, .mad, .neg, .mulh, .min, .max, .abs, .and, .or, .xor, .andn],
        (aluVal op f tb x).flags = 0 ∧ (aluVal op f tb x).p = [])
  ∧ (∀ (f : FmtA) (tb : Byte) (x : Ins), (f.ty = .i64 ∨ f.ty = .n64) → f.mode ∈ [Mode.rne, .rtz, .rdn, .rup, .rna] →
    let res (op : AluOp) : Option W64 := (aluVal op f tb x).d
    let le : Bool := if f.ty = .i64 then x.a.sle x.b else x.a.ule x.b
    res .mov = some x.b ∧ res .add = some (x.a + x.b) ∧ res .sub = some (x.a - x.b) ∧ res .mul = some (x.a * x.b)
    ∧ res .mad = some (x.a * x.b + x.c) ∧ res .neg = some (-x.a) ∧ res .min = some (if le then x.a else x.b)
    ∧ res .max = some (if le then x.b else x.a) ∧ res .abs = some (if f.ty = .i64 ∧ x.a.slt 0 then -x.a else x.a)
    ∧ res .and = some (x.a &&& x.b) ∧ res .or = some (x.a ||| x.b) ∧ res .xor = some (x.a ^^^ x.b)
    ∧ res .andn = some (x.a &&& ~~~x.b))
  ∧ (∀ (f : FmtA) (tb : Byte) (x : Ins) (op : AluOp) (e : Int), f.ty ∈ [Ty.i8, .i16, .i32, .i64, .n8, .n16, .n32, .n64] →
    let a := Num.intOf f.ty x.a
    let b := Num.intOf f.ty x.b
    (op, e) ∈ [(AluOp.add, a + b), (.sub, a - b), (.mul, a * b), (.mad, a * b + Num.intOf f.ty x.c), (.neg, -a),
      (.abs, if a < 0 then -a else a)] →
    ∃ v, (aluVal op f tb x).d = some v
      ∧ (f.mode ∈ [Mode.rne, .rtz, .rdn, .rup, .rna] →
          (Num.intOf f.ty v - e) % (2 ^ f.ty.width : Nat) = 0 ∧ (aluVal op f tb x).flags = 0)
      ∧ (f.mode ∈ [Mode.satRne, .satRtz] →
          Num.intOf f.ty v = (if e < Num.intMin f.ty then Num.intMin f.ty else if Num.intMax f.ty < e then Num.intMax f.ty else e)
          ∧ (aluVal op f tb x).flags = (if e < Num.intMin f.ty ∨ Num.intMax f.ty < e then 0x10 else 0)))
  ∧ (∀ (f : FmtA) (tb : Byte) (x : Ins) (nan : W64), (f.ty, nan) ∈ [(Ty.f32, 0x7FC00000#64), (.f16, 0x7E00), (.bf16, 0x7FC0)] →
    (Num.fval f.ty (x.a.toNat % 2 ^ f.ty.width) = .nan ∨ Num.fval f.ty (x.b.toNat % 2 ^ f.ty.width) = .nan) →
    ∀ op ∈ [AluOp.fadd, .fsub, .fmul, .ffma], (aluVal op f tb x).d = some nan ∧ (aluVal op f tb x).flags = 0)

/-- R93: the shifts and the rotation on the w bits of every integer type, bit by bit, for every count; the count is one
register. That of a 64-bit literal or k register is the natural value of its low 32 bits, which is the model's choice (log entry
39). -/
def Obligations.ShiftResults : Prop :=
  ∀ (f : FmtA) (tb : Byte) (x : Ins),
    f.ty ∈ [Ty.i8, .i16, .i32, .i64, .n8, .n16, .n32, .n64] →
    let w := f.ty.width
    let n := x.b.toNat % 2 ^ 32
    let bit (op : AluOp) (j : Nat) : Bool := ((aluVal op f tb x).d.getD 0).getLsbD j
    (∀ j < w, bit .shl j = (decide (n ≤ j) && x.a.getLsbD (j - n))
      ∧ bit .shr j = (decide (j + n < w) && x.a.getLsbD (j + n))
      ∧ bit .sar j = x.a.getLsbD (if j + n < w then j + n else w - 1)
      ∧ bit .rot j = x.a.getLsbD ((j + w - n % w) % w))
    ∧ ∀ op ∈ [AluOp.shl, .shr, .sar, .rot], ∀ y ∈ (srcB op f).toList, y.pair = false

/-- R94: BFX gives the field of the type's value, as a two's-complement number of len bits for i types; BFI replaces the
bits of the field that lie below w. -/
def Obligations.BitFields : Prop :=
  ∀ (f : FmtA) (tb : Byte) (x : Ins),
    f.ty ∈ [Ty.i8, .i16, .i32, .i64, .n8, .n16, .n32, .n64] →
    let w := f.ty.width
    let pos := x.b.toNat % 256
    let len := x.b.toNat / 256 % 256
    let fld : Int := Int.fdiv (Num.intOf f.ty x.a) (2 ^ pos) % 2 ^ len
    let v : Int := if f.ty.signed = true ∧ 2 ^ len ≤ 2 * fld then fld - 2 ^ len else fld
    ((aluVal .bfx f tb x).flags = 0)
    ∧ (1 ≤ len → ((((aluVal .bfx f tb x).d.getD 0).toNat : Int) - v) % 2 ^ w = 0)
    ∧ (len = 0 → (aluVal .bfx f tb x).d = some 0)
    ∧ ∀ j < w, ((aluVal .bfi f tb x).d.getD 0).getLsbD j =
        (if pos ≤ j ∧ j < pos + len then x.a.getLsbD (j - pos) else x.c.getLsbD j)

/-- R95: POPC, CLZ, CTZ and FNSB give their count or index as an n32 in one register, and BREV the w bits reversed. -/
def Obligations.BitCounts : Prop :=
  ∀ (f : FmtA) (tb : Byte) (x : Ins),
    f.ty ∈ [Ty.i8, .i16, .i32, .i64, .n8, .n16, .n32, .n64] →
    let w := f.ty.width
    let up : List Nat := (List.range w).filter (fun j => x.a.getLsbD j)
    let n := x.b.toNat % 2 ^ 32
    let res (op : AluOp) : Nat := ((aluVal op f tb x).d.getD 0).toNat
    (res .popc = up.length)
    ∧ (up = [] → res .clz = w ∧ res .ctz = w)
    ∧ (∀ k < w, x.a.getLsbD k = true → (∀ j < w, k < j → x.a.getLsbD j = false) → res .clz = w - 1 - k)
    ∧ (∀ k < w, x.a.getLsbD k = true → (∀ j < k, x.a.getLsbD j = false) → res .ctz = k)
    ∧ (f.fn = 0 → res .fnsb = up.getD n 0xFFFFFFFF)
    ∧ (f.fn = 1 → res .fnsb = up.reverse.getD n 0xFFFFFFFF)
    ∧ (∀ j < w, ((aluVal .brev f tb x).d.getD 0).getLsbD j = x.a.getLsbD (w - 1 - j))
    ∧ (∀ op ∈ [AluOp.popc, .clz, .ctz, .fnsb], vDests op f = [f.d.toNat] ∧ (aluVal op f tb x).p = [])
    ∧ (∀ y ∈ (srcB .fnsb f).toList, y.pair = false)
    ∧ vDests .brev f = (if w = 64 then [f.d.toNat, f.d.toNat + 1] else [f.d.toNat])

/-- R97, R98: SEL copies a where Q(c) holds and b elsewhere, bit for bit, whatever its type. PLOG gives its predicate bit
2 Q(a) + Q(b) of the table in fn. q15 as a source reads true. -/
def Obligations.SelectAndTable : Prop :=
  ∀ (f : FmtA) (tb : Byte) (x : Ins),
    let q (i : BitVec 6) : Bool := x.q.getLsbD (i.toNat % 16)
    (f.ty.width = 64 → (aluVal .sel f tb x).d = some (if q f.c then x.a else x.b))
    ∧ (f.ty.width ≤ 32 → ∃ v, (aluVal .sel f tb x).d = some v
        ∧ ∀ j < f.ty.width, v.getLsbD j = (if q f.c then x.a else x.b).getLsbD j)
    ∧ (aluVal .sel f tb x).flags = 0
    ∧ (aluVal .plog f tb x).p = [(f.d.toNat, f.fn.getLsbD ((if q f.a then 2 else 0) + (if q f.b then 1 else 0)))]
    ∧ (aluVal .plog f tb x).d = none
    ∧ ∀ (s : State) (r : FragRef) (sl : Nat), (readIns s r sl .plog f).1.q.getLsbD 15 = true
        ∧ ∀ j < 15, (readIns s r sl .plog f).1.q.getLsbD j = (strandAt s r sl).preds.getLsbD j

/-- R101: FMIN and FMAX give the smaller and the larger operand, −0 below +0; with one NaN operand the other one, with two the
canonical NaN; they set no flag. On the packed types this holds of each element. -/
def Obligations.MinMaxResults : Prop :=
  ∀ (f : FmtA) (tb : Byte) (x : Ins) (et : Ty) (ew n nan : Nat),
    (f.ty, et, ew, n, nan) ∈ [(Ty.f32, Ty.f32, 32, 1, 0x7FC00000), (.f16, .f16, 16, 1, 0x7E00), (.bf16, .bf16, 16, 1, 0x7FC0),
      (.h2, .f16, 16, 2, 0x7E00), (.bh2, .bf16, 16, 2, 0x7FC0)] →
    let code (v : W64) (k : Nat) : Nat := v.toNat / 2 ^ (ew * k) % 2 ^ ew
    let val (c : Nat) : Num.FVal := Num.fval et c
    let below (c d : Nat) : Prop := Num.cmpF (val c) (val d) = some .lt
      ∨ (Num.cmpF (val c) (val d) = some .eq ∧ Num.signOf (val c) = true ∧ Num.signOf (val d) = false)
    (∀ op ∈ [AluOp.fmin, .fmax], (aluVal op f tb x).flags = 0)
    ∧ ∀ k < n, ∀ op ∈ [AluOp.fmin, .fmax],
      let a := code x.a k
      let b := code x.b k
      let res := code ((aluVal op f tb x).d.getD 0) k
      (val a = .nan → val b = .nan → res = nan) ∧ (val a = .nan → val b ≠ .nan → res = b) ∧ (val a ≠ .nan → val b = .nan → res = a)
      ∧ (val a ≠ .nan → val b ≠ .nan → (res = a ∨ res = b)
          ∧ (op = .fmin → (below a b → res = a) ∧ (below b a → res = b))
          ∧ (op = .fmax → (below a b → res = b) ∧ (below b a → res = a)))

/-- R90, R96, R98, R99: what the instructions that write predicates write.

R92: BLUT's bit i is bit 4 c + 2 b + a of its table for the bits i of its sources, over 32 bits with fn 0 and 64 with fn 1;
its table stands in bits [19:12] of its word. -/
def Obligations.PredicateAndTableResults : Prop :=
  (∀ (f : FmtA) (tb : Byte) (x : Ins),
    let a : W32 := x.a.truncate 32
    let b : W32 := x.b.truncate 32
    let cin : Nat := if x.q.getLsbD (f.c.toNat % 16) then 1 else 0
    (f.ty = .i32 → (aluVal .cmp f tb x).p =
      [(f.d.toNat, match f.fn.toNat with
        | 0 => a == b | 1 => a != b | 2 => a.slt b | 3 => a.sle b | 4 => b.slt a | _ => b.sle a)])
    ∧ (f.ty = .n32 → (aluVal .cmp f tb x).p =
      [(f.d.toNat, match f.fn.toNat with
        | 0 => a == b | 1 => a != b | 2 => a.ult b | 3 => a.ule b | 4 => b.ult a | _ => b.ule a)])
    ∧ (aluVal .plog f tb x).p = [(f.d.toNat, f.fn.getLsbD ((if x.q.getLsbD (f.a.toNat % 16) then 2 else 0)
        + (if x.q.getLsbD (f.b.toNat % 16) then 1 else 0)))]
    ∧ (f.ty = .n32 → (aluVal .addc f tb x).d.map (fun v => v.truncate 32) = some (a + b + .ofNat 32 cin)
        ∧ (f.c.toNat < 15 → (aluVal .addc f tb x).p = [(f.c.toNat, decide (2 ^ 32 ≤ a.toNat + b.toNat + cin))])
        ∧ (15 ≤ f.c.toNat → (aluVal .addc f tb x).p = []))
    ∧ (f.ty = .n32 → (aluVal .subb f tb x).d.map (fun v => v.truncate 32) = some (a - b - .ofNat 32 cin)
        ∧ (f.c.toNat < 15 → (aluVal .subb f tb x).p = [(f.c.toNat, decide (a.toNat < b.toNat + cin))]))
    ∧ (f.fn = 0 → (aluVal .pmov f tb x).p = [(f.d.toNat, a != 0)])
    ∧ (f.fn = 1 → (aluVal .pmov f tb x).d = some (if x.q.getLsbD (f.a.toNat % 16) then 1 else 0))
    ∧ (f.fn = 2 → (aluVal .pmov f tb x).d = some ((x.q ||| 0x8000#16).zeroExtend 64))
    ∧ (f.fn = 3 → ∀ j < 15, (j, a.getLsbD j) ∈ (aluVal .pmov f tb x).p))
  ∧ ((∀ (f : FmtA) (tb : Byte) (x : Ins), (f.fn = 0 ∨ f.fn = 1) →
    let w := if f.fn = 0 then 32 else 64
    ∃ v, (aluVal .blut f tb x).d = some v
      ∧ (∀ j < w, v.getLsbD j =
        tb.getLsbD ((if x.c.getLsbD j then 4 else 0) + (if x.b.getLsbD j then 2 else 0) + (if x.a.getLsbD j then 1 else 0)))
      ∧ (∀ j, w ≤ j → v.getLsbD j = false))
  ∧ ∀ (f : FmtA) (tb : Byte) (win : Nat) (w : W64) (ws : List W64), decode win (w :: ws) = .ok (.blut f tb) →
      w.toNat / 2 ^ 12 % 256 = tb.toNat ∧ w.toNat / 256 % 16 = f.fn.toNat ∧ f.fn.toNat < 2 ∧ w.toNat % 256 = 0 ∧ f.lit = none)

/-- R79, R106: QBLK. When every active strand can read its four registers and write its word, and the scale's k register can
be written, the scale goes there, each active strand takes its four or eight quantised elements in one word, and the pass
goes on at the next instruction. -/
def Obligations.QblkCompletes : Prop :=
  ∀ (f : FmtA) (s : State) (r : FragRef), Starts s r → Arrives s r (.qblk f) → Distinct s r →
    (∀ sl ∈ activeSlots s r f.guard f.gn 0,
      SourcesReady s r sl ((List.range 4).map (fun j => { isK := false, num := f.a.toNat + j, trap := f.ea }))
        ∧ VDestReady s r sl [f.d.toNat]) →
    KDestReady s r f.b.toNat →
    let act := activeSlots s r f.guard f.gn 0
    let elems (sl : Nat) : List Num.FVal := (List.range 4).map (fun j =>
      Num.fval .f32 (s.vreg r.core (s.group r.core r.hslot).team (sidAt s r sl) ((s.frag r).wbase + f.a.toNat + j)).val.toNat)
    let q := if f.ty = .i8 then 127 else 7
    let w := if f.ty = .i8 then 8 else 4
    let scale := (qScale ((act.map (fun sl => (elems sl).map magnitude)).flatten.foldl fracMax (0, 1)) q).1
    ∃ t, exec (.qblk f) s = .next t
      ∧ Completes s t r (.qblk f) (nextPc (s.frag r) (.qblk f)) (4 * act.length)
      ∧ (act ≠ [] → t.kreg r.core r.hslot f.b.toNat = { val := .ofNat 64 scale })
      ∧ KSame s t r (if act = [] then [] else [f.b.toNat])
      ∧ (∀ sl ∈ act, t.strand r.core (s.group r.core r.hslot).team (sidAt s r sl) =
          (s.strand r.core (s.group r.core r.hslot).team (sidAt s r sl)).write (s.frag r).wbase
            [(f.d.toNat, .ofNat 32 ((((elems sl).map (qElem q scale)).zipIdx.map
              (fun p => (Int.emod p.1.1 (2 ^ w)).toNat * 2 ^ (w * p.2))).foldl (· + ·) 0))] [])
      ∧ StrandsSame s t r (act.map (sidAt s r))

/-! ## Control flow (R113, R123 to R130) -/

/-- R113, R123: BR in a group that is not divided. Every active strand goes on at the target and every other member at the
next instruction, whether or not the fragment splits; each keeps its place in E or out of it, and no register changes.

R123: BRU takes every member to the target when its kind holds over the strands of E (1 any, 2 all, 3 none, 0 always),
and to the next instruction when it does not. -/
def Obligations.Branches : Prop :=
  (∀ (f : FmtB) (s : State) (r : FragRef), Starts s r → Undivided s r → (s.frag r).succs = [] →
    let act := activeSlots s r f.guard f.gn 0
    ∃ t, exec (.br f) s = .next t ∧ RegistersSame s t r ∧ Counted s t r act.length 0
      ∧ ∀ sl ∈ slotsOf (s.frag r).m,
        StandsAt t r sl (if sl ∈ act then branchTarget (s.frag r).pc f.offset else nextPc (s.frag r) (.br f)) (s.frag r).wbase
          ((s.frag r).e.getLsbD sl))
  ∧ (∀ (f : FmtB) (s : State) (r : FragRef), Starts s r →
    let hold (sl : Nat) : Bool := guardHolds (strandAt s r sl) f.guard f.gn
    let taken : Bool := match f.kind.toNat with
      | 0 => true
      | 1 => (slotsOf (s.frag r).e).any hold
      | 2 => (slotsOf (s.frag r).e).all hold
      | _ => !(slotsOf (s.frag r).e).any hold
    let pc := if taken then branchTarget (s.frag r).pc f.offset else nextPc (s.frag r) (.bru f)
    Unmerged s r pc →
    ∃ t, exec (.bru f) s = .next t ∧ Completes s t r (.bru f) pc 1 ∧ Counted s t r 0 1 ∧ RegistersSame s t r)

/-- R124: JMPI in the uniform form goes to the address of its k register, which is a multiple of 8 below 2^61; a register
that holds anything else takes ADDRESS (4) or ALIGN (5).

R113, R124: JMPI in the strand form takes each active strand to the address its pair holds. -/
def Obligations.IndirectJumps : Prop :=
  (∀ (f : FmtA) (s : State) (r : FragRef), f.u = true → Starts s r →
    guardHolds (strandAt s r (s.frag r).refSlot) f.guard f.gn = true → SourcesReady s r (s.frag r).refSlot [targetSrc f] →
    let tgt := (s.kreg r.core r.hslot f.a.toNat).val
    (tgt.toNat < 2 ^ 61 → tgt.toNat % 8 = 0 → Unmerged s r tgt →
      ∃ t, exec (.jmpi f) s = .next t ∧ Completes s t r (.jmpi f) tgt 1 ∧ Counted s t r 0 1 ∧ RegistersSame s t r)
    ∧ (NoFault s r → (2 ^ 61 ≤ tgt.toNat ∨ tgt.toNat % 8 ≠ 0) →
      ∃ t x, exec (.jmpi f) s = .next t ∧ (t.group r.core r.hslot).fault = some x
        ∧ x.cause = (if 2 ^ 61 ≤ tgt.toNat then 4 else 5) ∧ x.faddr = tgt ∧ x.fpc = (s.frag r).pc))
  ∧ (∀ (f : FmtA) (s : State) (r : FragRef), f.u = false → Starts s r → Undivided s r → (s.frag r).succs = [] → Distinct s r →
    let act := activeSlots s r f.guard f.gn 0
    let tgt (sl : Nat) : W64 := (readSource s r sl (targetSrc f)).1
    (∀ sl ∈ act, SourcesReady s r sl [targetSrc f] ∧ (tgt sl).toNat < 2 ^ 61 ∧ (tgt sl).toNat % 8 = 0) →
    ∃ t, exec (.jmpi f) s = .next t ∧ RegistersSame s t r ∧ Counted s t r act.length 0
      ∧ ∀ sl ∈ slotsOf (s.frag r).m,
        StandsAt t r sl (if sl ∈ act then tgt sl else nextPc (s.frag r) (.jmpi f)) (s.frag r).wbase ((s.frag r).e.getLsbD sl))

/-- R54, R125, R126: CALL, and CALLI in the uniform form, for every member: the link, with the PC of the next instruction and
n / 8, goes to the registers n − 2 and n − 1 of the window, which slides by n, and all go on at the target.

R54: a CALL whose window would pass the end of the register stack raises STACK-LIMIT (cause 10) with nothing written.

R113, R126: CALLI in the strand form: each active strand writes its link and goes to the address its pair holds with its
window slid by n; the others go on at the next instruction.

R127: RET takes each member to the address of its link, and its window back by the 8 n that the link holds. A window
base of 0 raises STACK-LIMIT (cause 10). -/
def Obligations.CallsAndReturns : Prop :=
  (∀ (i : Instr) (n : Nat) (tgt : W64) (s : State) (r : FragRef), Starts s r → Distinct s r → 8 ≤ n →
    ((∃ f : FmtB, i = .call f ∧ n = 8 * f.kind.toNat ∧ tgt = branchTarget (s.frag r).pc f.offset
        ∧ guardHolds (strandAt s r (s.frag r).refSlot) f.guard f.gn = true)
      ∨ (∃ f : FmtA, i = .calli f ∧ f.u = true ∧ n = 8 * f.fn.toNat ∧ tgt = (s.kreg r.core r.hslot f.a.toNat).val
        ∧ SourcesReady s r (s.frag r).refSlot [targetSrc f] ∧ tgt.toNat < 2 ^ 61 ∧ tgt.toNat % 8 = 0
        ∧ guardHolds (strandAt s r (s.frag r).refSlot) f.guard f.gn = true)) →
    stackLimit s r n = false → (∀ sl ∈ slotsOf (s.frag r).m, VDestReady s r sl [n - 2, n - 1]) →
    let nf : Frag := { s.passedAt r tgt with wbase := (s.frag r).wbase + n, xpc := (s.frag r).pc, xword := word0 i }
    UnmergedAs s r nf →
    let link := linkWord (nextPc (s.frag r) i) (n / 8)
    ∃ t, exec i s = .next t ∧ CompletesTo s t r nf (slotsOf (s.frag r).m).length ∧ Folded s t r i
      ∧ Counted s t r (slotsOf (s.frag r).m).length 0 ∧ KSame s t r [] ∧ FlagsSame s t r
      ∧ (∀ sl ∈ slotsOf (s.frag r).m, t.strand r.core (s.group r.core r.hslot).team (sidAt s r sl) =
          (s.strand r.core (s.group r.core r.hslot).team (sidAt s r sl)).write (s.frag r).wbase
            [(n - 2, link.truncate 32), (n - 1, (link >>> 32).truncate 32)] [])
      ∧ StrandsSame s t r ((slotsOf (s.frag r).m).map (sidAt s r)))
  ∧ (∀ (f : FmtB) (s : State) (r : FragRef), Starts s r → NoFault s r → stackLimit s r (8 * f.kind.toNat) = true →
    guardHolds (strandAt s r (s.frag r).refSlot) f.guard f.gn = true →
    ∃ t x, exec (.call f) s = .next t ∧ (t.group r.core r.hslot).fault = some x ∧ x.cause = 10 ∧ x.fpc = (s.frag r).pc
      ∧ StrandsSame s t r [] ∧ FlagsSame s t r)
  ∧ (∀ (f : FmtA) (s : State) (r : FragRef), f.u = false → Starts s r → Undivided s r → (s.frag r).succs = [] → Distinct s r →
    f.fn ≠ 0 → stackLimit s r (8 * f.fn.toNat) = false →
    let act := activeSlots s r f.guard f.gn 0
    let n := 8 * f.fn.toNat
    let tgt (sl : Nat) : W64 := (readSource s r sl (targetSrc f)).1
    let link := linkWord (nextPc (s.frag r) (.calli f)) (n / 8)
    (∀ sl ∈ act, SourcesReady s r sl [targetSrc f] ∧ (tgt sl).toNat < 2 ^ 61 ∧ (tgt sl).toNat % 8 = 0
      ∧ VDestReady s r sl [n - 2, n - 1]) →
    ∃ t, exec (.calli f) s = .next t ∧ Counted s t r act.length 0 ∧ KSame s t r [] ∧ FlagsSame s t r
      ∧ (∀ sl ∈ act, t.strand r.core (s.group r.core r.hslot).team (sidAt s r sl) =
          (s.strand r.core (s.group r.core r.hslot).team (sidAt s r sl)).write (s.frag r).wbase
            [(n - 2, link.truncate 32), (n - 1, (link >>> 32).truncate 32)] [])
      ∧ StrandsSame s t r (act.map (sidAt s r))
      ∧ ∀ sl ∈ slotsOf (s.frag r).m,
        StandsAt t r sl (if sl ∈ act then tgt sl else nextPc (s.frag r) (.calli f))
          (if sl ∈ act then (s.frag r).wbase + n else (s.frag r).wbase) ((s.frag r).e.getLsbD sl))
  ∧ (∀ (f : FmtA) (s : State) (r : FragRef), Starts s r →
    let wb := (s.frag r).wbase
    let reg (sl p : Nat) : VReg := s.vreg r.core (s.group r.core r.hslot).team (sidAt s r sl) p
    let link (sl : Nat) : W64 := (reg sl (wb - 1)).val ++ (reg sl (wb - 2)).val
    (Undivided s r → (s.frag r).succs = [] → 8 ≤ wb →
      (∀ sl ∈ slotsOf (s.frag r).m, (reg sl (wb - 1)).full = true ∧ (reg sl (wb - 2)).full = true
        ∧ (reg sl (wb - 1)).poison = false ∧ (reg sl (wb - 2)).poison = false
        ∧ (link sl).toNat < 2 ^ 61 ∧ (link sl).toNat % 8 ≠ 0 ∧ 8 * ((link sl).toNat % 8) ≤ wb) →
      ∃ t, exec (.ret f) s = .next t ∧ RegistersSame s t r ∧ Counted s t r (slotsOf (s.frag r).m).length 0
        ∧ ∀ sl ∈ slotsOf (s.frag r).m,
          StandsAt t r sl (.ofNat 64 ((link sl).toNat / 8 * 8)) (wb - 8 * ((link sl).toNat % 8)) ((s.frag r).e.getLsbD sl))
    ∧ (wb = 0 → NoFault s r → ∃ t x, exec (.ret f) s = .next t ∧ (t.group r.core r.hslot).fault = some x ∧ x.cause = 10))

/-- R128: RJN. The only fragment of its group goes on; another waits there. The members of a fragment whose others all stand at
its PC, wait at an RJN or are blocked at BAR, BARW or REGROUP go on at the next instruction; those of another one wait on.

R129: REGROUP blocks its fragment, and when every live strand of the role stands at it with the counters at 0, the
strands are packed in %sid order into the role's group slots, 32 to each, and go on at the next instruction with the window base of
the first arrival, 4 cycles and one for each strand later; the flags are the OR over the role's groups, and the k registers stay.

R130: EXIT. The active strands leave the live set, no fragment or piece holds them, and the other members go on at the
next instruction.

R166: REGION opens a region at its PC with the live-in masks of its words, the strands of E as its entry set, and the
members' predicates as they stand. -/
def Obligations.FragmentControl : Prop :=
  ((∀ (f : FmtA) (s : State) (r : FragRef), Starts s r → Undivided s r →
    ∃ t, exec (.rjn f) s = .next t ∧ (t.frag r).pc = nextPc (s.frag r) (.rjn f) ∧ (t.frag r).wait = .ready
      ∧ (t.frag r).m = (s.frag r).m ∧ (t.frag r).e = (s.frag r).e ∧ Counted s t r 0 1 ∧ RegistersSame s t r)
  ∧ (∀ (f : FmtA) (s : State) (r : FragRef), Starts s r → 1 < (s.group r.core r.hslot).frags.length →
    UnmergedAs s r { s.passedAt r (s.frag r).pc with wait := .rjn, lane := none } →
    (s.group r.core r.hslot).frags.find? r.entry = some (s.frag r) →
    ∃ t, exec (.rjn f) s = .next t ∧ (t.frag r).pc = (s.frag r).pc ∧ (t.frag r).wait = .rjn ∧ RegistersSame s t r)
  ∧ (∀ (c h : Nat) (s : State), (s.group c h).alloc = true → (s.group c h).fault = none → (s.group c h).spill = [] →
    ((s.group c h).frags.map Prod.fst).Pairwise (· < ·) →
    let blocked (w : Wait) : Bool := match w with | .rjn | .bar .. | .barw .. | .regroup => true | _ => false
    ∃ t, exec (.rjnRelease c h) s = .next t ∧ (t.group c h).k = (s.group c h).k ∧ (∀ u, t.team c u = s.team c u)
      ∧ ∀ p ∈ (s.group c h).frags, p.2.wait = .rjn → ∀ sl ∈ slotsOf p.2.m,
        StandsAt t { core := c, hslot := h, entry := p.1 } sl
          (if ∀ q ∈ (s.group c h).frags, q.1 ≠ p.1 → q.2.pc = p.2.pc ∨ blocked q.2.wait = true then p.2.pc + 8 else p.2.pc)
          p.2.wbase (p.2.e.getLsbD sl)))
  ∧ ((∀ (f : FmtA) (s : State) (r : FragRef), Starts s r →
    (regroupBase s r.core (s.group r.core r.hslot).team (s.group r.core r.hslot).role).getD (s.frag r).wbase = (s.frag r).wbase →
    ∃ t, exec (.regroup f) s = .next t ∧ (t.frag r).wait = .regroup ∧ (t.frag r).pc = (s.frag r).pc ∧ RegistersSame s t r
      ∧ Counted s t r 0 1)
  ∧ (∀ (c tm role wb : Nat) (pc : W64) (s : State),
    let gs := roleGroups s c tm role
    (gs.map Prod.fst).Nodup → (∀ p ∈ gs, s.group c p.1 = p.2) → regroupReady gs = some (pc, wb) →
    let sids := ((gs.map (fun q => (allPieces q.2).map (fun x => (slotsOf x.2.2.1).map (sidOf q.2)))).flatten.flatten).mergeSort
      (fun a b => a ≤ b)
    ∀ (k : Nat) (p : Nat × GroupSlot), gs[k]? = some p →
      let own := (sids.drop (32 * k)).take 32
      ∃ t, exec (.regroupRelease c tm role) s = .next t
      ∧ (t.group c p.1).sids = own.zipIdx.map (fun p => (p.2, p.1)) ∧ (t.group c p.1).spill = [] ∧ (t.group c p.1).k = p.2.k
      ∧ (t.group c p.1).flags = gs.foldl (fun m q => m ||| q.2.flags) 0
      ∧ (own = [] → (t.group c p.1).frags = [])
      ∧ (own ≠ [] → ∃ f, (t.group c p.1).frags = [(0, f)] ∧ f.pc = pc + 8 ∧ f.wbase = wb ∧ f.m = maskOf (List.range own.length)
          ∧ f.e = f.m ∧ f.wait = .ready ∧ f.since = (s.core c).cycle + 4 + sids.length)))
  ∧ (∀ (f : FmtA) (s : State) (r : FragRef), Starts s r → Undivided s r → (s.frag r).succs = [] → Distinct s r →
    let act := activeSlots s r f.guard f.gn 0
    (∀ sl ∈ act, (s.frag r).m.getLsbD sl = true) →
    ∃ t, exec (.exit f) s = .next t ∧ FlagsSame s t r
      ∧ (∀ sl ∈ act, t.strand r.core (s.group r.core r.hslot).team (sidAt s r sl) =
          { s.strand r.core (s.group r.core r.hslot).team (sidAt s r sl) with live := false })
      ∧ (∀ sl ∈ act, (∀ p ∈ (t.group r.core r.hslot).frags, p.2.m.getLsbD sl = false)
          ∧ (∀ p ∈ (t.group r.core r.hslot).spill, p.m.getLsbD sl = false))
      ∧ (∀ sl ∈ slotsOf (s.frag r).m, sl ∉ act →
          StandsAt t r sl (nextPc (s.frag r) (.exit f)) (s.frag r).wbase ((s.frag r).e.getLsbD sl))
      ∧ StrandsSame s t r (act.map (sidAt s r)))
  ∧ (∀ (kl : BitVec 56) (vl : W64) (s : State) (r : FragRef), Starts s r → Arrives s r (.region kl vl) →
    let rg : Region :=
      { opening := s.nextId, pc := (s.frag r).pc, base := (s.frag r).wbase, vlive := vl, klive := kl,
        entryE := (slotsOf (s.frag r).e).map (sidAt s r),
        snap := snapshot (s.teamOf r.core r.hslot) (s.group r.core r.hslot) (s.frag r).m }
    ∃ t, exec (.region kl vl) s = .next t
      ∧ CompletesTo s t r { s.passedAt r (nextPc (s.frag r) (.region kl vl)) with region := rg } 1
      ∧ Folded s t r (.region kl vl) ∧ Counted s t r 0 1 ∧ RegistersSame s t r)

/-- R165: in one cycle of its lane SIGCHK goes on when the fragment's signature equals its literal, and raises SIG-FAIL (cause 20) with the
signature in %faddr when it does not; in one cycle too SIGRST sets the signature to its literal, or to 0 without one. Neither is folded, and
each has the encodings of its rule and no other. -/
def Obligations.SignatureInstructions : Prop :=
  (∀ (f : FmtA) (s : State) (r : FragRef), Starts s r →
    let v := sigOf (s.group r.core r.hslot) (s.frag r)
    let lit : W32 := (f.lit.getD 0).truncate 32
    (v = lit → Arrives s r (.sigchk f) →
      ∃ t, exec (.sigchk f) s = .next t ∧ CompletesTo s t r (s.passedAt r (nextPc (s.frag r) (.sigchk f))) 1
        ∧ Counted s t r 0 1 ∧ RegistersSame s t r ∧ sigOf (t.group r.core r.hslot) (s.frag r) = v
        ∧ laneNow t r = (s.core r.core).cycle + 1)
    ∧ (v ≠ lit → NoFault s r → ∃ t x, exec (.sigchk f) s = .next t ∧ (t.group r.core r.hslot).fault = some x ∧ x.cause = 20
        ∧ x.fslot = (s.frag r).refSlot
        ∧ x.faddr = v.zeroExtend 64 ∧ x.fpc = (s.frag r).pc ∧ StrandsSame s t r [] ∧ FlagsSame s t r)
    ∧ (Arrives s r (.sigrst f) →
      ∃ t, exec (.sigrst f) s = .next t ∧ CompletesTo s t r (s.passedAt r (nextPc (s.frag r) (.sigrst f))) 1
        ∧ Counted s t r 0 1 ∧ RegistersSame s t r ∧ sigOf (t.group r.core r.hslot) (s.frag r) = lit
        ∧ laneNow t r = (s.core r.core).cycle + 1))
  ∧ ∀ (win : Nat) (w : W64) (ws : List W64),
    (opByte w = 0x4E → w ≠ 0x4E00000001E30080#64 → decode win (w :: ws) = .error (.illenc 0))
    ∧ (opByte w = 0x4F → w ≠ 0x4F00000001E00000#64 → w ≠ 0x4F00000001E30080#64 → decode win (w :: ws) = .error (.illenc 0))
    ∧ ∀ v rest, ws = v :: rest → v.toNat < 2 ^ 32 →
      (w = 0x4E00000001E30080#64 → ∃ f, decode win (w :: ws) = .ok (.sigchk f) ∧ f.lit = some v)
      ∧ (w = 0x4F00000001E30080#64 → ∃ f, decode win (w :: ws) = .ok (.sigrst f) ∧ f.lit = some v)
      ∧ (w = 0x4F00000001E00000#64 → ∃ f, decode win (w :: ws) = .ok (.sigrst f) ∧ f.lit = none)

/-! ## Exceptions (R154 to R164) -/

/-- R164: BKPT. It has no guard and no operand but its number; before any strand executes, whatever E holds, BKPT (cause 24) is
raised with its own address in %fpc, its number in %faddr and the reference slot in %fslot, and no register changes. -/
def Obligations.BkptRaises : Prop :=
  (∀ (win : Nat) (w : W64) (ws : List W64) (i : Instr), opByte w = 0x4D → decode win (w :: ws) = .ok i →
    ∃ f, i = .bkpt f ∧ f.fn.toNat < 16 ∧ w.toNat = 0x4D00000001E00000 + 256 * f.fn.toNat)
  ∧ decodeTableWord 64 0x4D00000001E00000 = some (.bkpt { exampleA with ty := .i8 })
  ∧ ∀ (f : FmtA) (s : State) (r : FragRef), Starts s r → NoFault s r →
    ∃ t x, exec (.bkpt f) s = .next t ∧ (t.group r.core r.hslot).fault = some x ∧ x.cause = 24
      ∧ x.fpc = (s.frag r).pc ∧ x.faddr = .ofNat 64 f.fn.toNat ∧ x.fslot = (s.frag r).refSlot
      ∧ StrandsSame s t r [] ∧ FlagsSame s t r

/-- R158, R159, R163, R164: TRAP and BKPT take their exceptions. The fault registers, which the notice or the handler finds,
hold the cause, slot, PC, address and word; TRAP (cause 25) names the next instruction, BKPT (24) its own. With the cause
enabled the fragment stands at %ebase + 64 × cause with the faulting strand alone in E, k54 is 0 and k55 the fault area;
otherwise the supervisor has a notice.

R162, R173: a fault of the fragment that runs a handler kills the group: no fragment or piece is left, its strands have left the
live set, the barriers of the team are abandoned, and the supervisor has a notice of kind 2. Stated at a BKPT. -/
def Obligations.ExceptionEntryAndNestedFault : Prop :=
  (∀ (i : Instr) (f : FmtA) (s : State) (r : FragRef) (cause slot : Nat) (fpc : W64), Starts s r → NoFault s r →
    (s.group r.core r.hslot).halted = false → (s.group r.core r.hslot).frags.find? r.entry = some (s.frag r) →
    ((i = .trap f ∧ cause = 25 ∧ fpc = nextPc (s.frag r) (.trap f)
        ∧ ((f.u = true ∧ slot = (s.frag r).refSlot ∧ guardHolds (strandAt s r slot) f.guard f.gn = true)
            ∨ (f.u = false ∧ ∃ rest, activeSlots s r f.guard f.gn 0 = slot :: rest)))
      ∨ (i = .bkpt f ∧ cause = 24 ∧ fpc = (s.frag r).pc ∧ slot = (s.frag r).refSlot)) →
    let tm := s.teamOf r.core r.hslot
    ∃ t x, exec i s = .next t ∧ (t.group r.core r.hslot).fault = some x ∧ x.entry = r.entry ∧ x.heldE = (s.frag r).e
      ∧ x.pc = fpc ∧ x.entered = true
      ∧ (t.group r.core r.hslot).cause = cause ∧ (t.group r.core r.hslot).fslot = slot ∧ (t.group r.core r.hslot).fpc = fpc
      ∧ (t.group r.core r.hslot).faddr = .ofNat 64 f.fn.toNat ∧ (t.group r.core r.hslot).fword = word0 i
      ∧ StrandsSame s t r [] ∧ FlagsSame s t r ∧ t.mem = s.mem ∧ (t.group r.core r.hslot).pkr = (s.group r.core r.hslot).pkr
      ∧ (t.frag r).m = (s.frag r).m
      ∧ (tm.ctx.enable.getLsbD cause = true →
          (t.group r.core r.hslot).inHandler = true ∧ (t.frag r).pc = tm.ctx.ebase + .ofNat 64 (64 * cause)
          ∧ (t.frag r).e = ((1#32 <<< slot) &&& (s.frag r).m) ∧ (t.frag r).mid = false ∧ (t.frag r).wait = .ready
          ∧ t.kreg r.core r.hslot 54 = { val := 0 }
          ∧ t.kreg r.core r.hslot 55 = { val := tm.farea + .ofNat 64 ((s.group r.core r.hslot).gid * 20480) }
          ∧ KSame s t r [54, 55] ∧ t.notices = s.notices)
      ∧ (tm.ctx.enable.getLsbD cause = false →
          (t.group r.core r.hslot).inHandler = false ∧ x.supervisor = true ∧ KSame s t r []
          ∧ (t.frag r).e = (s.frag r).e
          ∧ ∃ n, t.notices.get [] tm.part = s.notices.get [] tm.part ++ [n] ∧ n.kind = 1 ∧ n.cause = cause ∧ n.core = r.core
              ∧ n.hslot = r.hslot ∧ n.fslot = slot ∧ n.fpc = fpc ∧ n.faddr = .ofNat 64 f.fn.toNat ∧ n.fword = word0 i))
  ∧ (∀ (f : FmtA) (s : State) (r : FragRef), Starts s r → runsHandler (s.group r.core r.hslot) r.entry = true →
    (s.group r.core r.hslot).killed = false →
    ∃ t n, exec (.bkpt f) s = .next t ∧ (t.group r.core r.hslot).frags = [] ∧ (t.group r.core r.hslot).spill = []
      ∧ (t.group r.core r.hslot).fault = none ∧ (t.group r.core r.hslot).inHandler = false ∧ (t.group r.core r.hslot).log = []
      ∧ (∀ p ∈ (s.group r.core r.hslot).frags, ∀ sl ∈ slotsOf p.2.m,
          (t.strand r.core (s.group r.core r.hslot).team (sidAt s r sl)).live = false)
      ∧ (∀ p ∈ (s.group r.core r.hslot).spill, ∀ sl ∈ slotsOf p.m,
          (t.strand r.core (s.group r.core r.hslot).team (sidAt s r sl)).live = false)
      ∧ (∀ b < 16, ((t.teamOf r.core r.hslot).bars.get {} b).abandoned = true)
      ∧ t.notices.get [] (s.teamOf r.core r.hslot).part = s.notices.get [] (s.teamOf r.core r.hslot).part ++ [n]
      ∧ n.kind = 2 ∧ n.cause = 24)

/-- R161: IRET at the end of a handler whose log is empty. The group leaves the handler, the fragment has the E it had held
(without members that have gone) and the signature it had held, keeps the window and the region that the handler leaves it, and
goes on at %fpc: inside its pass, at the slot of the
fault, when %fpc is the PC of the fault, at the start of an instruction when the handler has changed %fpc. Outside a
handler IRET is ILLENC (cause 2). -/
def Obligations.IretCompletes : Prop :=
  ∀ (f : FmtA) (s : State) (r : FragRef), Starts s r →
    let g := s.group r.core r.hslot
    (∀ x, g.fault = some x → x.entry = r.entry → g.inHandler = true → x.supervisor = false → x.away = false → g.log = [] →
      g.fpc.toNat < 2 ^ 61 → g.fpc.toNat % 8 = 0 → g.spill = [] → (∀ p ∈ g.frags, p.1 ≠ r.entry → p.2.pc ≠ g.fpc) →
      (g.fpc ≠ x.pc ∨ x.keep.wait = .ready) → g.frags.find? r.entry = some (s.frag r) →
      ∃ t, exec (.iret f) s = .next t ∧ (t.group r.core r.hslot).fault = none ∧ (t.group r.core r.hslot).inHandler = false
        ∧ (t.frag r).m = (s.frag r).m ∧ (t.frag r).e = x.heldE &&& (s.frag r).m ∧ (t.frag r).pc = g.fpc
        ∧ (t.frag r).wait = .ready ∧ (t.frag r).wbase = (s.frag r).wbase ∧ (t.frag r).region = (s.frag r).region ∧ RegistersSame s t r ∧ Counted s t r 0 1
        ∧ (g.fpc ≠ x.pc → (t.frag r).mid = false ∧ (t.frag r).resume = 0)
        ∧ (g.fpc = x.pc → x.keep.pc = x.pc → (t.frag r).mid = x.keep.mid ∧ (t.frag r).resume = x.slot)
        ∧ (∀ k v, g.heldSig = [(k, v)] → (t.group r.core r.hslot).sig.get 0 k = v))
    ∧ (NoFault s r → ∃ t x, exec (.iret f) s = .next t ∧ (t.group r.core r.hslot).fault = some x ∧ x.cause = 2
        ∧ x.fpc = (s.frag r).pc ∧ StrandsSame s t r [])

/-- R116, R154, R155, R158: at a group's boundary the oldest record of its log is taken as a fault of the strand it names, and
with an empty log an engine fault before a notice; a piece that has waited 4,096 cycles is exchanged for the fragment that
rotation chooses, and is a candidate 8 cycles later. -/
def Obligations.BoundaryEvents : Prop :=
  (∀ (c h e sl : Nat) (l : LogRec) (rest : List LogRec) (q : Frag) (s : State),
    (s.group c h).alloc = true → (s.group c h).inHandler = false → (s.team c (s.group c h).team).preempting = 0 →
    (s.group c h).fault = none → (s.group c h).log = l :: rest →
    slotOfSid (s.group c h) l.acc.sid = some sl → List.find? (fun p => p.2.m.getLsbD sl) (s.group c h).frags = some (e, q) →
    (s.group c h).frags.find? e = some q →
    ∃ t x, exec (.handlerEntry c h) s = .next t ∧ (t.group c h).fault = some x ∧ x.entry = e ∧ x.cause = l.cause ∧ x.fslot = sl
      ∧ x.fpc = q.pc ∧ x.faddr = l.acc.ea ∧ x.fword = l.acc.word ∧ x.heldE = q.e ∧ (t.group c h).log = l :: rest
      ∧ ∀ u sid, t.strand c u sid = s.strand c u sid)
  ∧ (∀ (c h e : Nat) (y : EngFault) (q : Frag) (s : State),
    (s.group c h).alloc = true → (s.group c h).inHandler = false → (s.team c (s.group c h).team).preempting = 0 →
    (s.group c h).fault = none → (s.group c h).log = [] →
    (s.group c h).heldEng.find? (fun z => !z.notice) = some y →
    List.find? (fun p => p.2.m.getLsbD y.slot) (s.group c h).frags = some (e, q) → (s.group c h).frags.find? e = some q →
    ∃ t x, exec (.handlerEntry c h) s = .next t ∧ (t.group c h).fault = some x ∧ x.entry = e ∧ x.cause = y.cause
      ∧ x.fslot = y.slot ∧ x.fpc = q.pc ∧ x.faddr = y.faddr ∧ x.fword = y.fword
      ∧ (t.group c h).heldEng = (s.group c h).heldEng.erase y ∧ ∀ u sid, t.strand c u sid = s.strand c u sid)
  ∧ (∀ (c h e : Nat) (p : SpillRec) (f : Frag) (rest : List SpillRec) (s : State), (s.group c h).spill = p :: rest →
    p.since + 4096 ≤ (s.core c).cycle → rotationChoice (s.group c h) none = some e → freeEntry (s.group c h) = none →
    (s.group c h).frags.find? e = some f → (∀ q ∈ (s.group c h).frags, q.1 ≠ e → q.2.pc ≠ p.pc) →
    ∃ t, exec (.spillRotation c h) s = .next t ∧ (t.group c h).frags = (s.group c h).frags.set e { p.toFrag (s.core c).cycle with since := (s.core c).cycle + 8, delay := 8 }
      ∧ (t.group c h).spill = rest ++ [f.toSpill (s.core c).cycle] ∧ (t.group c h).k = (s.group c h).k
      ∧ ∀ u, t.team c u = s.team c u)

/-! ## Special registers and the system instructions -/

/-- R57, R69, R110, R111: MFS. Each active strand, or the k register of the uniform form, takes the special register as it is
in the strand's cycle of the pass: one register, or a pair for the 64-bit ones. %flags waits for the sets of the fragment's own
earlier passes, and %carat shows the charges of strands four cycles before. (Where the value depends on the cycle, a guard is one whose
predicate is not still being made.)

R57, R69, R112: MTS writes the value of its source at the reference slot to %exm (cut to M), %flags (its five bits, into which the sets that take effect later are ORed),
%pkr or %fpc, when a strand is active, or the guard holds at the reference slot in the uniform form. -/
def Obligations.SpecialRegisterMoves : Prop :=
  (∀ (f : FmtS) (s : State) (r : FragRef), Starts s r → Arrives s r (.mfs f) → Distinct s r →
    let act := activeSlots s r f.guard f.gn 0
    let v := mfsSeen s r f
    (f.sreg ∈ [SReg.gt, .flags, .carat] → f.guard = 15 ∨ (s.core r.core).made = []) →
    (f.u = false →
      (∀ sl ∈ act, VDestReady s r sl (if f.sreg.is64 then [f.reg.toNat, f.reg.toNat + 1] else [f.reg.toNat])) →
      ∃ t, exec (.mfs f) s = .next t ∧ Completes s t r (.mfs f) (nextPc (s.frag r) (.mfs f)) act.length
        ∧ Counted s t r act.length 0 ∧ KSame s t r [] ∧ FlagsSame s t r
        ∧ (∀ k, (h : k < act.length) → t.strand r.core (s.group r.core r.hslot).team (sidAt s r act[k]) =
            (s.strand r.core (s.group r.core r.hslot).team (sidAt s r act[k])).write (s.frag r).wbase
              ((vWords f.sreg.is64 (v k act[k])).zipIdx.map (fun p => (f.reg.toNat + p.2, p.1))) [])
        ∧ StrandsSame s t r (act.map (sidAt s r)))
    ∧ (f.u = true → guardHolds (strandAt s r (s.frag r).refSlot) f.guard f.gn = true → KDestReady s r f.reg.toNat →
      ∃ t, exec (.mfs f) s = .next t ∧ Completes s t r (.mfs f) (nextPc (s.frag r) (.mfs f)) 1 ∧ Counted s t r 0 1
        ∧ t.kreg r.core r.hslot f.reg.toNat = { val := v 0 (s.frag r).refSlot } ∧ KSame s t r [f.reg.toNat]
        ∧ StrandsSame s t r [] ∧ FlagsSame s t r))
  ∧ (∀ (f : FmtS) (s : State) (r : FragRef), Starts s r →
    (if f.u then guardHolds (strandAt s r (s.frag r).refSlot) f.guard f.gn = true else activeSlots s r f.guard f.gn 0 ≠ []) →
    SourcesReady s r (s.frag r).refSlot [mtsSrc f] →
    let v := (readSource s r (s.frag r).refSlot (mtsSrc f)).1
    let n := if f.u then 1 else (activeSlots s r f.guard f.gn 0).length
    let nf : Frag := if f.sreg = .exm then { s.passedAt r (nextPc (s.frag r) (.mts f)) with e := v.truncate 32 &&& (s.frag r).m }
      else s.passedAt r (nextPc (s.frag r) (.mts f))
    UnmergedAs s r nf →
    ∃ t, exec (.mts f) s = .next t
      ∧ CompletesG s t r nf n (fun g => match f.sreg with
          | .pkr => { g with pkr := v } | .fpc => { g with fpc := v } | _ => g)
      ∧ Folded s t r (.mts f) ∧ (if f.u then Counted s t r 0 1 else Counted s t r n 0)
      ∧ (t.group r.core r.hslot).flags = (if f.sreg = .flags then
          (s.group r.core r.hslot).late.foldl (fun x y => x ||| setAfter (laneNow t r - n) y) (v.truncate 5)
        else (s.group r.core r.hslot).flags)
      ∧ KSame s t r [] ∧ StrandsSame s t r [])

/-- R308, R309: STEP opens a step of the work and deadline its registers hold, the deadline counted from GT in its cycle or absolute,
and STEP end closes it.

R328, R332: LCLK adds 1 to the group's clock, LCLK merge takes 1 more than the larger of the clock and its source, and
both give the new value to their k register.

R329 to R332: TRC. With its kind of record off, only the charge is left; in the uniform form with the kind on and the
ring not yet used, a record of 32 bytes with the number, the value and the group's next clock is on its way to the ring. -/
def Obligations.StepClockAndTrace : Prop :=
  (∀ (i : Instr) (f : FmtA) (s : State) (r : FragRef), (i = .stepRel f ∨ i = .stepAbs f ∨ i = .stepEnd f) → Starts s r →
    guardHolds (strandAt s r (s.frag r).refSlot) f.guard f.gn = true → NoTrace s r → UnmergedAs s r (s.regionAt r i) →
    (i ≠ .stepEnd f → SourcesReady s r (s.frag r).refSlot [{ isK := true, num := f.a.toNat }, { isK := true, num := f.b.toNat }]) →
    let w := (s.kreg r.core r.hslot f.a.toNat).val.toNat
    let b := (s.kreg r.core r.hslot f.b.toNat).val.toNat
    let x := (s.group r.core r.hslot).step
    ∃ t, exec i s = .next t ∧ Performs s t r i ∧ RegistersSame s t r ∧ Counted s t r 0 1
      ∧ (t.group r.core r.hslot).carat = (s.group r.core r.hslot).carat + 1
      ∧ (i = .stepRel f → (t.group r.core r.hslot).step =
          openStepAt t r x w (gtIn s r.core (laneNow t r - 1) + b))
      ∧ (i = .stepAbs f → (t.group r.core r.hslot).step = openStepAt t r x w b)
      ∧ (i = .stepEnd f → (t.group r.core r.hslot).step.opened = false ∧ (t.group r.core r.hslot).step.count = x.count))
  ∧ (∀ (i : Instr) (f : FmtA) (s : State) (r : FragRef), (i = .lclk f ∨ i = .lclkMrg f) → Starts s r → Arrives s r i →
    guardHolds (strandAt s r (s.frag r).refSlot) f.guard f.gn = true → KDestReady s r f.d.toNat →
    (i = .lclkMrg f → SourcesReady s r (s.frag r).refSlot [{ isK := true, num := f.a.toNat }]) →
    let now := (s.group r.core r.hslot).lclk
    let v := (if i = .lclk f then now + 1 else Nat.max now (s.kreg r.core r.hslot f.a.toNat).val.toNat + 1) % 2 ^ 64
    ∃ t, exec i s = .next t
      ∧ CompletesG s t r (s.passedAt r (nextPc (s.frag r) i)) 1 (fun g => { g with lclk := v })
      ∧ Folded s t r i ∧ Counted s t r 0 1 ∧ t.kreg r.core r.hslot f.d.toNat = { val := .ofNat 64 v }
      ∧ KSame s t r [f.d.toNat] ∧ StrandsSame s t r [] ∧ FlagsSame s t r)
  ∧ (∀ (f : FmtA) (s : State) (r : FragRef), Starts s r → Arrives s r (.trc f) →
    let act := activeSlots s r f.guard f.gn 0
    let src : SrcReg := { isK := f.u || f.ka, num := f.a.toNat, trap := f.ea }
    (f.u = false → NoTrace s r → (∀ sl ∈ act, SourcesReady s r sl [src]) →
      ∃ t, exec (.trc f) s = .next t ∧ Completes s t r (.trc f) (nextPc (s.frag r) (.trc f)) act.length
        ∧ Counted s t r act.length 0 ∧ RegistersSame s t r)
    ∧ (f.u = true → guardHolds (strandAt s r (s.frag r).refSlot) f.guard f.gn = true →
      SourcesReady s r (s.frag r).refSlot [src] → (s.core r.core).regs.get 0 0x408 = 1 →
      (s.die (dieOf r.core)).traceTimes = [] → (s.die (dieOf r.core)).traced = 0 →
      let base := ((s.die (dieOf r.core)).regs.get 0 0x4000).toNat / 4096 % 2 ^ 40 * 4096
      let w0 := f.fn.toNat * 2 ^ 56 + r.core * 2 ^ 48 + r.hslot * 2 ^ 42 + (s.frag r).refSlot * 2 ^ 37 + (s.frag r).e.toNat
      let rec_ := [w0, (s.frag r).pc.toNat, (s.kreg r.core r.hslot f.a.toNat).val.toNat, ((s.group r.core r.hslot).lclk + 1) % 2 ^ 64]
      ∃ t, exec (.trc f) s = .next t ∧ t.frag r = s.passedAt r (nextPc (s.frag r) (.trc f)) ∧ RegistersSame s t r
        ∧ (t.group r.core r.hslot).lclk = ((s.group r.core r.hslot).lclk + 1) % 2 ^ 64 ∧ (t.die (dieOf r.core)).traced = 1
        ∧ (t.homes.get {} (base / 256)).pending.map Pend.bytes =
            (s.homes.get {} (base / 256)).pending.map Pend.bytes ++ [putBytes [] (base % 256) ((rec_.map (wordBytes 8)).flatten)]))

/-- R333, R334: HALTB stops, and its release lets go, the groups of the target team, or of every team of the target's
context and partition, the issuing team apart; nothing else of any group changes but the issuing group's pass. A halt form blocks its
fragment while a fragment of a target is in a pass (which passes those are is log entry 13), and a release goes on at once.

R335, R348: INSP reads the word its second source names of the group its first source names, when that group is halted,
stopped by a fault or its own (of its own, its counters and fragments apart, which its pass changes); its k register is empty until
the word that is read now arrives. -/
def Obligations.HaltAndInspect : Prop :=
  (∀ (i : Instr) (f : FmtA) (s : State) (r : FragRef) (on whole : Bool),
    ((i = .haltbTeam f ∧ on = true ∧ whole = false) ∨ (i = .haltbTrel f ∧ on = false ∧ whole = false)
      ∨ (i = .haltbCtx f ∧ on = true ∧ whole = true) ∨ (i = .haltbCrel f ∧ on = false ∧ whole = true)) →
    Starts s r → Arrives s r i → guardHolds (strandAt s r (s.frag r).refSlot) f.guard f.gn = true →
    SourcesReady s r (s.frag r).refSlot [{ isK := true, num := f.a.toNat }] →
    let v := (s.kreg r.core r.hslot f.a.toNat).val
    let tc := v.toNat % 256
    let th := v.toNat / 256 % 64
    let aim := s.teamOf tc th
    targetStop s r v whole = none → (s.group r.core r.hslot).alloc = true →
    let picked (c h : Nat) : Bool :=
      (s.group c h).alloc && !(c == r.core && (s.group c h).team == (s.group r.core r.hslot).team)
        && (if whole then (s.teamOf c h).ctx.asid == aim.ctx.asid && (s.teamOf c h).part == aim.part
            else c == tc && (s.group c h).team == (s.group tc th).team)
    let busy (c h : Nat) : Prop := on = true ∧ picked c h = true ∧ runsPass s c h = true
    (∃ t, exec i s = .next t ∧ RegistersSame s t r ∧ Counted s t r 0 1
      ∧ (t.group r.core r.hslot).halted = (s.group r.core r.hslot).halted
      ∧ ∀ c h, (c, h) ≠ (r.core, r.hslot) →
        t.group c h = (if picked c h then { s.group c h with halted := on } else s.group c h))
    ∧ ((∀ c h, ¬ busy c h) → ∃ t, exec i s = .next t ∧ t.frag r = s.passedAt r (nextPc (s.frag r) i))
    ∧ ∀ (c h : Nat), busy c h → ∃ t gs, exec i s = .next t ∧ (t.frag r).pc = (s.frag r).pc ∧ (t.frag r).wait = .halt gs ∧ (c, h) ∈ gs)
  ∧ (∀ (i : Instr) (f : FmtA) (form : Nat) (s : State) (r : FragRef),
    (i, form) ∈ [(Instr.inspKreg f, 0), (.inspVreg f, 1), (.inspGrp f, 2), (.inspFrag f, 3), (.inspLmem f, 4), (.inspLfe f, 5),
      (.inspBar f, 6), (.inspQueue f, 7)] →
    Starts s r → Arrives s r i → guardHolds (strandAt s r (s.frag r).refSlot) f.guard f.gn = true → KDestReady s r f.d.toNat →
    SourcesReady s r (s.frag r).refSlot [{ isK := true, num := f.a.toNat }, { isK := true, num := f.b.toNat }] →
    let v := (s.kreg r.core r.hslot f.a.toNat).val
    let tc := v.toNat % 256
    let th := v.toNat / 256 % 64
    let g := s.group tc th
    targetStop s r v false = none → (g.halted = true ∨ (g.fault.isSome = true ∧ g.inHandler = false) ∨ (tc, th) = (r.core, r.hslot)) →
    ((tc, th) = (r.core, r.hslot) → form ≠ 2 ∧ form ≠ 3) →
    let w := inspWord s tc th form (s.kreg r.core r.hslot f.b.toNat).val.toNat
    ∃ t, exec i s = .next t ∧ t.frag r = s.passedAt r (nextPc (s.frag r) i) ∧ Counted s t r 0 1
      ∧ (t.kreg r.core r.hslot f.d.toNat).full = false ∧ KSame s t r [f.d.toNat] ∧ StrandsSame s t r [] ∧ FlagsSame s t r
      ∧ t.fills.map (fun x => (x.core, x.hslot, x.uni, x.pos, x.words)) =
          s.fills.map (fun x => (x.core, x.hslot, x.uni, x.pos, x.words)) ++ [(r.core, r.hslot, true, f.d.toNat, [.ofNat 64 w])])

/-- R194 to R196: the maintenance of instruction buffers on one core and on the package, the write-back of a page from the
memory-side cache, and the removal of translations with the copies made through them. An ATLBI waits for the accesses under way
that were checked before against what it removes, and goes on at once where there are none. Registers, flags and memory are as before. -/
def Obligations.MaintenanceCompletes : Prop :=
  ∀ (f : FmtA) (s : State) (r : FragRef), Starts s r → guardHolds (strandAt s r (s.frag r).refSlot) f.guard f.gn = true →
    (Arrives s r (.cmntInst f) → ∃ t, exec (.cmntInst f) s = .next t ∧ t.frag r = s.passedAt r (nextPc (s.frag r) (.cmntInst f))
      ∧ RegistersSame s t r ∧ t.mem = s.mem ∧ (t.core r.core).ibuf = [] ∧ ∀ c, c ≠ r.core → t.core c = s.core c)
    ∧ (Arrives s r (.cmntIpkg f) → ∃ t, exec (.cmntIpkg f) s = .next t
      ∧ t.frag r = s.passedAt r (nextPc (s.frag r) (.cmntIpkg f)) ∧ RegistersSame s t r ∧ t.mem = s.mem
      ∧ ∀ c, (t.core c).ibuf = [])
    ∧ ((s.teamOf r.core r.hslot).ctx.sys = true →
      (Arrives s r (.cmntWb f) → SourcesReady s r (s.frag r).refSlot [{ isK := true, num := f.a.toNat }] →
        let pa := (s.kreg r.core r.hslot f.a.toNat).val.toNat
        pa < 2 ^ 38 → ∃ t, exec (.cmntWb f) s = .next t ∧ t.frag r = s.passedAt r (nextPc (s.frag r) (.cmntWb f))
          ∧ RegistersSame s t r ∧ t.mem = s.mem ∧ (∀ l ∈ t.mscDirty, l ∈ s.mscDirty ∧ l / 16 ≠ pa / 4096))
      ∧ (Arrives s r (.atlbiAsid f) → SourcesReady s r (s.frag r).refSlot [{ isK := true, num := f.a.toNat }] →
        let asid := (s.kreg r.core r.hslot f.a.toNat).val.toNat % 2 ^ 16
        ∃ t, exec (.atlbiAsid f) s = .next t ∧ RegistersSame s t r ∧ t.mem = s.mem
          ∧ (∀ c, ∀ e ∈ (t.core c).atlb, e.asid ≠ asid) ∧ (∀ c, ∀ l ∈ (t.core c).l1, l.asid ≠ asid)
          ∧ (∀ d, ∀ l ∈ (t.die d).l2, l.asid ≠ asid)
          ∧ ((∀ q ∈ s.fetches, q.asid ≠ asid) → (∀ q ∈ s.posted, q.asid ≠ asid) →
              t.frag r = s.passedAt r (nextPc (s.frag r) (.atlbiAsid f)))
          ∧ ((∃ q ∈ s.fetches, q.asid = asid) ∨ (∃ q ∈ s.posted, q.asid = asid) →
              WaitsFor s t r (fun q => q.asid = asid) (fun q => q.asid = asid)))
      ∧ (Arrives s r (.atlbiAll f) →
        ∃ t, exec (.atlbiAll f) s = .next t ∧ RegistersSame s t r ∧ t.mem = s.mem ∧ (∀ c, (t.core c).atlb = [] ∧ (t.core c).l1 = [])
          ∧ (∀ d, (t.die d).l2 = [] ∧ (t.die d).ptrs = [])
          ∧ (s.fetches = [] → s.posted = [] → t.frag r = s.passedAt r (nextPc (s.frag r) (.atlbiAll f)))
          ∧ (s.fetches ≠ [] ∨ s.posted ≠ [] → WaitsFor s t r (fun _ => True) (fun _ => True)))
      ∧ (Arrives s r (.atlbiPage f) →
        SourcesReady s r (s.frag r).refSlot [{ isK := true, num := f.a.toNat }, { isK := true, num := f.b.toNat }] →
        let va := (s.kreg r.core r.hslot f.a.toNat).val.toNat % 2 ^ 57
        let asid := (s.kreg r.core r.hslot f.b.toNat).val.toNat % 2 ^ 16
        let paged (a bits line : Nat) : Prop := a = asid ∧ leafBase bits (line * 256) = leafBase bits va
        ∃ t, exec (.atlbiPage f) s = .next t ∧ RegistersSame s t r ∧ t.mem = s.mem
          ∧ (∀ c, ∀ e ∈ (t.core c).atlb, ¬ (e.asid = asid ∧ leafBase e.bits va = e.va))
          ∧ (∀ d, (t.die d).ptrs = [] ∧ ∀ es ∈ (t.die d).slices, ∀ e ∈ es.2, ¬ (e.asid = asid ∧ leafBase e.bits va = e.va))
          ∧ (∀ c, ∀ l ∈ (t.core c).l1, ¬ paged l.asid l.bits l.line) ∧ (∀ d, ∀ l ∈ (t.die d).l2, ¬ paged l.asid l.bits l.line)
          ∧ (s.fetches = [] → s.posted = [] → t.frag r = s.passedAt r (nextPc (s.frag r) (.atlbiPage f)))
          ∧ ((∃ q ∈ s.fetches, q.stage ≠ .walk ∧ paged q.asid q.bits q.line)
                ∨ (∃ q ∈ s.posted, q.stage ≠ .walk ∧ paged q.asid q.bits q.line) →
              WaitsFor s t r (fun q => q.stage ≠ .walk ∧ paged q.asid q.bits q.line)
                (fun q => q.stage ≠ .walk ∧ paged q.asid q.bits q.line))))
    ∧ ((s.teamOf r.core r.hslot).ctx.sys = false → NoFault s r →
      ∀ i ∈ [Instr.cmntWb f, .atlbiPage f, .atlbiAsid f, .atlbiAll f],
        ∃ t x, exec i s = .next t ∧ (t.group r.core r.hslot).fault = some x ∧ x.cause = 6 ∧ x.fpc = (s.frag r).pc)

/-- R294, R295: LAUNCH sends the record addresses of its active strands to the dispatcher as one run, with their destination
pairs empty until the handles come, and the x counter rises by 1. -/
def Obligations.LaunchCompletes : Prop :=
  ∀ (f : FmtA) (s : State) (r : FragRef), Starts s r → (s.frag r).acquires = [] → Distinct s r →
    UnmergedAs s r (s.regionAt r (.launch f)) →
    let act := activeSlots s r f.guard f.gn 0
    let src : SrcReg := { isK := f.ka, num := f.a.toNat, pair := !f.ka, trap := f.ea }
    let a (sl : Nat) : W64 := (readSource s r sl src).1
    act ≠ [] → (s.group r.core r.hslot).cx < 255 →
    (∀ sl ∈ act, SourcesReady s r sl [src] ∧ sidAt s r sl < 2 ^ 64 ∧ (a sl).toNat < 2 ^ 61 ∧ (a sl).toNat % 64 = 0
      ∧ VDestReady s r sl [f.d.toNat, f.d.toNat + 1]) →
    ∃ t x, exec (.launch f) s = .next t ∧ t.runs = s.runs ++ [x] ∧ x.core = r.core ∧ x.hslot = r.hslot
      ∧ x.items.map (fun p => (p.1, p.2.2)) = act.map (fun sl => (sidAt s r sl, a sl))
      ∧ (t.group r.core r.hslot).cx = (s.group r.core r.hslot).cx + 1 ∧ t.frag r = s.regionAt r (.launch f)
      ∧ KSame s t r [] ∧ FlagsSame s t r ∧ StrandsSame s t r (act.map (sidAt s r))
      ∧ ∀ sl ∈ act, ∀ j < 2,
        (t.vreg r.core (s.group r.core r.hslot).team (sidAt s r sl) ((s.frag r).wbase + f.d.toNat + j)).full = false

/-! ## Decision trees and cross-strand exchange -/

/-- R117, R118, R121: a TREE. Each strand of E descends on its own from the root; at its leaf the writes of its path take effect,
and it goes on at the next instruction or the leaf's target, exits, or traps.

R121: when strands of a TREE reach trap leaves, they form a fragment of their own, for which TRAP (cause 25) is raised with their
slots in %faddr and the next instruction in %fpc. -/
def Obligations.Trees : Prop :=
  (∀ (tr : Tree) (s : State) (r : FragRef) (leaf : Nat → Nat) (p : Nat → Path), Starts s r → Undivided s r → Distinct s r →
    (s.frag r).succs = [] → KAllSettled s r →
    let act := slotsOf (s.frag r).e
    let start (sl : Nat) : Path := { preds := (strandAt s r sl).preds }
    let kind (sl : Nat) : LeafKind := (tr.leaves.getD (leaf sl) { kind := .next, offset := 0 }).kind
    let off (sl : Nat) : BitVec 30 := (tr.leaves.getD (leaf sl) { kind := .next, offset := 0 }).offset
    let out (sl : Nat) : Bool := act.contains sl && kind sl == .exit
    let traps := act.filter (fun sl => kind sl == .trap)
    (traps ≠ [] → NoFault s r) →
    (∀ sl ∈ act, (s.frag r).m.getLsbD sl = true ∧ (p sl).pops = [] ∧ VDestReady s r sl (p sl).order
      ∧ (if tr.has 0 then descend s r sl tr 3 0 (start sl) else .ok (0, { start sl with cost := 1, steps := 1 })) = .ok (leaf sl, p sl)) →
    ∃ t, exec (.tree tr) s = .next t
      ∧ (∀ sl ∈ act, t.strand r.core (s.group r.core r.hslot).team (sidAt s r sl) =
          { (s.strand r.core (s.group r.core r.hslot).team (sidAt s r sl)).write (s.frag r).wbase (p sl).regs [] with
              preds := (p sl).preds,
              live := (s.strand r.core (s.group r.core r.hslot).team (sidAt s r sl)).live && !out sl })
      ∧ StrandsSame s t r (act.map (sidAt s r))
      ∧ (t.group r.core r.hslot).flags = act.foldl (fun x sl => x ||| (p sl).flags) (s.group r.core r.hslot).flags
      ∧ (∀ sl ∈ slotsOf (s.frag r).m, out sl = false → sl ∉ traps →
          StandsAt t r sl (if act.contains sl && kind sl == .branch then (s.frag r).pc + (off sl).signExtend 64 * 8
            else nextPc (s.frag r) (.tree tr)) (s.frag r).wbase ((s.frag r).e.getLsbD sl))
      ∧ (∀ sl ∈ slotsOf (s.frag r).m, out sl = true → ∀ q ∈ (t.group r.core r.hslot).frags, q.2.m.getLsbD sl = false)
      ∧ (traps ≠ [] → ∃ x, (t.group r.core r.hslot).fault = some x ∧ x.cause = 25 ∧ x.fslot = traps.headD 0
          ∧ x.faddr = (maskOf traps).zeroExtend 64 ∧ x.fpc = nextPc (s.frag r) (.tree tr) ∧ x.heldE = maskOf traps
          ∧ ((t.group r.core r.hslot).frags.get {} x.entry).m = maskOf traps))
  ∧ (∀ (tr : Tree) (s : State) (r : FragRef) (l : BitVec 30), Starts s r → Undivided s r → Distinct s r → NoFault s r →
    (s.frag r).succs = [] → (s.frag r).e ≠ 0 → (s.frag r).e = (s.frag r).m → tr.has 0 = false →
    tr.leaves = [{ kind := .trap, offset := l }] →
    ∃ t x, exec (.tree tr) s = .next t ∧ (t.group r.core r.hslot).fault = some x ∧ x.cause = 25
      ∧ x.faddr = (s.frag r).m.zeroExtend 64 ∧ x.fpc = nextPc (s.frag r) (.tree tr) ∧ StrandsSame s t r [])

/-- R131 to R133, R135: XCHG, XSHF, SHFX and BCST. Each active strand takes the register of the strand that its index names
(for XSHF, relative to its own slot), as every register stood before the pass, or 0 where no member has that slot; the
predicate that c names tells which. BCST uses the index of the first active strand for all. -/
def Obligations.ExchangeCompletes : Prop :=
  ∀ (i : Instr) (op : Nat) (f : FmtA) (s : State) (r : FragRef),
    (i, op) ∈ [(Instr.xchg f, 0x50), (.xshf f, 0x51), (.shfx f, 0x57), (.bcst f, 0x55)] → (i = .shfx f → f.ka = false) →
    Starts s r → Arrives s r i → Distinct s r →
    let act := activeSlots s r f.guard f.gn 0
    let isrc : SrcReg := { isK := f.kb, num := f.b.toNat }
    let idx (sl : Nat) : Nat := match f.lit with
      | some v => v.toNat % 2 ^ 32
      | none => (readSource s r (if i = .bcst f then act.headD 0 else sl) isrc).1.toNat % 2 ^ 32
    let src (sl : Nat) : Option Nat :=
      if i = .xshf f then shiftSlot f.fn.toNat sl (idx sl)
      else if i = .shfx f then (if idx sl < 32 * (f.fn.toNat + 1) then some (idx sl % 32) else none)
      else some (idx sl)
    let reg (sl : Nat) : Nat := if i = .shfx f then f.a.toNat + idx sl / 32 else f.a.toNat
    let ok (sl : Nat) : Bool := match src sl with
      | some j => decide (j < 32) && (s.frag r).m.getLsbD j
      | none => false
    let val (sl : Nat) : W32 :=
      if !ok sl then 0
      else if f.ka then (s.kreg r.core r.hslot f.a.toNat).val.truncate 32
      else (s.vreg r.core (s.group r.core r.hslot).team (sidAt s r ((src sl).getD 0)) ((s.frag r).wbase + reg sl)).val
    (∀ sl ∈ act, (f.lit = none → SourcesReady s r sl [isrc]) ∧ (f.ka = true → SourcesReady s r sl [{ isK := true, num := f.a.toNat }])
      ∧ (f.ka = false → ok sl = true → SourcesReady s r ((src sl).getD 0) [{ isK := false, num := reg sl }])
      ∧ VDestReady s r sl [f.d.toNat]) →
    ∃ t, exec i s = .next t ∧ Completes s t r i (nextPc (s.frag r) i) (weightOf op * typeFactor op f.ty * act.length)
      ∧ Counted s t r act.length 0 ∧ KSame s t r [] ∧ FlagsSame s t r
      ∧ (∀ sl ∈ act, t.strand r.core (s.group r.core r.hslot).team (sidAt s r sl) =
          (s.strand r.core (s.group r.core r.hslot).team (sidAt s r sl)).write (s.frag r).wbase [(f.d.toNat, val sl)]
            (if f.c.toNat < 15 then [(f.c.toNat, ok sl)] else []))
      ∧ StrandsSame s t r (act.map (sidAt s r))

/-- R134: SCAN. Each active strand takes the running value of the active strands up to it, in slot order, with its own
source or (fn bit 3) without.

R134: RED. The k register takes the value of all active strands' sources combined; nothing is written without one. For
n32 sums it is the sum modulo 2^32.

R135: VOTE. fn 0 gathers the predicates of the active strands as bits by slot, fn 1 is 1 when any holds, fn 2 when all
hold.

R136: RBAL deals consecutive positions of the active strands' rows, laid end to end from the cursor on, to the active
strands, and moves the cursor past them. A position beyond the last row gives the row 0xFFFFFFFF. -/
def Obligations.Collectives : Prop :=
  (∀ (f : FmtA) (s : State) (r : FragRef), Starts s r → Arrives s r (.scan f) → Distinct s r →
    let act := activeSlots s r f.guard f.gn 0
    let ds := if f.ty.is64 then [f.d.toNat, f.d.toNat + 1] else [f.d.toNat]
    let op := f.fn.toNat % 8
    let run (l : List Nat) : Int :=
      l.foldl (fun acc sl => (scanCombine f.ty f.mode op acc (readSource s r sl (scanSrc f)).1).1) (scanIdentity f.ty op)
    let upto (sl : Nat) : List Nat := act.filter (fun j => if f.fn.getLsbD 3 then decide (j < sl) else decide (j ≤ sl))
    (∀ sl ∈ act, SourcesReady s r sl [scanSrc f] ∧ VDestReady s r sl ds) →
    ∃ t, exec (.scan f) s = .next t
      ∧ Completes s t r (.scan f) (nextPc (s.frag r) (.scan f)) (weightOf 0x52 * typeFactor 0x52 f.ty * act.length)
      ∧ Counted s t r act.length 0 ∧ KSame s t r []
      ∧ (∀ sl ∈ act, t.strand r.core (s.group r.core r.hslot).team (sidAt s r sl) =
          (s.strand r.core (s.group r.core r.hslot).team (sidAt s r sl)).write (s.frag r).wbase
            ((vWords f.ty.is64 (scanDeliver f.ty f.mode (run (upto sl))).1).zipIdx.map (fun p => (f.d.toNat + p.2, p.1))) [])
      ∧ StrandsSame s t r (act.map (sidAt s r)))
  ∧ (∀ (f : FmtA) (s : State) (r : FragRef), Starts s r → Arrives s r (.red f) → Distinct s r →
    let act := activeSlots s r f.guard f.gn 0
    let v (sl : Nat) : W64 := (readSource s r sl (scanSrc f)).1
    let out := act.foldl (fun acc sl => (scanCombine f.ty f.mode f.fn.toNat acc (v sl)).1) (scanIdentity f.ty f.fn.toNat)
    (∀ sl ∈ act, SourcesReady s r sl [scanSrc f]) → KDestReady s r f.d.toNat →
    ∃ t, exec (.red f) s = .next t
      ∧ Completes s t r (.red f) (nextPc (s.frag r) (.red f)) (weightOf 0x53 * typeFactor 0x53 f.ty * act.length)
      ∧ Counted s t r act.length 0 ∧ StrandsSame s t r []
      ∧ (act ≠ [] → t.kreg r.core r.hslot f.d.toNat = { val := (scanDeliver f.ty f.mode out).1 })
      ∧ (act ≠ [] → f.ty = .n32 → f.mode = .rne → f.fn = 0 →
          (t.kreg r.core r.hslot f.d.toNat).val.toNat = (act.map (fun sl => (v sl).toNat % 2 ^ 32)).sum % 2 ^ 32)
      ∧ KSame s t r (if act = [] then [] else [f.d.toNat]))
  ∧ (∀ (f : FmtA) (s : State) (r : FragRef), Starts s r → Arrives s r (.vote f) → Distinct s r → KDestReady s r f.d.toNat →
    let act := activeSlots s r f.guard f.gn 0
    let q (sl : Nat) : Bool := (strandAt s r sl).preds16.getLsbD (f.a.toNat % 16)
    ∃ t, exec (.vote f) s = .next t ∧ Completes s t r (.vote f) (nextPc (s.frag r) (.vote f)) (2 * act.length)
      ∧ Counted s t r act.length 0 ∧ StrandsSame s t r [] ∧ FlagsSame s t r ∧ KSame s t r (if act = [] then [] else [f.d.toNat])
      ∧ (act ≠ [] → (t.kreg r.core r.hslot f.d.toNat).full = true
        ∧ (f.fn = 0 → ∀ j < 64, (t.kreg r.core r.hslot f.d.toNat).val.getLsbD j = (act.contains j && q j))
        ∧ (f.fn = 1 → (t.kreg r.core r.hslot f.d.toNat).val = if act.any q then 1 else 0)
        ∧ (f.fn = 2 → (t.kreg r.core r.hslot f.d.toNat).val = if act.all q then 1 else 0)))
  ∧ (∀ (f : FmtA) (s : State) (r : FragRef), Starts s r → Arrives s r (.rbal f) → Distinct s r →
    let act := activeSlots s r f.guard f.gn 0
    let src : SrcReg := { isK := f.ka, num := f.a.toNat, trap := f.ea }
    let rows := act.map (fun sl => (sl, (readSource s r sl src).1.toNat % 2 ^ 32))
    let cur := (s.kreg r.core r.hslot f.c.toNat).val.toNat
    let pair (k : Nat) : W64 × W64 := rbalFind rows (cur + k)
    (∀ sl ∈ act, SourcesReady s r sl [src] ∧ VDestReady s r sl [f.d.toNat, f.d.toNat + 1]) →
    KDestReady s r f.c.toNat → KSettled s r f.c.toNat → (s.kreg r.core r.hslot f.c.toNat).poison = false →
    ∃ t, exec (.rbal f) s = .next t ∧ Completes s t r (.rbal f) (nextPc (s.frag r) (.rbal f)) (4 * act.length)
      ∧ Counted s t r act.length 0 ∧ FlagsSame s t r
      ∧ (act ≠ [] → t.kreg r.core r.hslot f.c.toNat = { val := .ofNat 64 (cur + act.length) })
      ∧ KSame s t r (if act = [] then [] else [f.c.toNat])
      ∧ (∀ k, (h : k < act.length) → t.strand r.core (s.group r.core r.hslot).team (sidAt s r act[k]) =
          (s.strand r.core (s.group r.core r.hslot).team (sidAt s r act[k])).write (s.frag r).wbase
            [(f.d.toNat, (pair k).1.truncate 32), (f.d.toNat + 1, (pair k).2.truncate 32)] [])
      ∧ StrandsSame s t r (act.map (sidAt s r)))

/-! ## Memory (opcodes 0x80 to 0xA9) -/

/-- R138, R143, R145: LD and LDF of local or gang-local memory, in strand and uniform form. The registers of each strand that
runs are empty until they fill with the bytes its address names; LDF runs on full granules, and its clear action clears
their full bits.

R138, R143, R145: ST and STF to local or gang-local memory. A byte that a strand's store covers takes the data of the last
strand in slot order that covers it, every other byte of every local memory is as before, and STF sets the full bits of
the granules it touches.

R226: an LD, ST or STF of another core's part of the gang-local view acts there 4 cycles later: until then it is under way, and
when it is due it fills its registers from the bytes, or writes the bytes, as they then are. An LDF of such a part waits in its lane
until its access performs, and then fills its registers and clears the full bits, or parks on its granules; that it keeps its lane is the
model's choice (log entry 9), as is the charge of 6 also for 8-byte data (log entry 16). -/
def Obligations.LocalAccesses : Prop :=
  (∀ (i : Instr) (f : FmtM) (s : State) (r : FragRef) (p : Nat → LocalAt),
    (i = .ld f ∨ i = .ldf f) → MemStarts s r i f →
    let act := memSlots s r f
    let n := memBytes f
    let grans (sl : Nat) : List Nat := granules (p sl).off n
    let clear : Bool := match i with
      | .ldf f => f.prio == 1
      | _ => false
    let far (sl : Nat) : Bool := (p sl).far r
    (∀ sl ∈ act, SourcesReady s r sl (addrSrcs f true) ∧ FillReady s r sl f.u (dataRegs f)
      ∧ LocalGood s r sl f (memAddr s r sl f true) n true false (p sl)
      ∧ (i = .ldf f → (p sl).far r = false ∧ localFull (s.team (p sl).core (p sl).team) (grans sl) = true)) →
    (clear = true → ∀ sl ∈ act, ∀ sl' ∈ act, sl ≠ sl' → (p sl).core = (p sl').core → (p sl).team = (p sl').team →
      ∀ g ∈ grans sl, g ∉ grans sl') →
    ∃ t, exec i s = .next t ∧ GoesOn s t r i ∧ OnlyEmptied s t r f.u act (dataRegs f) ∧ GroupKept s t r ∧ OthersSame s t r
      ∧ BeyondSame s t ∧ t.posted = s.posted ∧ t.fetches = s.fetches ∧ Ran s t r f.u act (if i = .ldf f then 4 else 6)
      ∧ t.fills.map (fun q => (q.core, q.hslot, q.uni, q.sid, q.pos, q.words)) =
          s.fills.map (fun q => (q.core, q.hslot, q.uni, q.sid, q.pos, q.words))
            ++ (act.filter (fun sl => !far sl)).map (fun sl => (r.core, r.hslot, f.u, sidAt s r sl, regPos s r f.u f.d.toNat,
                chunkWords (if f.u then 8 else 4) 8 (localBytes (s.team (p sl).core (p sl).team) (p sl).off n)))
      ∧ GangSends s t r f.u (regPos s r f.u f.d.toNat) (fun _ => 0) p .read (act.filter far)
      ∧ ∀ c u, (t.team c u).mem = (s.team c u).mem
          ∧ ∀ g, (t.team c u).full.contains g = ((s.team c u).full.contains g
              && !(clear && act.any (fun sl => (p sl).core == c && (p sl).team == u && (grans sl).contains g))))
  ∧ (∀ (i : Instr) (f : FmtM) (s : State) (r : FragRef) (p : Nat → LocalAt),
    (i = .st f ∨ i = .stf f) → MemStarts s r i f → NoClaspWait s r → LocalMemoryOk s →
    let act := memSlots s r f
    let n := memBytes f
    (∀ sl ∈ act, SourcesReady s r sl (addrSrcs f true) ∧ SourcesReady s r sl (dataSrcs f (dataRegs f))
      ∧ LocalGood s r sl f (memAddr s r sl f true) n false true (p sl)) →
    let near := act.filter (fun sl => !(p sl).far r)
    ∃ t, exec i s = .next t ∧ GoesOn s t r i ∧ RegistersSame s t r ∧ GroupKept s t r ∧ t.mem = s.mem ∧ t.posted = s.posted
      ∧ t.fetches = s.fetches ∧ t.fills = s.fills ∧ Ran s t r f.u act (if i = .stf f then 4 else 6)
      ∧ (∀ c h k, t.kreg c h k = s.kreg c h k) ∧ (∀ c u sid, t.strand c u sid = s.strand c u sid)
      ∧ GangSends s t r f.u (regPos s r f.u f.d.toNat) (fun sl => memData s r sl f (dataRegs f) % 2 ^ (8 * n)) p
          (.write (decide (i = .stf f))) (act.filter (fun sl => (p sl).far r))
      ∧ (∀ sl ∈ near, ∀ j < n,
          (∀ sl' ∈ near, sl < sl' → (p sl').covers n (p sl).core (p sl).team ((p sl).off + j) = false) →
          (t.team (p sl).core (p sl).team).mem.get 0 ((p sl).off + j) = .ofNat 8 (memData s r sl f (dataRegs f) / 256 ^ j))
      ∧ (∀ c u o, (∀ sl ∈ near, (p sl).covers n c u o = false) → (t.team c u).mem.get 0 o = (s.team c u).mem.get 0 o)
      ∧ ∀ c u g, (t.team c u).full.contains g = ((s.team c u).full.contains g
          || (decide (i = .stf f) && near.any (fun sl => (p sl).core == c && (p sl).team == u && (granules (p sl).off n).contains g))))
  ∧ (∀ (f : FmtM) (s : State) (r : FragRef) (sl : Nat) (rest : List Nat) (p : LocalAt),
    MemStarts s r (.ldf f) f → memSlots s r f = sl :: rest → SourcesReady s r sl (addrSrcs f true) →
    FillReady s r sl f.u (dataRegs f) → LocalGood s r sl f (memAddr s r sl f true) (memBytes f) true false p → p.far r = true →
    ∃ t, exec (.ldf f) s = .next t ∧ (t.frag r).pc = (s.frag r).pc ∧ (t.frag r).wait = .remote false ∧ (t.frag r).resume = sl
      ∧ (t.frag r).lane = (s.frag r).lane ∧ RegistersSame s t r ∧ GroupKept s t r ∧ t.mem = s.mem ∧ t.fills = s.fills
      ∧ GangSends s t r f.u (regPos s r f.u f.d.toNat) (fun _ => 0) (fun _ => p) (.ldf (f.prio == 1)) [sl])
  ∧ ∀ (s : State) (c : Nat) (x : GangAcc), s.gang = [x] → x.acc.core = c → x.at_ ≤ (s.core c).cycle → LocalMemoryOk s →
    ((s.core x.core).teams.find? x.team).isSome = true →
    (x.what = .read → x.acc.kind = .load → x.acc.dead = false → localBad (s.team x.core x.team) x.off x.acc.size = false →
      (performDue s c).gang = [] ∧ (performDue s c).cores = s.cores
      ∧ (performDue s c).fills.map (fun q => (q.core, q.hslot, q.uni, q.sid, q.pos, q.words)) =
          s.fills.map (fun q => (q.core, q.hslot, q.uni, q.sid, q.pos, q.words))
            ++ [(c, x.acc.hslot, x.acc.uni, x.acc.sid, x.acc.pos,
                chunkWords (if x.acc.uni then 8 else 4) 8 (localBytes (s.team x.core x.team) x.off x.acc.size))])
    ∧ (∀ clr, x.what = .ldf clr → x.acc.kind = .load → (s.frag (holder x)).wait = .remote false →
      (s.frag (holder x)).instr.isSome = true → localBad (s.team x.core x.team) x.off x.acc.size = false →
      let gs := granules x.off x.acc.size
      (localFull (s.team x.core x.team) gs = true →
        ((performDue s c).frag (holder x)).wait = .remote true
        ∧ (performDue s c).fills.map (fun q => (q.core, q.hslot, q.uni, q.sid, q.pos, q.words)) =
            s.fills.map (fun q => (q.core, q.hslot, q.uni, q.sid, q.pos, q.words))
              ++ [(c, x.acc.hslot, x.acc.uni, x.acc.sid, x.acc.pos,
                  chunkWords (if x.acc.uni then 8 else 4) 8 (localBytes (s.team x.core x.team) x.off x.acc.size))]
        ∧ ∀ k u g, ((performDue s c).team k u).full.contains g = ((s.team k u).full.contains g
            && !(clr && k == x.core && u == x.team && gs.contains g)))
      ∧ (localFull (s.team x.core x.team) gs = false →
        ((performDue s c).frag (holder x)).wait = .granules x.core x.team gs ∧ (performDue s c).fills = s.fills
        ∧ ∀ k u, ((performDue s c).team k u).full = (s.team k u).full))
    ∧ (∀ fill, x.what = .write fill → x.acc.kind = .store →
      (performDue s c).gang = [] ∧ (performDue s c).fills = s.fills
      ∧ (∀ j < x.acc.size, ((performDue s c).team x.core x.team).mem.get 0 (x.off + j) = .ofNat 8 (x.acc.data / 256 ^ j))
      ∧ ∀ k u o, ¬ (k = x.core ∧ u = x.team ∧ x.off ≤ o ∧ o < x.off + x.acc.size) →
          ((performDue s c).team k u).mem.get 0 o = (s.team k u).mem.get 0 o)

/-- R137, R140, R143, R148, R151: LD of global or private memory, in strand and uniform form. Every strand that runs has its
read under way, the registers it fills are empty until it does, and memory is as before. (That a strand is charged 6 also for 8-byte
data, here and below, is the model's choice of log entry 16.)

R143, R148, R150: ST to global or private memory. A global store of a strand is posted with its address and its data; its
request holds the byte that the last strand in slot order gives. A store to private data is in the L1, or kept with the
sector's entry, or posted (R235). No register changes. -/
def Obligations.GlobalAccesses : Prop :=
  (∀ (f : FmtM) (s : State) (r : FragRef), MemStarts s r (.ld f) f → (f.space = .global ∨ f.space = .lane) →
    let act := memSlots s r f
    let a (sl : Nat) : W64 := memAddr s r sl f true
    (∀ sl ∈ act, SourcesReady s r sl (addrSrcs f true) ∧ FillReady s r sl f.u (dataRegs f)
      ∧ ReachGood s r sl f (a sl) true false .load) →
    AccessRoom s r (2 * act.length) (2 * act.length) →
    ∃ t, exec (.ld f) s = .next t ∧ GoesOn s t r (.ld f) ∧ OnlyEmptied s t r f.u act (dataRegs f) ∧ GroupKept s t r
      ∧ OthersSame s t r ∧ BeyondSame s t ∧ LocalSame s t ∧ Ran s t r f.u act 6
      ∧ ∀ sl ∈ act, ∀ w ∈ accWords s r sl f (a sl), InFlight t r f.u (sidAt s r sl) w.2.2 w.1)
  ∧ (∀ (f : FmtM) (s : State) (r : FragRef), MemStarts s r (.st f) f → (f.space = .global ∨ f.space = .lane) →
    let act := memSlots s r f
    let n := memBytes f
    let a (sl : Nat) : W64 := memAddr s r sl f true
    let data (sl : Nat) : Nat := memData s r sl f (dataRegs f) % 2 ^ (8 * n)
    (∀ sl ∈ act, SourcesReady s r sl (addrSrcs f true) ∧ SourcesReady s r sl (dataSrcs f (dataRegs f))
      ∧ ReachGood s r sl f (a sl) false true .store) →
    AccessRoom s r (2 * act.length) (2 * act.length) →
    ∃ t, exec (.st f) s = .next t ∧ GoesOn s t r (.st f) ∧ RegistersSame s t r ∧ GroupKept s t r ∧ OthersSame s t r
      ∧ BeyondSame s t ∧ LocalSame s t ∧ t.fills = s.fills ∧ Ran s t r f.u act 6
      ∧ (f.space = .global → ∀ sl ∈ act, ∃ q x, PostedOf t r .store (sidAt s r sl) (a sl) (data sl) q x
          ∧ ∀ j < n, (∀ sl' ∈ act, sl < sl' → ¬ ((a sl').toNat % 2 ^ 57 ≤ (a sl).toNat % 2 ^ 57 + j
                ∧ (a sl).toNat % 2 ^ 57 + j < (a sl').toNat % 2 ^ 57 + n)) →
              q.bytes.find? ((a sl).toNat % 2 ^ 57 % 256 + j) = some (.ofNat 8 (data sl / 256 ^ j)))
      ∧ (f.space = .lane → ∀ sl va m pos, act = [sl] → accWords s r sl f (a sl) = [(va, m, pos)] →
          let line := va.toNat % 2 ^ 57 / 256
          let off := va.toNat % 2 ^ 57 % 256
          (∀ l ∈ (s.core (l1Core s r.core line)).l1, l.bytes.length = 256) →
          (∃ l ∈ (t.core (l1Core s r.core line)).l1, l.line = line ∧ l.lane = true ∧ l.dirty.getLsbD (off / 64) = true
            ∧ (l.bytes.drop off).take m = wordBytes m (data sl))
          ∨ (∃ q ∈ t.fetches, q.lane = true ∧ q.line = line ∧ ∃ x ∈ q.kept, x.sid = sidAt s r sl ∧ x.addr = va ∧ x.data = data sl)
          ∨ (∃ q x, PostedOf t r .store (sidAt s r sl) va (data sl) q x)))

/-- R144: LDLINE and STLINE. One line serves the whole pass, at the address of the first active strand: each strand loads or
stores the words of its slot number and of 32 more. At another core's part of the gang-local view they act 4 cycles later (R226),
and granules that a STLINE writes whole lose their poison with it (R343).

R146, R147: PREF completes whatever its addresses name, with no register or byte changed; where the page is known and lets
a read pass, no copy is held and there is room, requests for the whole line are under way. TAGST posts a write of the tag
of the granule that each strand's address names; TAGLD has the read of a tag under way. -/
def Obligations.LinePrefetchAndTagAccesses : Prop :=
  ((∀ (f : FmtM) (s : State) (r : FragRef) (p : LocalAt), MemStarts s r (.ldline f) f → f.u = false →
    let act := activeSlots s r f.guard f.gn 0
    let a := memAddr s r (act.headD 0) f true
    let ns := [f.d.toNat, f.d.toNat + 1]
    (act ≠ [] → SourcesReady s r (act.headD 0) (addrSrcs f true)) → (∀ sl ∈ act, VDestReady s r sl ns) →
    (act ≠ [] → (f.space = .global ∧ a.toNat < 2 ^ 61 ∧ a.toNat % 256 = 0 ∧ PageGood s r (act.headD 0) a 256 true false .line
        ∧ AccessRoom s r act.length 4)
      ∨ LocalGood s r (act.headD 0) f a 256 true false p) →
    ∃ t, exec (.ldline f) s = .next t ∧ GoesOn s t r (.ldline f) ∧ OnlyEmptied s t r false act ns ∧ GroupKept s t r
      ∧ OthersSame s t r ∧ BeyondSame s t ∧ LocalSame s t ∧ Ran s t r false act 48
      ∧ (f.space = .global → ∀ sl ∈ act, InFlight t r false (sidAt s r sl) ((s.frag r).wbase + f.d.toNat) a)
      ∧ (f.space ≠ .global → p.far r = true → t.fills = s.fills
          ∧ GangSends s t r false ((s.frag r).wbase + f.d.toNat) (fun _ => 0) (fun _ => p) .read act)
      ∧ (f.space ≠ .global → p.far r = false →
          t.fills.map (fun q => (q.sid, q.pos, q.words)) = s.fills.map (fun q => (q.sid, q.pos, q.words))
          ++ act.map (fun sl => (sidAt s r sl, (s.frag r).wbase + f.d.toNat,
              [.ofNat 64 (bytesVal (((localBytes (s.team p.core p.team) p.off 256).drop (4 * sl)).take 4)),
               .ofNat 64 (bytesVal (((localBytes (s.team p.core p.team) p.off 256).drop (128 + 4 * sl)).take 4))]))))
  ∧ (∀ (f : FmtM) (s : State) (r : FragRef) (p : LocalAt), MemStarts s r (.stline f) f → f.u = false → NoClaspWait s r → LocalMemoryOk s →
    let act := activeSlots s r f.guard f.gn 0
    let a := memAddr s r (act.headD 0) f true
    let v (sl k : Nat) : W32 := (s.vreg r.core (s.group r.core r.hslot).team (sidAt s r sl) ((s.frag r).wbase + f.d.toNat + k)).val
    (act ≠ [] → SourcesReady s r (act.headD 0) (addrSrcs f true)) →
    (∀ sl ∈ act, SourcesReady s r sl (dataSrcs f [f.d.toNat, f.d.toNat + 1])) →
    (act ≠ [] → (f.space = .global ∧ a.toNat < 2 ^ 61 ∧ a.toNat % 256 = 0 ∧ PageGood s r (act.headD 0) a 256 false true .sline
        ∧ AccessRoom s r act.length 1)
      ∨ LocalGood s r (act.headD 0) f a 256 false true p) →
    ∃ t, exec (.stline f) s = .next t ∧ GoesOn s t r (.stline f) ∧ RegistersSame s t r ∧ GroupKept s t r ∧ t.mem = s.mem
      ∧ t.fills = s.fills ∧ Ran s t r false act 48
      ∧ (f.space = .global → act ≠ [] → ∃ q ∈ t.posted, q.kind = .store ∧ q.core = r.core ∧ q.line = a.toNat % 2 ^ 57 / 256
          ∧ ∀ sl ∈ act, ∀ k < 2, ∀ j < 4,
            q.bytes.find? (4 * (sl + 32 * k) + j) = some (.ofNat 8 ((v sl k).toNat / 256 ^ j)))
      ∧ (f.space ≠ .global → act ≠ [] → p.far r = true →
          GangSends s { t with gang := t.gang.dropLast } r false ((s.frag r).wbase + f.d.toNat)
            (fun sl => (v sl 0).toNat + 2 ^ 32 * (v sl 1).toNat) (fun _ => p) (.write false) act
          ∧ t.gang.getLast?.map GangAcc.what = some (.clean (coveredGranules act p.off))
          ∧ ∀ c u o, (t.team c u).mem.get 0 o = (s.team c u).mem.get 0 o)
      ∧ (f.space ≠ .global → act ≠ [] → p.far r = false →
          (∀ sl ∈ act, ∀ k < 2, ∀ j < 4,
            (t.team p.core p.team).mem.get 0 (p.off + 4 * (sl + 32 * k) + j) = .ofNat 8 ((v sl k).toNat / 256 ^ j))
          ∧ ∀ c u o, (∀ sl ∈ act, ∀ k < 2, ∀ j < 4, ¬ (c = p.core ∧ u = p.team ∧ o = p.off + 4 * (sl + 32 * k) + j)) →
            (t.team c u).mem.get 0 o = (s.team c u).mem.get 0 o)))
  ∧ (∀ (f : FmtM) (s : State) (r : FragRef),
    let act := memSlots s r f
    let a (sl : Nat) : W64 := memAddr s r sl f true
    (∀ sl ∈ act, SourcesReady s r sl (addrSrcs f true)) →
    (MemStarts s r (.pref f) f →
      ∃ t, exec (.pref f) s = .next t ∧ GoesOn s t r (.pref f) ∧ RegistersSame s t r ∧ GroupKept s t r ∧ OthersSame s t r
        ∧ BeyondSame s t ∧ LocalSame s t ∧ t.fills = s.fills ∧ Ran s t r f.u act 2
        ∧ ∀ sl, act = [sl] → (prefLeaf s r (a sl)).2.isSome = true →
            (∀ c, ∀ l ∈ (s.core c).l1, l.asid ≠ (s.teamOf r.core r.hslot).ctx.asid) →
            (∀ d, ∀ l ∈ (s.die d).l2, l.asid ≠ (s.teamOf r.core r.hslot).ctx.asid) → missCount s r.core + 4 ≤ 256 →
            ∀ i < 4, ∃ q ∈ t.fetches, q.core = r.core ∧ q.line = (a sl).toNat % 2 ^ 57 / 256 ∧ (q.sector = i ∨ q.sector = 4))
    ∧ (MemStarts s r (.tagst f) f → AccessRoom s r act.length act.length →
      (∀ sl ∈ act, (a sl).toNat < 2 ^ 61 ∧ (a sl).toNat % 32 = 0 ∧ PageGood s r sl (a sl) 32 false true .tagst) →
      ∃ t, exec (.tagst f) s = .next t ∧ GoesOn s t r (.tagst f) ∧ RegistersSame s t r ∧ GroupKept s t r ∧ OthersSame s t r
        ∧ BeyondSame s t ∧ LocalSame s t ∧ t.fills = s.fills ∧ Ran s t r f.u act 6
        ∧ ∀ sl ∈ act, ∃ q x, PostedOf t r .tagst (sidAt s r sl) (a sl) 0 q x ∧ q.accs = [x] ∧ x.kind = .tagst ∧ q.bytes = [])
    ∧ (MemStarts s r (.tagld f) f → AccessRoom s r act.length act.length →
      (∀ sl ∈ act, (a sl).toNat < 2 ^ 61 ∧ (a sl).toNat % 32 = 0 ∧ PageGood s r sl (a sl) 32 true false .tagld
        ∧ FillReady s r sl f.u [f.d.toNat]) →
      ∃ t, exec (.tagld f) s = .next t ∧ GoesOn s t r (.tagld f) ∧ OnlyEmptied s t r f.u act [f.d.toNat] ∧ GroupKept s t r
        ∧ OthersSame s t r ∧ BeyondSame s t ∧ LocalSame s t ∧ Ran s t r f.u act 6
        ∧ ∀ sl ∈ act, InFlight t r f.u (sidAt s r sl) (regPos s r f.u f.d.toNat) (a sl)))

/-- R138, R139, R148: the faults of an access of LD, at its first strand: ADDRESS (4) beyond the space, STACK-LIMIT (10) beyond the private
words of the team, then ALIGN (5), then RIGHTS (6) on a page without the read bit and KEY (7) where the key is denied. That they come
before a live-in or pending destination is the model's choice (log entry 16). -/
def Obligations.AccessFaults : Prop :=
  ∀ (f : FmtM) (s : State) (r : FragRef) (sl : Nat) (rest : List Nat), MemStarts s r (.ld f) f → memSlots s r f = sl :: rest →
    SourcesReady s r sl (addrSrcs f true) → NoFault s r →
    let a := memAddr s r sl f true
    let faults (cause : Nat) : Prop := ∃ t x, exec (.ld f) s = .next t ∧ (t.group r.core r.hslot).fault = some x
      ∧ x.cause = cause ∧ x.fslot = sl ∧ x.faddr = a ∧ x.fpc = (s.frag r).pc ∧ StrandsSame s t r [] ∧ FlagsSame s t r
      ∧ t.mem = s.mem ∧ t.fills = s.fills ∧ t.fetches = s.fetches
    (f.space = .global → 2 ^ 61 ≤ a.toNat → faults 4)
    ∧ (f.space = .lane → 2 ^ 32 ≤ a.toNat → faults 4)
    ∧ (f.space = .local → (s.teamOf r.core r.hslot).lsize ≤ a.toNat → faults 4)
    ∧ (f.space = .lane → a.toNat < 2 ^ 32 → (s.teamOf r.core r.hslot).laneWords ≤ (a.toNat + memBytes f - 1) / 4 → faults 10)
    ∧ (f.space = .global → a.toNat < 2 ^ 61 → a.toNat % memBytes f ≠ 0 → faults 5)
    ∧ (f.space = .local → a.toNat < (s.teamOf r.core r.hslot).lsize → a.toNat % memBytes f ≠ 0 → faults 5)
    ∧ (∀ e l, f.space = .global → a.toNat < 2 ^ 61 → a.toNat % memBytes f = 0 →
        watched s r sl 0 (a.toNat % 2 ^ 57) (memBytes f) true false = none →
        tlbFind s r.core (s.teamOf r.core r.hslot).ctx.asid (a.toNat % 2 ^ 57) = some e → e.leaf = some l →
        (l.rd = false → faults 6)
        ∧ (l.rd = true → keyDenies (passPkr s r) l.key false = true → faults 7))

/-- R197, R198, R200: the ten atomics, in strand and uniform form. On local memory each strand reads and writes at once, and
its registers fill with the old value unless nr is 1, but at another core's part of the gang-local view 4 cycles later (R226); on
global memory each strand's operation is posted to its home. A strand of a 64-bit or h2 atomic is charged twice (R304).

R199: what each atomic leaves in memory of the old value and its operand, at a width of w bits; AFADD, at 32 bits, the rounded
exact sum as f32 or of each f16 element.

R204 to R206: DQPUSH, DQPOP and DQSTEAL. Each strand's operation is posted to the home of its descriptor, with the value of
a push; the status register, and those of a popped value, are empty until it has performed there. A strand's 64-bit value is charged
twice (R304, R205). -/
def Obligations.AtomicsAndDeques : Prop :=
  (∀ (i : Instr) (op : Nat) (f : FmtM) (s : State) (r : FragRef) (p : Nat → LocalAt),
    (i, op) ∈ atomics f → MemStarts s r i f →
    let act := memSlots s r f
    let n := memBytes f
    let a (sl : Nat) : W64 := memAddr s r sl f true
    let near := act.filter (fun sl => !(p sl).far r)
    let w := if f.u then 10 else if n = 8 ∨ op = 0x98 ∧ sgnBit f = true then 20 else 10
    (∀ sl ∈ act, SourcesReady s r sl (addrSrcs f true) ∧ SourcesReady s r sl (dataSrcs f (atomicIn op f))
      ∧ FillReady s r sl f.u (atomicOut f)) →
    (NoClaspWait s r → LocalMemoryOk s → (∀ sl ∈ act, LocalGood s r sl f (a sl) n true true (p sl)) →
      ∃ t, exec i s = .next t ∧ GoesOn s t r i ∧ OnlyEmptied s t r f.u act (atomicOut f) ∧ GroupKept s t r ∧ t.mem = s.mem
        ∧ t.posted = s.posted ∧ t.fetches = s.fetches ∧ Ran s t r f.u act w
        ∧ (∀ c u o, (∀ sl ∈ near, (p sl).covers n c u o = false) → (t.team c u).mem.get 0 o = (s.team c u).mem.get 0 o)
        ∧ (noResult f = true → t.fills = s.fills)
        ∧ GangSends s t r f.u (regPos s r f.u f.d.toNat) (fun sl => operandOf s r sl op f) p .atomic
            (act.filter (fun sl => (p sl).far r))
        ∧ ∀ sl ∈ near, (∀ sl' ∈ near, sl' ≠ sl → ∀ j < n, (p sl').covers n (p sl).core (p sl).team ((p sl).off + j) = false) →
            let old := bytesVal (localBytes (s.team (p sl).core (p sl).team) (p sl).off n)
            localBytes (t.team (p sl).core (p sl).team) (p sl).off n =
                wordBytes n (atomicNew op (sgnBit f && op != 0x98) (sgnBit f && op == 0x98) (8 * n) old (operandOf s r sl op f))
              ∧ (noResult f = false → ∃ q ∈ t.fills, q.core = r.core ∧ q.hslot = r.hslot ∧ q.uni = f.u ∧ q.sid = sidAt s r sl
                  ∧ q.pos = regPos s r f.u f.d.toNat ∧ q.words = chunkWords (if f.u then 8 else 4) 2 (wordBytes n old)))
    ∧ (f.space = .global → (s.group r.core r.hslot).cx < 255 → AccessRoom s r act.length 0 →
      (∀ sl ∈ act, ReachGood s r sl f (a sl) true true (atomicKind op f)) →
      ∃ t, exec i s = .next t ∧ GoesOn s t r i ∧ OnlyEmptied s t r f.u act (atomicOut f) ∧ OthersSame s t r ∧ BeyondSame s t
        ∧ LocalSame s t ∧ t.fills = s.fills ∧ Ran s t r f.u act w
        ∧ ∀ sl ∈ act, ∃ q x, PostedOf t r .atomic (sidAt s r sl) (a sl) (operandOf s r sl op f) q x ∧ q.accs = [x]
            ∧ x.kind = atomicKind op f ∧ x.uni = f.u ∧ x.pos = regPos s r f.u f.d.toNat ∧ x.size = n))
  ∧ (∀ (w old x : Nat) (sg : Bool), (w = 32 ∨ w = 64) → old < 2 ^ w → x < 2 ^ w →
    let lt (u v : Nat) : Prop := if sg then (BitVec.ofNat w u).toInt ≤ (BitVec.ofNat w v).toInt else u ≤ v
    atomicNew 0x90 sg false w old x = (old + x) % 2 ^ w
    ∧ (lt old x → atomicNew 0x91 sg false w old x = old ∧ atomicNew 0x92 sg false w old x = x)
    ∧ (¬ lt old x → atomicNew 0x91 sg false w old x = x ∧ atomicNew 0x92 sg false w old x = old)
    ∧ atomicNew 0x93 sg false w old x = old &&& x ∧ atomicNew 0x94 sg false w old x = old ||| x
    ∧ atomicNew 0x95 sg false w old x = old ^^^ x ∧ atomicNew 0x96 sg false w old x = x
    ∧ (∀ y < 2 ^ w, atomicNew 0x97 sg false w old (x + 2 ^ w * y) = if old = x then y else old)
    ∧ atomicNew 0x99 sg false w old x = (if x ≤ old then 0 else old + 1)
    ∧ (w = 32 →
        let fsum (t : Ty) (a b : Nat) : Nat := (Num.deliverF t .rne (Num.sumX .rne [Num.fval t a, Num.fval t b]).1).1
        atomicNew 0x98 sg false w old x = fsum .f32 old x % 2 ^ 32
        ∧ atomicNew 0x98 sg true w old x =
            (fsum .f16 (old % 2 ^ 16) (x % 2 ^ 16) + 2 ^ 16 * fsum .f16 (old / 2 ^ 16) (x / 2 ^ 16)) % 2 ^ 32
        ∧ ((Num.fval .f32 old = .nan ∨ Num.fval .f32 x = .nan) → atomicNew 0x98 sg false w old x = 0x7FC00000)))
  ∧ (∀ (i : Instr) (kind : AccKind) (f : FmtM) (s : State) (r : FragRef),
    (i, kind) ∈ [(Instr.dqpush f, AccKind.dqpush), (.dqpop f, .dqpop), (.dqsteal f, .dqsteal)] → MemStarts s r i f →
    let act := memSlots s r f
    let a (sl : Nat) : W64 := memAddr s r sl f false
    let vals := (List.range (if f.u then 1 else 2)).map (f.d.toNat + ·)
    let outs := (if kind = .dqpush then [] else vals) ++ [f.d.toNat + (if f.u then 1 else 2)]
    AccessRoom s r act.length 0 →
    (∀ sl ∈ act, SourcesReady s r sl (addrSrcs f false) ∧ (kind = .dqpush → SourcesReady s r sl (dataSrcs f vals))
      ∧ FillReady s r sl f.u outs ∧ (a sl).toNat < 2 ^ 61 ∧ (a sl).toNat % 64 = 0 ∧ PageGood s r sl (a sl) 64 true true kind) →
    ∃ t, exec i s = .next t ∧ GoesOn s t r i ∧ OnlyEmptied s t r f.u act outs ∧ GroupKept s t r ∧ OthersSame s t r
      ∧ BeyondSame s t ∧ LocalSame s t ∧ t.fills = s.fills ∧ Ran s t r f.u act (if f.u then 16 else 32)
      ∧ ∀ sl ∈ act, ∃ q x, PostedOf t r .deque (sidAt s r sl) (a sl)
            (if kind = .dqpush then memData s r sl f vals else 0) q x ∧ q.accs = [x] ∧ x.kind = kind ∧ x.uni = f.u
          ∧ x.pos = regPos s r f.u f.d.toNat)

/-- R219 to R221: FENCE and WAITC go on at once when what they wait for is over, and block their fragment, complete but for
the wait, when it is not. (What a FENCE of a fragment that runs a handler waits for is log entry 47, the model's choice.)

R208, R209: BAR, BARA and BARW when the arrivals do not complete the barrier: the strands of E have arrived, BAR blocks on
its phase, BARA takes the phase and goes on, BARW goes on with the status when the phase differs from its operand and
blocks when it does not. When the last live strands of the team arrive at BAR the barrier flips, and every waiter, of whatever group
of the team, goes on 4 cycles later with the status. -/
def Obligations.FencesAndBarriers : Prop :=
  (∀ (s : State) (r : FragRef), Starts s r →
    (∀ f : FmtM, (s.frag r).acquires = [] → UnmergedAs s r (s.regionAt r (.fence f)) →
      let upto := s.nextId + (if s.follow.isSome then 1 else 0)
      let done := fenceDone s r.core r.hslot upto (inHandlerAt s r) (f.order.getLsbD 0)
        (if f.order.getLsbD 1 then some f.obs else none)
      ∃ t, exec (.fence f) s = .next t ∧ RegistersSame s t r ∧ GroupKept s t r ∧ OthersSame s t r ∧ BeyondSame s t
        ∧ LocalSame s t ∧ Counted s t r 0 1
        ∧ (done = true → Performs s t r (.fence f))
        ∧ (done = false → (t.frag r).pc = (s.frag r).pc
            ∧ (t.frag r).wait = .fence (f.order.getLsbD 0) (if f.order.getLsbD 1 then some f.obs else none) true upto))
    ∧ (∀ (f : FmtA) (n : Byte), Arrives s r (.waitc f n) →
      let count := match f.fn.toNat with
        | 0 => (s.group r.core r.hslot).cy
        | 1 => (s.group r.core r.hslot).cm
        | _ => (s.group r.core r.hslot).cx
      (count ≤ n.toNat → ∃ t, exec (.waitc f n) s = .next t ∧ Completes s t r (.waitc f n) (nextPc (s.frag r) (.waitc f n)) 1
        ∧ Counted s t r 0 1 ∧ RegistersSame s t r)
      ∧ (n.toNat < count → ∃ t, exec (.waitc f n) s = .next t ∧ (t.frag r).wait = .waitc f.fn.toNat n.toNat
        ∧ (t.frag r).pc = (s.frag r).pc ∧ RegistersSame s t r ∧ GroupKept s t r ∧ Counted s t r 0 1)))
  ∧ (∀ (f : FmtA) (s : State) (r : FragRef), Starts s r → KDestReady s r f.d.toNat →
    let tm := s.teamOf r.core r.hslot
    let b := f.fn.toNat
    let bar : Barrier := tm.bars.get {} b
    let ids := (slotsOf (s.frag r).e).map (sidAt s r)
    let here (t : State) : Barrier := (t.teamOf r.core r.hslot).bars.get {} b
    let arrived (t : State) : Prop := here t = { bar with arrived := bar.arrived ++ ids.filter (fun x => !bar.arrived.contains x),
                                                          clk := Nat.max bar.clk (clockNext (s.group r.core r.hslot).lclk) }
    let short : Prop := ∃ x ∈ liveSids tm, x ∉ bar.arrived ∧ x ∉ ids
    (short → ∃ t, exec (.bar f) s = .next t ∧ arrived t ∧ (t.frag r).wait = .bar b bar.phase f.d.toNat
      ∧ (t.frag r).pc = (s.frag r).pc ∧ RegistersSame s t r ∧ GroupKept s t r ∧ Counted s t r 0 1)
    ∧ (short → UnmergedAs s r (s.regionAt r (.bara f)) → ∃ t, exec (.bara f) s = .next t ∧ arrived t ∧ Performs s t r (.bara f)
      ∧ t.kreg r.core r.hslot f.d.toNat = { val := if bar.phase then 1 else 0 } ∧ KSame s t r [f.d.toNat]
      ∧ StrandsSame s t r [] ∧ GroupKept s t r ∧ Counted s t r 0 1)
    ∧ ((∀ x ∈ liveSids tm, x ∈ bar.arrived ∨ x ∈ ids) → ids ≠ [] → Undivided s r →
      (s.group r.core r.hslot).alloc = true → NoTrace s r →
      let after : Barrier :=
        { phase := !bar.phase, status := bar.abandoned, relClk := Nat.max bar.clk (clockNext (s.group r.core r.hslot).lclk) }
      (∃ t, exec (.bar f) s = .next t ∧ here t = after
        ∧ (t.frag r).pc = (s.frag r).pc + 8 ∧ (t.frag r).wait = .ready ∧ (t.frag r).since = (s.core r.core).cycle + 4
        ∧ t.kreg r.core r.hslot f.d.toNat = { val := if bar.abandoned then 1 else 0 } ∧ KSame s t r [f.d.toNat])
      ∧ ∀ (h e : Nat) (q : Frag) (kd : Nat), h ≠ r.hslot → (s.group r.core h).alloc = true →
          (s.group r.core h).team = (s.group r.core r.hslot).team →
          (s.group r.core h).frags = [(e, q)] → (s.group r.core h).spill = [] →
          (q.wait = .bar b bar.phase kd ∨ q.wait = .barw b bar.phase kd) →
          ∃ t q', exec (.bar f) s = .next t ∧ (t.group r.core h).frags = [(e, q')] ∧ q'.pc = q.pc + 8 ∧ q'.wait = .ready ∧ q'.m = q.m ∧ q'.e = q.e
            ∧ q'.since = Nat.max ((s.core r.core).cycle + 4) q.since
            ∧ t.kreg r.core h kd = { val := if bar.abandoned then 1 else 0 } ∧ ∀ n, n ≠ kd → t.kreg r.core h n = s.kreg r.core h n)
    ∧ (SourcesReady s r (s.frag r).refSlot [{ isK := true, num := f.a.toNat, trap := f.ea }] →
      let ph := (s.kreg r.core r.hslot f.a.toNat).val.getLsbD 0
      (bar.phase ≠ ph → Arrives s r (.barw f) → ∃ t, exec (.barw f) s = .next t
        ∧ GoesOn s t r (.barw f) ∧ GroupKept s t r ∧ OthersSame s t r ∧ BeyondSame s t ∧ LocalSame s t ∧ Ran s t r true [0] 1
        ∧ t.kreg r.core r.hslot f.d.toNat = { val := if bar.status then 1 else 0 } ∧ KSame s t r [f.d.toNat]
        ∧ StrandsSame s t r []
        ∧ (t.group r.core r.hslot).lclk = clockNext (Nat.max (s.group r.core r.hslot).lclk bar.relClk))
      ∧ (bar.phase = ph → ∃ t, exec (.barw f) s = .next t ∧ (t.frag r).wait = .barw b ph f.d.toNat
        ∧ (t.frag r).pc = (s.frag r).pc ∧ RegistersSame s t r ∧ GroupKept s t r ∧ Counted s t r 0 1)))

/-- R210 to R213: the clasp instructions on one strand. CLINIT sets a clasp to n expected arrivals in phase 0 and its granule
full; CLARR adds to the bytes pending and counts one arrival, and the clasp flips when both stand at 0; CLWAIT goes on
when the phase differs from its operand's bit 0 and parks when it does not; CLTRY says which. All of them act at
another core's part of the gang-local view 4 cycles later (R226): until then the register of a CLTRY is empty, and a CLWAIT waits in its
lane, which is the model's choice (log entry 9).

R217: QTRY gives the number of entries that a team queue holds in its cycle, of those pushed in an earlier one. -/
def Obligations.ClaspsAndQueues : Prop :=
  (∀ (f : FmtM) (s : State) (r : FragRef) (sl : Nat) (p : LocalAt), memSlots s r f = [sl] → NoClaspWait s r → LocalMemoryOk s →
    SourcesReady s r sl (addrSrcs f false) → SourcesReady s r sl (dataSrcs f [f.d.toNat]) →
    let a := memAddr s r sl f false
    let x : W64 := (readAll s r sl (dataSrcs f [f.d.toNat])).1.headD 0
    let tm := s.team p.core p.team
    let clasp := readClasp tm p.off
    let frame (t : State) (i : Instr) (w : Nat) : Prop := GoesOn s t r i ∧ GroupKept s t r ∧ t.mem = s.mem ∧ t.posted = s.posted
      ∧ t.fetches = s.fetches ∧ (i ≠ .cltry f → t.fills = s.fills) ∧ Ran s t r f.u [sl] w
    let memSame (t : State) (k : Nat) : Prop := ∀ c u o, p.covers k c u o = false → (t.team c u).mem.get 0 o = (s.team c u).mem.get 0 o
    let sent (t : State) (what : GangWhat) : Prop := ∃ y, t.gang = s.gang ++ [y] ∧ y.acc.core = r.core ∧ y.acc.hslot = r.hslot
      ∧ y.core = p.core ∧ y.team = p.team ∧ y.off = p.off ∧ y.what = what ∧ y.acc.data = x.toNat
      ∧ y.clk = (t.group r.core r.hslot).lclk ∧ (s.core r.core).cycle + 4 ≤ y.at_
    (p.far r = true → LocalGood s r sl f a 16 true true p →
      (MemStarts s r (.clinit f) f →
        ∃ t, exec (.clinit f) s = .next t ∧ frame t (.clinit f) 3 ∧ RegistersSame s t r ∧ memSame t 0 ∧ sent t .clinit)
      ∧ (MemStarts s r (.clarr f) f →
        ∃ t, exec (.clarr f) s = .next t ∧ frame t (.clarr f) 3 ∧ RegistersSame s t r ∧ memSame t 0 ∧ sent t .clarr))
    ∧ (p.far r = true → LocalGood s r sl f a 16 true false p →
      (MemStarts s r (.clwait f) f →
        ∃ t, exec (.clwait f) s = .next t ∧ (t.frag r).pc = (s.frag r).pc ∧ (t.frag r).wait = .remote false
          ∧ (t.frag r).lane = (s.frag r).lane ∧ RegistersSame s t r ∧ GroupKept s t r ∧ t.fills = s.fills ∧ memSame t 0 ∧ sent t .clwait)
      ∧ (MemStarts s r (.cltry f) f → FillReady s r sl f.u [f.d.toNat] →
        ∃ t, exec (.cltry f) s = .next t ∧ frame t (.cltry f) 3 ∧ OnlyEmptied s t r f.u [sl] [f.d.toNat] ∧ t.fills = s.fills
          ∧ memSame t 0 ∧ sent t .cltry))
    ∧ (MemStarts s r (.clinit f) f → LocalGood s r sl f a 16 true true p → p.far r = false →
      ∃ t, exec (.clinit f) s = .next t ∧ frame t (.clinit f) 3 ∧ RegistersSame s t r ∧ memSame t 16
        ∧ readClasp (t.team p.core p.team) p.off =
            { phase := false, expect := x.toNat % 2 ^ 15, parr := x.toNat % 2 ^ 15, pbytes := 0 }
        ∧ (t.team p.core p.team).full.contains (p.off / 16) = true)
    ∧ (MemStarts s r (.clarr f) f → LocalGood s r sl f a 16 true true p → p.far r = false →
      ∃ t, exec (.clarr f) s = .next t ∧ frame t (.clarr f) 3 ∧ RegistersSame s t r ∧ memSame t 8
        ∧ readClasp (t.team p.core p.team) p.off = arrivedClasp clasp x)
    ∧ (LocalGood s r sl f a 16 true false p → p.far r = false →
      (MemStarts s r (.clwait f) f → claspPhase tm p.off ≠ x.getLsbD 0 →
        ∃ t, exec (.clwait f) s = .next t ∧ frame t (.clwait f) 3 ∧ RegistersSame s t r ∧ memSame t 0)
      ∧ (MemStarts s r (.clwait f) f → claspPhase tm p.off = x.getLsbD 0 →
        ∃ t, exec (.clwait f) s = .next t ∧ (t.frag r).pc = (s.frag r).pc ∧ RegistersSame s t r
          ∧ (t.frag r).wait = .clasp p.core p.team p.off (x.getLsbD 0) f.u)
      ∧ (MemStarts s r (.cltry f) f → FillReady s r sl f.u [f.d.toNat] →
        let v : Nat := if claspPhase tm p.off ≠ x.getLsbD 0 then 1 else 0
        ∃ t, exec (.cltry f) s = .next t ∧ frame t (.cltry f) 3 ∧ FlagsSame s t r ∧ memSame t 0
          ∧ (∃ q, t.fills = s.fills ++ [q] ∧ q.words = [])
          ∧ (f.u = true → t.kreg r.core r.hslot f.d.toNat = { val := .ofNat 64 v } ∧ KSame s t r [f.d.toNat] ∧ StrandsSame s t r [])
          ∧ (f.u = false → KSame s t r [] ∧ StrandsSame s t r [sidAt s r sl]
              ∧ t.strand r.core (s.group r.core r.hslot).team (sidAt s r sl) =
                (s.strand r.core (s.group r.core r.hslot).team (sidAt s r sl)).write (s.frag r).wbase [(f.d.toNat, .ofNat 32 v)] []))))
  ∧ (∀ (s : State) (y : GangAcc), ((s.core y.core).teams.find? y.team).isSome = true → LocalMemoryOk s →
    localBad (s.team y.core y.team) y.off 16 = false →
    let now := readClasp ((performGang s y).team y.core y.team) y.off
    let ph : Bool := y.acc.data % 2 = 1
    let moved : Prop := claspPhase (s.team y.core y.team) y.off ≠ ph
    (y.what = .cltry → y.acc.dead = false →
      (y.acc.uni = true → (performGang s y).kreg y.acc.core y.acc.hslot y.acc.pos = { val := if moved then 1 else 0 })
      ∧ (y.acc.uni = false →
          (performGang s y).vreg y.acc.core y.acc.team y.acc.sid y.acc.pos = { val := if moved then 1 else 0 }))
    ∧ (y.what = .clwait → (s.frag (holder y)).wait = .remote false →
      ((performGang s y).frag (holder y)).wait = if moved then .remote true else .clasp y.core y.team y.off ph y.acc.uni)
    ∧ (y.what = .clinit → now = { phase := false, expect := y.acc.data % 2 ^ 15, parr := y.acc.data % 2 ^ 15, pbytes := 0 })
    ∧ (y.what = .clarr → now = arrivedClasp (readClasp (s.team y.core y.team) y.off) (.ofNat 64 y.acc.data)))
  ∧ (∀ (f : FmtA) (s : State) (r : FragRef), Starts s r → KDestReady s r f.d.toNat →
    UnmergedAs s r (s.regionAt r (.qtry f)) →
    ∃ t, exec (.qtry f) s = .next t ∧ Performs s t r (.qtry f) ∧ Counted s t r 0 1 ∧ StrandsSame s t r [] ∧ FlagsSame s t r
      ∧ t.kreg r.core r.hslot f.d.toNat = { val := .ofNat 64 (heldIn (s.teamOf r.core r.hslot) f.fn.toNat (laneNow t r - 1)) }
      ∧ ((∀ e ∈ queueOf (s.teamOf r.core r.hslot) f.fn.toNat, e.at_ < (s.core r.core).cycle + 4) → (s.teamOf r.core r.hslot).pops = [] →
          t.kreg r.core r.hslot f.d.toNat = { val := .ofNat 64 (queueOf (s.teamOf r.core r.hslot) f.fn.toNat).length })
      ∧ KSame s t r [f.d.toNat] ∧ GroupKept s t r ∧ (t.teamOf r.core r.hslot).queues = (s.teamOf r.core r.hslot).queues)

/-! ## Engine commands and engines (opcodes 0xC0 to 0xCD) -/

/-- R237, R238, R241, R305: CPY, CPYP, CPYG, CPYS and CPYR complete: a command that passes the checks of R241, with or without
elements, where its queue and its counter have room, enters the queue of its core with its descriptor as its fragment issued
it, the y counter rises by 1, and the fragment goes on at the next instruction. One that fails a check takes that check's
fault, and nothing is queued. (Which footprint and which address is reported where several fail is log entry 18, the model's choice.)

R238, R255, R263: a command of the wrong role, and an ACRD or ACWR of a team without a bank, raises ROLE (15) with the PC as
its address, and no engine receives anything. -/
def Obligations.CopyCommandsIssueAndRoles : Prop :=
  (∀ (i : Instr) (op len : Nat) (f : FmtE) (s : State) (r : FragRef), (i, op, len) ∈ copyForms f →
    CommandStarts s r i f.d.toNat len → (s.group r.core r.hslot).role = 0 →
    let c := copyOf s r i op len f
    let check := copyCheck (s.teamOf r.core r.hslot) c f.d.toNat
    let g := s.group r.core r.hslot
    (check = none → (s.core r.core).copyq.length < 16 → g.cy < 255 →
      ∃ t id clk, exec i s = .next t ∧ Issued s t r i ∧ RegistersSame s t r
        ∧ (t.core r.core).array = (s.core r.core).array ∧ (t.core r.core).port = (s.core r.core).port
        ∧ (t.core r.core).copyq = (s.core r.core).copyq ++ [{ c with id := id, clk := clk }]
        ∧ (t.group r.core r.hslot).cy = g.cy + 1 ∧ (t.group r.core r.hslot).yq = g.yq ++ [(id, none)])
    ∧ (∀ cause a, check = some (cause, a) → NoFault s r →
      ∃ t x, exec i s = .next t ∧ (t.group r.core r.hslot).fault = some x ∧ x.cause = cause ∧ x.faddr = a
        ∧ x.fpc = (s.frag r).pc ∧ x.fslot = (s.frag r).refSlot ∧ (t.core r.core).copyq = (s.core r.core).copyq))
  ∧ (∀ (i : Instr) (op len : Nat) (f : FmtE) (s : State) (r : FragRef), Starts s r → (s.frag r).acquires = [] → NoFault s r →
    let g := s.group r.core r.hslot
    ((i, op, len) ∈ copyForms f ∧ g.role ≠ 0 ∨ (i, op, len) ∈ arrayForms f ∧ g.role ≠ 1
      ∨ (i = .acrd f ∨ i = .acwr f) ∧ (g.role ≠ 2 ∨ (s.teamOf r.core r.hslot).bank = none)) →
    ∃ t x, exec i s = .next t ∧ (t.group r.core r.hslot).fault = some x ∧ x.cause = 15 ∧ x.faddr = (s.frag r).pc
      ∧ x.fslot = (s.frag r).refSlot ∧ (t.core r.core).copyq = (s.core r.core).copyq
      ∧ (t.core r.core).array = (s.core r.core).array ∧ (t.core r.core).port = (s.core r.core).port)

/-- R262 to R264, R305: MMA, MMAS, MSCA and ACZ. A command that passes the checks of R262 enters the array queue of its team's
bank in the order of arrival, and the m counter rises by 1; one that fails a check takes that check's fault, and nothing is queued.

R263, R272, R273: ACRD and ACWR enter the port queue of their team's bank. The destinations of an ACRD are empty in every
strand of E until it fills them, an ACWR takes the values its sources hold, and no counter rises. -/
def Obligations.MatrixCommandsIssue : Prop :=
  (∀ (i : Instr) (op len : Nat) (f : FmtE) (s : State) (r : FragRef), (i, op, len) ∈ arrayForms f →
    CommandStarts s r i f.d.toNat len → (s.group r.core r.hslot).role = 1 →
    let m := matrixOf s r i op len f
    let g := s.group r.core r.hslot
    (MatrixGood s r m f.d.toNat → heldEntries (s.core r.core).array m.bank < 16 → g.cm < 255 →
      ∃ t id clk cycle, exec i s = .next t ∧ Issued s t r i ∧ RegistersSame s t r ∧ (s.core r.core).cycle ≤ cycle
        ∧ (t.core r.core).copyq = (s.core r.core).copyq ∧ (t.core r.core).port = (s.core r.core).port
        ∧ (t.core r.core).banks = (s.core r.core).banks
        ∧ (t.core r.core).array = arrive (s.core r.core).array { m with id := id, clk := clk, at_ := cycle }
        ∧ (t.group r.core r.hslot).cm = g.cm + 1 ∧ (t.group r.core r.hslot).mq = g.mq ++ [(id, none)])
    ∧ (∀ cause a, mxCheck (s.teamOf r.core r.hslot) (windowOf (s.teamOf r.core r.hslot) g.role) m f.d.toNat = some (cause, a) →
      NoFault s r →
      ∃ t x, exec i s = .next t ∧ (t.group r.core r.hslot).fault = some x ∧ x.cause = cause ∧ x.faddr = a
        ∧ x.fpc = (s.frag r).pc ∧ (t.core r.core).array = (s.core r.core).array))
  ∧ (∀ (f : FmtE) (s : State) (r : FragRef), (s.group r.core r.hslot).role = 2 → (s.teamOf r.core r.hslot).bank.isSome = true →
    let es := slotsOf (s.frag r).e
    let g := s.group r.core r.hslot
    let m := matrixOf s r (.acrd f) 0xCC 1 f
    let w := matrixOf s r (.acwr f) 0xCD 1 f
    (CommandStarts s r (.acrd f) f.d.toNat 1 → MatrixGood s r m f.d.toNat → heldEntries (s.core r.core).port m.bank < 16 →
      (∀ sl ∈ es, VDestReady s r sl m.dests) →
      ∃ t id clk cycle, exec (.acrd f) s = .next t ∧ (s.core r.core).cycle ≤ cycle ∧ Performs s t r (.acrd f) ∧ GroupIssued s t r ∧ BeyondSame s t ∧ Counted s t r 0 1
        ∧ OnlyEmptied s t r false es m.dests ∧ t.fills = s.fills ∧ (t.core r.core).array = (s.core r.core).array
        ∧ (t.core r.core).port = arrive (s.core r.core).port { m with id := id, clk := clk, at_ := cycle }
        ∧ (t.group r.core r.hslot).cm = g.cm ∧ (t.group r.core r.hslot).cy = g.cy)
    ∧ (CommandStarts s r (.acwr f) f.d.toNat 1 → MatrixGood s r w f.d.toNat → heldEntries (s.core r.core).port w.bank < 16 →
      (∀ sl ∈ es, SourcesReady s r sl (w.dests.map (fun n => { isK := false, num := n }))) →
      ∃ t id clk cycle vals, exec (.acwr f) s = .next t ∧ (s.core r.core).cycle ≤ cycle ∧ Issued s t r (.acwr f) ∧ RegistersSame s t r
        ∧ (t.core r.core).array = (s.core r.core).array
        ∧ (t.core r.core).port = arrive (s.core r.core).port { w with id := id, clk := clk, at_ := cycle, vals := vals }
        ∧ (∀ sl ∈ es, vals.get [] sl = w.dests.map (fun n =>
            (s.vreg r.core g.team (sidAt s r sl) ((s.frag r).wbase + n)).val))
        ∧ (t.group r.core r.hslot).cm = g.cm ∧ (t.group r.core r.hslot).cy = g.cy))

/-- R241, R246 to R250: a command without elements completes from its queue (when it is at the head of it, which is log entry 18, the
model's choice); an idle engine takes the command at the head of the queue whose turn it is; a line reaches the engine as memory holds
it; a beat that has been read leaves the buffer for its places, element by element, as bytes or for CPYR as sums: what lies in local
memory stands there at once, what lies at a home of the device is pending there, and what lies with the host or a peer is under way;
a decrement that waited lowers its clasp; and a command that has delivered everything completes. -/
def Obligations.CopyEngineEvents : Prop :=
  (∀ (d c : Nat) (cmd : CopyCmd) (rest : List CopyCmd) (s : State), emptyHead s d = some c → (s.core c).copyq = cmd :: rest →
    (s.group c cmd.hslot).yq = [(cmd.id, none)] →
    ∃ t, exec (.copyEngineStart d) s = .next t ∧ (t.core c).copyq = rest ∧ t.copies = s.copies ∧ t.mem = s.mem
      ∧ (t.group c cmd.hslot).cy = (s.group c cmd.hslot).cy - 1 ∧ (t.group c cmd.hslot).yq = [])
  ∧ (∀ (d e c : Nat) (cmd : CopyCmd) (rest : List CopyCmd) (s : State), emptyHead s d = none → idleEngine s d = some e →
    copyTurnOf s d = some c → (s.core c).copyq = cmd :: rest →
    ∃ t, exec (.copyEngineStart d) s = .next t ∧ (t.core c).copyq = rest ∧ t.copies = s.copies ++ [{ cmd := cmd, engine := e }]
      ∧ t.mem = s.mem ∧ ∀ k, k ≠ c → t.core k = s.core k)
  ∧ (∀ (id : Nat) (x : CopyRun) (el : CopyElem) (off : Int) (s s' : State) (p : EngAt), findRun s id = some x → x.stop = none →
    x.waiting = none → x.rd < x.cmd.count → x.cmd.elem x.idx x.rd = some el → el.src = some off → overlapsPending x x.rd = false →
    engAccess s x.cmd x.engine x.cmd.sspace (x.cmd.w 0) off x.cmd.size true false false = (s', .inl p) →
    (∀ st, p ≠ .far st) → engPoison s' p x.cmd.size = false →
    ∃ t n, exec (.copySourceArrival id) s = .next t ∧ 1 ≤ n ∧ t.mem = s.mem
      ∧ findRun t id = some { x with rd := x.rd + n, buf := x.buf ++ engBytes s' p (n * x.cmd.size) })
  ∧ (∀ (id : Nat) (x : CopyRun) (el : CopyElem) (off : Int) (qs : List CopyPiece) (s s' : State), findRun s id = some x →
    LocalMemoryOk s → x.cmd.isPlane = false → x.stop = none → x.rd ≤ x.cmd.count → x.cmd.cen = false →
    x.wr < x.rd → x.buf.length = (x.rd - x.wr) * x.cmd.size → x.cmd.elem x.idx x.wr = some el → el.dst = some off →
    let c := x.cmd
    let n := 1 + beatLength c x.idx c.count (256 / c.size - 1) (x.wr + 1) off
    x.wr + n ≤ x.rd → (x.wr + n < c.count → (c.elem x.idx (x.wr + n)).isSome = true) →
    placeElems s x n x.wr x.buf = (s', qs, none) → (c.isReduce = true → ∀ d, cmMode (s.die d) = 0) →
    let elem (k : Nat) : List Byte := (x.buf.drop (k * c.size)).take c.size
    let value (k : Nat) (old : List Byte) : List Byte :=
      if c.isReduce then wordBytes 4 (reduceVal c.float (bytesVal old) (bytesVal (elem k))) else elem k
    ∃ t y, exec (.copyBeatDelivery id) s = .next t ∧ findRun t id = some y ∧ y.wr = x.wr + n ∧ y.rd = x.rd
      ∧ y.buf = x.buf.drop (n * c.size) ∧ t.mem = s.mem ∧ qs.length = n
      ∧ (∀ k (q : CopyPiece), qs[k]? = some q → match q.at_ with
          | .loc p => localBytes (t.team p.core p.team) p.off c.size = value k (localBytes (s.team p.core p.team) p.off c.size)
          | .home pa => newestBytes t pa c.size = value k (newestBytes s' pa c.size)
          | .far _ => ∃ w ∈ t.posted, w.due.isSome = true ∧ w.core = c.core ∧ w.hslot = c.hslot
              ∧ ∃ o, (List.range c.size).map (fun j => w.bytes.get 0 (o + j)) = elem k)
      ∧ (∀ u v o, (∀ q ∈ qs, ∀ p, CopyPiece.at_ q = .loc p → p.covers c.size u v o = false) → (t.team u v).mem.get 0 o = (s.team u v).mem.get 0 o)
      ∧ ∀ b, (∀ q ∈ qs, ∀ pa, q.at_ = .home pa → b < pa ∨ pa + c.size ≤ b) → newestByte t b = newestByte s' b)
  ∧ (∀ (id : Nat) (d : Due) (y : CopyRun) (s : State), s.dues.find? (fun x => x.id == id) = some d → dueDone s id = true →
    findRun s d.cmd = some y → LocalMemoryOk s →
    ∃ t, exec (.claspRemoteDecrement id) s = .next t ∧ t.dues = s.dues.filter (fun x => x.id != id) ∧ t.mem = s.mem
      ∧ (d.dec = true → readClasp (t.team d.core d.team) d.off =
          claspFlip (claspDeliver d.bytes (readClasp (s.team d.core d.team) d.off)))
      ∧ (d.dec = false → ∀ c u, t.team c u = s.team c u))
  ∧ ∀ (id : Nat) (x : CopyRun) (s : State), findRun s id = some x → runDelivered x = true → x.waiting = none → x.stop = none →
    s.dues.any (fun d => d.cmd == id) = false → (s.group x.cmd.core x.cmd.hslot).yq = [(id, none)] →
    ∃ t, exec (.copyComplete id) s = .next t ∧ t.copies = s.copies.filter (fun y => y.cmd.id != id) ∧ t.mem = s.mem
      ∧ (t.group x.cmd.core x.cmd.hslot).cy = (s.group x.cmd.core x.cmd.hslot).cy - 1 ∧ (t.group x.cmd.core x.cmd.hslot).yq = []

/-- R257, R264 to R266, R272, R273, R277, R306: an array command that has arrived begins its fill, whose first cycle is charged,
when its bank is granted, no earlier command names its tile, the array is free and no ready command of the other bank came
before it; when its last cycle has run its tile holds what the command gives, and the m counter falls. A port command fills
the registers of its strands in rank order, that of the k-th 4 + k cycles after it starts, or writes their rows, is charged for them,
and completes. Slots follow GT. (That a read of a tile's status is charged nothing, and where in a core cycle a command's cycle is made, is
log entry 20, the model's choice.)

R277: a known-answer operation waits until the array is idle, is in the array for 5 cycles, in which no command begins its
fill, and a mismatch is then counted in MXKERR and logged; tiles are as before.

R258, R259, R267, R268: in the cycles of their fill and run over a team's memory that keeps its bytes, what MMA and MMAS add to
an element of their tile is the exact sum of products of a row of A and a column of B over all blocks, wrapped to 32 bits;
MMAS takes the positions of A that its metadata keeps. The tile's tag is then i32. -/
def Obligations.MatrixEngine : Prop :=
  ((∀ s : State, exec .matrixSlotBoundary s = .next { s with mxslot := s.gt / 1000 % 16 })
  ∧ (∀ (c b : Nat) (m : MxCmd) (s : State), arrayFree (s.core c) = true →
    (s.core c).array.find? (fun x => x.bank == b && !x.started) = some m → m.at_ ≤ (s.core c).cycle → m.spent = 0 →
    tileBusy (s.core c) m = false → bankGranted s c b = true → (∀ x, readyToFill s c (1 - b) = some x → x.before m = false) →
    ∃ t x, exec (.arrayFillStart c b) s = .next t ∧ x ∈ (t.core c).array ∧ x.id = m.id ∧ x.started = true ∧ x.spent = 1
      ∧ x.t0 = (s.core c).cycle
      ∧ (t.core c).banks = (s.core c).banks ∧ (t.core c).port = (s.core c).port
      ∧ (t.group c m.hslot).carat = (s.group c m.hslot).carat + 128 ∧ t.mem = s.mem)
  ∧ (∀ (c : Nat) (m : MxCmd) (z : Tile) (fl : BitVec 5) (s : State), (s.core c).array.find? (mxDue s c) = some m →
    (s.core c).array.find? (fun x => x.id == m.id) = some m → m.spent = m.len → m.stop = none →
    runCmd s c m = some (z, fl) → (s.group c m.hslot).mq = [(m.id, none)] →
    ∃ t, exec (.matrixCommandComplete c) s = .next t ∧ t.tile c m.bank m.zd = z
      ∧ (∀ b n, (b, n) ≠ (m.bank, m.zd) → t.tile c b n = s.tile c b n)
      ∧ (t.core c).array = (s.core c).array.filter (fun x => x.id != m.id)
      ∧ (t.group c m.hslot).flags = (s.group c m.hslot).flags ||| fl ∧ (t.group c m.hslot).cm = (s.group c m.hslot).cm - 1
      ∧ (t.group c m.hslot).carat = (s.group c m.hslot).carat ∧ t.mem = s.mem)
  ∧ (∀ (c b : Nat) (m : MxCmd) (s : State), (s.core c).port.find? (fun m => m.bank == b && !m.started) = some m →
    (s.core c).port.any (fun x => x.started) = false → tileBusy (s.core c) m = false → m.at_ < (s.core c).cycle →
    (s.core c).zlast.find? 16 ≠ some (s.core c).cycle → readsPoison s c m = false →
    ∃ t, exec (.portCommandStart c b) s = .next t
      ∧ (t.core c).port = (s.core c).port.map (fun x => if x.id = m.id then
          { x with started := true, t0 := (s.core c).cycle, len := Nat.max 1 m.ranks.length } else x)
      ∧ (t.group c m.hslot).carat = (s.group c m.hslot).carat + (if m.st then 0 else 8 * (m.ranks.length * m.cols))
      ∧ (m.op = 0xCC → m.st = false → (∀ q ∈ m.ranks, (s.strand c m.team q.2).live = true) → (∀ n, t.tile c b n = s.tile c b n)
          ∧ t.fills.map (fun q => (q.core, q.hslot, q.uni, q.sid, q.pos, q.words)) =
            s.fills.map (fun q => (q.core, q.hslot, q.uni, q.sid, q.pos, q.words)) ++ m.ranks.map (fun q =>
              (c, m.hslot, false, q.2, m.wbase + m.vb, (List.range m.cols).map (fun j =>
                ((s.tile c b m.zd).elem ((m.row0 + q.1) % 64) (m.col0 + j)).zeroExtend 64)))
          ∧ (t.fills.drop s.fills.length).map Fill.due = (List.range m.ranks.length).map (fun k => (s.core c).cycle + k + 4))
      ∧ (m.op = 0xCD → SMap.wf 0 (s.tile c b m.zd).elems = true → (m.ranks.map Prod.fst).Nodup →
          (∀ q ∈ m.ranks, q.1 < 64 ∧ (m.vals.get [] q.1).length ≤ m.cols ∧ m.col0 + (m.vals.get [] q.1).length ≤ 64) →
          (∀ q ∈ m.ranks, ∀ j < (m.vals.get [] q.1).length,
            (t.tile c b m.zd).elem ((m.row0 + q.1) % 64) (m.col0 + j) = (m.vals.get [] q.1).getD j 0)
          ∧ ∀ i < 64, (∀ q ∈ m.ranks, i ≠ (m.row0 + q.1) % 64) → ∀ j < 64, (t.tile c b m.zd).elem i j = (s.tile c b m.zd).elem i j))
  ∧ (∀ (c b : Nat) (s : State), ∃ t, exec (.portCommandComplete c b) s = .next t ∧ (t.core c).banks = (s.core c).banks
    ∧ (t.core c).port = (s.core c).port.filter (fun m =>
        !(m.bank == b && m.started && decide (m.t0 + m.len ≤ (s.core c).cycle + 1))))
  ∧ ∀ (c : Nat) (s : State), c < 192 → booted s = true →
    (∀ bad, ((s.core c).regs.get 0 0x10).getLsbD 0 = true → (s.core c).kat = none →
      exec (.knownAnswerInjection c bad) s = .next (s.setCore c { s.core c with kat := some { mismatch := bad } }))
    ∧ ∀ x, (s.core c).kat = some x →
      (x.ends = 0 → arrayIdle s c = false → katCycle s c = s)
      ∧ (x.ends = 0 → arrayIdle s c = true → ((katCycle s c).core c).kat = some { x with ends := (s.core c).cycle + 5 })
      ∧ ((s.core c).cycle < x.ends → arrayFree (s.core c) = false)
      ∧ (x.ends ≠ 0 → (s.core c).cycle + 1 < x.ends → katCycle s c = s)
      ∧ (x.ends ≠ 0 → x.ends ≤ (s.core c).cycle + 1 → ((katCycle s c).core c).kat = none
          ∧ ((katCycle s c).core c).banks = (s.core c).banks
          ∧ ((katCycle s c).core c).regs.get 0 0x18 = (s.core c).regs.get 0 0x18 + (if x.mismatch then 1 else 0)
          ∧ ((katCycle s c).die (dieOf c)).regs.get 0 0x4030
              = (s.die (dieOf c)).regs.get 0 0x4030 + (if x.mismatch then 1 else 0)))
  ∧ (∀ (c : Nat) (m : MxCmd) (u : Team) (s : State), (m.op = 0xC8 ∨ m.op = 0xC9) → m.pa ≠ 0 → m.pb ≠ 0 →
    m.spent = 0 → m.stop = none → m.sums = [] → m.len = 4 + runCycles m →
    (∀ b < m.nb, ∀ p < m.pa, ∀ q < m.pb, pairPoison u m b p q = false) →
    (m.op = 0xC9 → ∀ b < m.nb, localBad u (m.mbase + m.mstr * b) 2048 = false
      ∧ ∀ col < 64, ∀ g < 64, nibbleAt u m b col g % 4 < nibbleAt u m b col g / 4) →
    (s.tile c m.bank m.zd).poison = [] → SMap.wf 0 (s.tile c m.bank m.zd).elems = true →
    ∃ z, runCmd s c ((List.range m.len).foldl (fun x _ => mxCycle u x) m) = some (z, 0) ∧ z.tag = 2
      ∧ ∀ i < 64, ∀ j < 64, z.elem i j = .ofInt 32 (((s.tile c m.bank m.zd).elem i j).toInt + mmaSum u m i j))

/-! ## Cores, translation and the home -/

/-- R55: a fill writes its words, full, with the poison it carries, to the registers from its position on, in the strand's
register stack or in the group's k registers; every other register is as before, and a fragment of the group that waited
for registers which are all full is a candidate again.

R52, R59, R60, R312: in a core cycle the clocks advance, and of the candidates at most four start their passes; where a lane is
free, the first by urgency, risk, pairing hint, age, group slot and entry is among them, and without candidates none starts, but for
passes that go on after an access to another core's part of the gang (log entry 9). A
candidate that has waited 1,024 cycles becomes urgent. Memory is as before. -/
def Obligations.CoreEvents : Prop :=
  (∀ (id : Nat) (f : Fill) (s : State), s.fills.find? (fun x => x.id == id) = some f → (s.group f.core f.hslot).alloc = true →
    f.part = 0 →
    let u := (s.group f.core f.hslot).team
    ∃ t, exec (.registerFill id) s = .next t ∧ t.fills = s.fills.filter (fun x => x.id != id) ∧ t.mem = s.mem
      ∧ (f.uni = false →
          (∀ j w, f.words[j]? = some w →
            t.vreg f.core u f.sid (f.pos + j) = { val := w.truncate 32, full := true, poison := f.poison })
          ∧ (∀ c v i p, (c, v, i) ≠ (f.core, u, f.sid) ∨ p < f.pos ∨ f.pos + f.words.length ≤ p → t.vreg c v i p = s.vreg c v i p)
          ∧ ∀ c h n, t.kreg c h n = s.kreg c h n)
      ∧ (f.uni = true →
          (∀ j w, f.words[j]? = some w → t.kreg f.core f.hslot (f.pos + j) = { val := w, full := true, poison := f.poison })
          ∧ (∀ c h n, (c, h) ≠ (f.core, f.hslot) ∨ n < f.pos ∨ f.pos + f.words.length ≤ n → t.kreg c h n = s.kreg c h n)
          ∧ ∀ c v i, t.strand c v i = s.strand c v i)
      ∧ ∀ q ∈ (t.group f.core f.hslot).frags, ∀ sid vs ks, q.2.wait = .regs sid vs ks → regsFull t f.core f.hslot sid vs ks = false)
  ∧ ((∀ (c : Nat) (s : State), s.cur = none → s.starts = [] →
    let s0 := arrayCycle s c
    let k := s0.core c
    let s1 := waitersYield (settle (performDue (skipCycle ({ s0 with gt := Nat.max s0.gt (k.phase / phaseUnit) }.setCore c
      { k with cycle := k.cycle + 1, phase := k.phase + periodAt (pointOf s0 (clusterOf c)) }) c) c) c) c
    let s2 := bumpCore s1 c 13 (missCount s1 c)
    let ref (x : Nat × Nat × Nat × Nat) : FragRef := { core := c, hslot := x.2.2.1, entry := x.2.2.2 }
    ∃ t, exec (.issueCycle c) s = .next t ∧ t.gt = Nat.max s.gt ((s.core c).phase / phaseUnit) ∧ (t.core c).cycle = (s.core c).cycle + 1
      ∧ (t.core c).phase = (s.core c).phase + periodAt (pointOf s (clusterOf c)) ∧ t.mem = s.mem
      ∧ (candidates s2 c = [] → goingOn s2 c = [] → t.cur = none ∧ t.starts = [])
      ∧ t.starts.length ≤ 3 + (goingOn s2 c).length
      ∧ ((freeLane s2 c).isSome = true → ∀ q, t.cur = some q ∨ q ∈ t.starts →
          q ∈ goingOn s2 c ∨ ∃ x ∈ candidates s2 c, q = ref x)
      ∧ (candidates s2 c ≠ [] → (freeLane s2 c).isSome = true → ∃ x ∈ candidates s2 c, (∀ y ∈ candidates s2 c, earlier y x = false)
          ∧ (t.cur = some (ref x) ∨ ref x ∈ t.starts)
          ∧ (t.frag (ref x)).lane.isSome = true ∧ (t.frag (ref x)).urgent = false))
  ∧ ∀ (c h e : Nat) (f : Frag) (s : State), (s.group c h).frags.find? e = some f → (s.group c h).alloc = true →
    isCandidate s c h e f = true → (s.core c).readyAt f + 1024 ≤ (s.core c).cycle →
    ∃ t, exec (.urgentPromotion c h e) s = .next t
      ∧ t.frag { core := c, hslot := h, entry := e } = { s.frag { core := c, hslot := h, entry := e } with urgent := true }
      ∧ ∀ q, q ≠ { core := c, hslot := h, entry := e } → t.frag q = s.frag q)

/-- R187, R188, R191: a slice sends a read or a posted access on to the home or the host that its translation names, lets its
accesses fault where the page is absent, and answers an attribute request; the answer installs an entry.

R223 S2 and S3, R225, R235: a read that reaches its home while no store is pending on the line returns the visible value with the
strand's own stores that are on their way over it, and the lease it is granted ends after GT; its length starts at 256 where
the memory-side cache did not hold the line. What the L2 has answered fills in the same way (S1). A private sector that arrives is in the L1 with the bytes that came. -/
def Obligations.TranslationAndReads : Prop :=
  ((∀ (id : Nat) (f : Fetch) (e : SliceEntry) (s s' : State), s.fetches.find? (fun f => f.id == id && f.stage == .walk) = some f →
    fetchPage s f = (some e, s') → e.leaf.attr < 2 → anyDenied e.leaf f.pkr f.replay (issueOrder f) = false →
    (e.leaf.attr = 1 → (∀ a ∈ f.accs, ∀ p ∈ s.posted, p.id ∈ a.after → p.stage ≠ .walk)
      ∧ ∀ x ∈ s.fetches, x.id = f.id → x.lane = false) →
    let pa := leafAddr e.bits (f.line * 256) e.leaf
    ∃ t, exec (.translationWalk id) s = .next t ∧ t.mem = s.mem ∧ t.fetches = s.fetches.map (fun x => if x.id = f.id then
      { x with stage := if e.leaf.attr = 0 then .home pa else .host pa, tagc := e.leaf.tagc, bits := e.bits, since := s.gt } else x))
  ∧ (∀ (id : Nat) (f : Fetch) (s s' : State), s.fetches.find? (fun f => f.id == id && f.stage == .walk) = some f →
    fetchPage s f = (none, s') →
    ∃ t, exec (.translationWalk id) s = .next t ∧ t.mem = s.mem ∧ t.fetches = s.fetches.filter (fun x => x.id != f.id)
      ∧ ∀ a, f.accs = [a] → f.kept = [] → a.part = 0 → a.uni = true → (s.group a.core a.hslot).alloc = true →
          (t.group a.core a.hslot).log = (s.group a.core a.hslot).log ++ [{ acc := a, cause := 11 }])
  ∧ (∀ (p : Posted) (e : SliceEntry) (s s' : State), s.fetches.find? (fun f => f.id == p.id && f.stage == .walk) = none →
    s.posted.find? (fun p => p.stage == .walk) = some p → p.kind ≠ .hardware → p.kind ≠ .tagst →
    postedPage s p = (some e, s') → e.leaf.attr < 2 →
    anyDenied e.leaf p.pkr p.replay p.accs = false →
    let pa := leafAddr e.bits (p.line * 256) e.leaf
    ∃ t, exec (.translationWalk p.id) s = .next t ∧ t.mem = s.mem ∧ t.posted = s.posted.map (fun x => if x.id = p.id then
      { x with stage := if e.leaf.attr = 0 then .home pa else .host pa, tagc := e.leaf.tagc, bits := e.bits, since := s.gt } else x))
  ∧ (∀ (id : Nat) (q : AtlbReq) (o : Option SliceEntry) (s s' : State), s.fetches.find? (fun f => f.id == id && f.stage == .walk) = none →
    (s.posted.find? (fun p => p.stage == .walk)).filter (fun p => p.id == id) = none →
    s.atlbReqs.find? (fun q => q.id == id && q.answer.isNone) = some q → translate s (dieOf q.core) q.asid q.va q.core q.addr = (o, s') →
    ∃ t, exec (.translationWalk id) s = .next t ∧ t.mem = s.mem ∧ t.atlbReqs = s.atlbReqs.map (fun x => if x.id = id then
      { x with answer := some (o.map (fun e => (e.bits, e.va, e.leaf))) } else x))
  ∧ ∀ (id : Nat) (q : AtlbReq) (o : Option (Nat × Nat × PageLeaf)) (s : State), s.atlbReqs.find? (fun q => q.id == id) = some q →
    q.answer = some o →
    ∃ t, exec (.atlbFill id) s = .next t ∧ t.atlbReqs = s.atlbReqs.filter (fun x => x.id != id) ∧ t.mem = s.mem
      ∧ (∀ c, c ≠ q.core → t.core c = s.core c) ∧ (t.core q.core).atlb.length ≤ 512
      ∧ (t.core q.core).atlb.head? = some (match o with
          | some (bits, va, l) => { asid := q.asid, va := va, bits := bits, leaf := some l }
          | none => { asid := q.asid, va := q.va, bits := 15, leaf := none }))
  ∧ ((∀ (id pa : Nat) (f : Fetch) (a : Acc) (s : State), s.fetches.find? (fun f => f.id == id) = some f → f.stage = .home pa →
    (s.homes.get {} (pa / 256)).pending = [] → lineLocked s (pa / 256) = false → writebackPosted s f.asid f.line = false →
    f.accs = [a] → a.after = [] → a.kind = .load → a.dead = false → f.lane = false → f.inst = false → f.tagc = false →
    let h := s.homes.get {} (pa / 256)
    let known := (s.die (dieOfPa (pa / 256 * 256))).msc.any (fun x => x.1 == pa / 256)
    let len0 := if known then h.len else 256
    let len := if h.quiet = true ∧ h.lmax ≤ s.gt then Nat.min 4096 (2 * len0) else len0
    let line := Memory.readBytes s.mem (pa / 256 * 256) 256
    let seen := if a.lane then line else overlay (ownBytes s a) line
    ∃ t, exec (.homeFetch id) s = .next t ∧ t.mem = s.mem ∧ t.fetches = s.fetches.filter (fun x => x.id != id)
      ∧ t.homes.get {} (pa / 256) = { h with len := len, lmax := Nat.max h.lmax (s.gt + len), quiet := true }
      ∧ (∀ l, l ≠ pa / 256 → t.homes.get {} l = s.homes.get {} l)
      ∧ t.fills.map (fun q => (q.core, q.hslot, q.uni, q.sid, q.pos, q.words)) =
          s.fills.map (fun q => (q.core, q.hslot, q.uni, q.sid, q.pos, q.words)) ++ [(a.core, a.hslot, a.uni, a.sid, a.pos,
            chunkWords (if a.uni then 8 else 4) 8 ((seen.drop (vaOf a % 256)).take a.size))])
  ∧ (∀ (id : Nat) (f : Fetch) (a : Acc) (s : State), s.fills.find? (fun x => x.id == id) = none →
    s.fetches.find? (fun f => f.id == id && !f.lane && f.stage == .arrived) = some f → f.accs = [a] → a.kind = .load →
    a.dead = false → f.tagc = false →
    let line := sectorLine f.sector f.bytes
    let seen := if a.lane then line else overlay (ownBytes s a) line
    ∃ t, exec (.registerFill id) s = .next t ∧ t.mem = s.mem ∧ t.homes = s.homes ∧ t.fetches = s.fetches.filter (fun x => x.id != f.id)
      ∧ t.fills.map (fun q => (q.core, q.hslot, q.uni, q.sid, q.pos, q.words)) =
          s.fills.map (fun q => (q.core, q.hslot, q.uni, q.sid, q.pos, q.words)) ++ [(a.core, a.hslot, a.uni, a.sid, a.pos,
            chunkWords (if a.uni then 8 else 4) 8 ((seen.drop (vaOf a % 256)).take a.size))])
  ∧ ∀ (id : Nat) (f : Fetch) (s : State), s.fetches.find? (fun f => f.id == id && f.lane && f.stage == .arrived) = some f →
    f.kept = [] → f.tagc = false → f.noalloc = false → f.sector < 4 → f.bytes.length = 64 → findLine (s.core (l1Core s f.core f.line)).l1 f.asid f.line = none →
    ∃ t l, exec (.privateSectorArrival id) s = .next t ∧ t.mem = s.mem ∧ t.fetches = s.fetches.filter (fun x => x.id != id)
      ∧ findLine (t.core (l1Core s f.core f.line)).l1 f.asid f.line = some l ∧ l.lane = true ∧ l.sectors = 1#4 <<< f.sector
      ∧ (l.bytes.drop (64 * f.sector)).take 64 = f.bytes ∧ l.dirty = 0)

/-- R192, R223 S5, S6 and S8, R225: a store that arrives is pending at its home with a time after GT, after every lease and after
the stores before it; when its time is reached its bytes are visible, and no others change. A copy whose lease has ended is
dropped. A write-back to DRAM sets the block's bit of the side table and changes nothing visible at once.

R199, R204 to R206, R223 S7: an atomic reads the newest value at its home, writes the new one and returns the old in one
step; a deque operation, in uniform and in strand form, returns its status, and a push, a pop and a steal move the element and the
index that the spec gives. No other line is written by an atomic, and no other byte by a deque operation. -/
def Obligations.StoresAndAtomicsAtHome : Prop :=
  ((∀ (id pa : Nat) (p : Posted) (s : State), s.posted.find? (fun p => p.id == id) = some p → p.stage = .home pa → p.kind = .store →
    mayArrive s p pa = true → p.tagc = false → p.accs ≠ [] →
    let h := s.homes.get {} (pa / 256)
    ∃ t n, exec (.postedArrival id) s = .next t ∧ t.mem = s.mem ∧ t.posted = s.posted.filter (fun x => x.id != id)
      ∧ (t.homes.get {} (pa / 256)).pending = h.pending ++ [{ t := some n, bytes := agreeingBytes p.accs, accs := p.accs, poison := p.poison }]
      ∧ s.gt < n ∧ h.lmax < n ∧ (∀ q ∈ h.pending, ∀ m, q.t = some m → m < n)
      ∧ ∀ l, l ≠ pa / 256 → t.homes.get {} l = s.homes.get {} l)
  ∧ (∀ (line n : Nat) (p : Pend) (rest : List Pend) (s : State), MemoryOk s → (s.homes.get {} line).pending = p :: rest →
    p.t = some n → n ≤ s.gt → p.link = none → p.wb = none → (p.bytes.map Prod.fst).Nodup →
    ∃ t, exec (.storeVisible line) s = .next t ∧ (∀ q ∈ p.bytes, Memory.read t.mem (line * 256 + q.1) = q.2)
      ∧ (∀ a, (∀ q ∈ p.bytes, a ≠ line * 256 + q.1) → Memory.read t.mem a = Memory.read s.mem a)
      ∧ (t.homes.get {} line).pending = rest ∧ (t.homes.get {} line).version = (s.homes.get {} line).version + 1
      ∧ line ∈ t.mscDirty)
  ∧ (∀ (u asid line : Nat) (s : State),
    (∃ t, exec (.leaseExpiry 1 u asid line) s = .next t ∧ t.mem = s.mem
      ∧ ∀ l, l ∈ (t.core u).l1 ↔ l ∈ (s.core u).l1 ∧ (l.asid = asid → l.line = line → l.lane = true ∨ s.gt < l.expiry))
    ∧ ∃ t, exec (.leaseExpiry 2 u asid line) s = .next t ∧ t.mem = s.mem
      ∧ ∀ l, l ∈ (t.die u).l2 ↔ l ∈ (s.die u).l2 ∧ (l.asid = asid → l.line = line → l.lane = true ∨ s.gt < l.expiry))
  ∧ ∀ (line : Nat) (s : State), line ∈ s.mscDirty →
    let dt := ((s.die (dieOfPa (line * 256))).regs.get 0 0).toNat
    let blk := line * 256 % 2 ^ 35 / 4096
    let at_ := dt / 2 ^ 20 % 2 ^ 32 * 2 ^ 20 + 64 * (blk / 512) + blk % 512 / 8
    ∃ t, exec (.mscWriteback line) s = .next t ∧ t.mem = s.mem ∧ t.mscDirty = s.mscDirty.filter (fun x => x != line)
      ∧ (dt % 2 = 1 → (newestByte t at_).getLsbD (blk % 8) = true ∧ ∀ a, a ≠ at_ → newestByte t a = newestByte s a)
      ∧ (dt % 2 = 0 → t.homes = s.homes))
  ∧ ((∀ (id pa op : Nat) (sg h2 nr : Bool) (p : Posted) (a : Acc) (rest : List Acc) (s : State),
    s.posted.find? (fun p => p.id == id && p.kind == .atomic) = some p → p.stage = .home pa → p.accs = a :: rest →
    a.kind = .atomic op sg h2 nr → mayArrive s p pa = true → cmMode (s.die (dieOfPa pa)) = 0 → p.tagc = false →
    let at_ := pa / 256 * 256 + vaOf a % 256
    let old := newestWord s at_ a.size
    ∃ t n, exec (.atomicArrival id) s = .next t ∧ t.mem = s.mem ∧ t.posted = s.posted.filter (fun x => x.id != id) ∧ s.gt < n
      ∧ (t.homes.get {} (pa / 256)).pending = (s.homes.get {} (pa / 256)).pending ++ [
          { t := some n, bytes := putBytes [] (vaOf a % 256) (wordBytes a.size (atomicNew op sg h2 (8 * a.size) old a.data)), accs := [a] }]
      ∧ (∀ l, l ≠ pa / 256 → t.homes.get {} l = s.homes.get {} l)
      ∧ t.fills.map (fun q => (q.core, q.hslot, q.uni, q.sid, q.pos, q.words)) =
          s.fills.map (fun q => (q.core, q.hslot, q.uni, q.sid, q.pos, q.words)) ++ (if nr || a.dead then [] else
            [(a.core, a.hslot, a.uni, a.sid, a.pos, chunkWords (if a.uni then 8 else 4) 2 (wordBytes a.size old))]))
  ∧ ∀ (id pa : Nat) (p : Posted) (a : Acc) (rest : List Acc) (s : State),
    s.posted.find? (fun p => p.id == id && p.kind == .deque && p.elem.isNone) = some p → p.stage = .home pa → p.accs = a :: rest →
    (a.kind = .dqpush ∨ a.kind = .dqpop ∨ a.kind = .dqsteal) → mayArrive s p pa = true → cmMode (s.die (dieOfPa pa)) = 0 →
    p.tagc = false → vaOf a % 64 = 0 → a.dead = false →
    let at_ := pa / 256 * 256 + vaOf a % 256
    let ws := (List.range 8).map (fun i => newestWord s (at_ + 8 * i) 8)
    let s1 := homeEvent { s with posted := s.posted.filter (fun x => x.id != id) } (dieOfPa pa) (pa / 256) a
    let top := ws.getD 2 0
    let bot := ws.getD 3 0
    let element (i : Nat) (wr : Bool) := dequeElement s1 (dieOfPa pa) a.asid a.core p.pkr ws i wr
    let filled (t : State) (fs : List (Nat × List W64)) : Prop :=
      t.fills.map (fun q => (q.core, q.hslot, q.uni, q.pos, q.words)) =
        s.fills.map (fun q => (q.core, q.hslot, q.uni, q.pos, q.words)) ++ fs.map (fun x => (a.core, a.hslot, a.uni, x.1, x.2))
    let words (value : Nat) : List W64 :=
      if a.uni then [.ofNat 64 value] else [.ofNat 64 (value % 2 ^ 32), .ofNat 64 (value / 2 ^ 32)]
    let ends (t : State) (value status : Nat) : Prop :=
      filled t ((if a.kind = .dqpush then [] else [(a.pos, words value)]) ++ [(a.pos + (words 0).length, [.ofNat 64 status])])
    let only (s2 t : State) (ranges : List (Nat × Nat)) : Prop :=
      ∀ b, (∀ g ∈ ranges, b < g.1 ∨ g.1 + g.2 ≤ b) → newestByte t b = newestByte s2 b
    (dequeOk ws = false → ∃ t, exec (.dequeAtHome id) s = .next t ∧ ends t 0 3 ∧ t.mem = s.mem ∧ ∀ b, newestByte t b = newestByte s b)
    ∧ (dequeOk ws = true → a.kind = .dqpush → bot - top = ws.getD 1 0 →
      ∃ t, exec (.dequeAtHome id) s = .next t ∧ ends t 0 2 ∧ t.mem = s.mem ∧ ∀ b, newestByte t b = newestByte s b)
    ∧ (dequeOk ws = true → a.kind ≠ .dqpush → bot = top →
      ∃ t, exec (.dequeAtHome id) s = .next t ∧ ends t 0 1 ∧ t.mem = s.mem ∧ ∀ b, newestByte t b = newestByte s b)
    ∧ (∀ ea s2, dequeOk ws = true → a.kind = .dqpush → bot - top ≠ ws.getD 1 0 → element bot true = (.inl (.home ea), s2) → ea % 8 = 0 →
      (ea + 8 ≤ at_ + 24 ∨ at_ + 32 ≤ ea) →
      ∃ t, exec (.dequeAtHome id) s = .next t ∧ ends t 0 0 ∧ t.mem = s.mem ∧ newestWord t ea 8 = a.data % 2 ^ 64
        ∧ newestWord t (at_ + 24) 8 = (bot + 1) % 2 ^ 64 ∧ only s2 t [(ea, 8), (at_ + 24, 8)])
    ∧ (∀ ea s2, dequeOk ws = true → a.kind = .dqpop → bot ≠ top → element (bot - 1) false = (.inl (.home ea), s2) →
      ∃ t, exec (.dequeAtHome id) s = .next t ∧ ends t (newestWord s2 ea 8) 0 ∧ t.mem = s.mem
        ∧ newestWord t (at_ + 24) 8 = bot - 1 ∧ only s2 t [(at_ + 24, 8)])
    ∧ (∀ ea s2, dequeOk ws = true → a.kind = .dqsteal → bot ≠ top → element top false = (.inl (.home ea), s2) →
      ∃ t, exec (.dequeAtHome id) s = .next t ∧ ends t (newestWord s2 ea 8) 0 ∧ t.mem = s.mem
        ∧ newestWord t (at_ + 16) 8 = top + 1 ∧ only s2 t [(at_ + 16, 8)]))

/-! ## The dispatcher -/

/-- R283, R286 to R288, R294, R295: an accepted ring entry is live with the next handle at the tail of its queue, and its handle
and status go into word 5 of the entry; LQHEAD advances once that write is done, and not before. An entry that cannot be
read disables its queue with a notice. A run of a LAUNCH gives its records their handles in slot order and judges the first: one that is
accepted is live and waits as a child, a rejected one returns its handle and status, and the next is judged. A child enters its
queue once it has room, its strand receives the handle and status 0, and the record behind it is judged then. -/
def Obligations.LaunchAcceptance : Prop :=
  (∀ (part q h st : Nat) (b : List Byte) (l : Launch) (s s2 s3 s4 : State), ringReady s part q = true →
    (s.part part).heads.find? (fun x => x.1 == q) = none →
    let r := readContext s part (queueCtx (s.part part) q)
    let ctx := r.1
    replays r.2 ctx.asid = false →
    let head := (lqReg (s.part part) q 0x20).toNat
    let ring := lqReg (s.part part) q 0x10
    let va : W64 := .ofNat 64 (bitsAt ring 12 45 * 4096 + head % 2 ^ Nat.min 10 (bitsAt ring 0 4) * 64)
    (dispRead r.2 ctx.asid ctx.pkr va 64 = (s2, some b) → nextHandle s2 part = (h, s3) →
      judge s3 part h ctx ctx.pkr (wordsOf 8 b) (some q) = (st, l, s4) →
      let l' := { l with deps := liveDeps s4 l }
      let s5 := if st = 0 then logRecord (enterQueue s4 l') l' 0 else s4
      ∀ pa s6, dispAccess s5 ctx.asid ctx.pkr (va + 40) 8 false true false = (s6, .inl (.home pa)) →
      ∃ t tr, exec (.ringEntryAccept part q) s = .next t ∧ t.mem = s.mem
        ∧ lqReg (t.part part) q 0x20 = lqReg (s.part part) q 0x20 ∧ (t.part part).heads = (q, tr) :: (s.part part).heads
        ∧ newestBytes t pa 8 = wordBytes 8 (h + st * 2 ^ 32)
        ∧ (st = 0 → t.launch? part h = some l'
            ∧ (t.part part).queues.get [] q = (s4.part part).queues.get [] q ++ [h])
        ∧ (st ≠ 0 → t.launches = s4.launches ∧ (t.part part).queues = (s4.part part).queues))
    ∧ (dispRead r.2 ctx.asid ctx.pkr va 64 = (s2, none) →
      ∃ t n, exec (.ringEntryAccept part q) s = .next t ∧ t.mem = s.mem ∧ lqEnabled (t.part part) q = false
        ∧ t.notices.get [] part = s.notices.get [] part ++ [n] ∧ n.kind = 3 ∧ n.cause = 0 ∧ n.faddr = va ∧ n.asid = ctx.asid))
  ∧ (∀ (part q : Nat) (x : Nat × Track) (s : State), (s.part part).heads.find? (fun x => x.1 == q) = some x →
    (trackDone s x.2 = false → exec (.ringEntryAccept part q) s = .next s)
    ∧ (trackDone s x.2 = true → ∃ t, exec (.ringEntryAccept part q) s = .next t ∧ t.mem = s.mem ∧ t.launches = s.launches
        ∧ lqReg (t.part part) q 0x20 = .ofNat 64 (((lqReg (s.part part) q 0x20).toNat + 1) % 2 ^ 32)
        ∧ ∀ y ∈ (t.part part).heads, y.1 ≠ q))
  ∧ (∀ (id : Nat) (x : Run) (s : State), s.runs.find? (fun x => x.id == id && !x.arrived) = some x →
    ringRecordNext s x.ctx.asid = false →
    (∃ t, exec (.launchRunArrival id) s = .next t ∧ t.mem = s.mem ∧ (∀ y ∈ t.runs, y.id = id → y.arrived = true))
    ∧ ∀ (sid pos : Nat) (va : W64) (more : List (Nat × Nat × W64)) (h : Nat) (b : List Byte) (st : Nat) (l : Launch)
        (s1 s2 s3 : State), x.items = (sid, pos, va) :: more → NoTraceOf s x.core 8 →
      (x.items.foldl (takeHandles x) (s, [])).1 = s1 → nextHandle s x.part = (h, (nextHandle s x.part).2) →
      dispRead s1 x.ctx.asid x.pkr va 64 = (s2, some b) → judge s2 x.part h x.ctx x.pkr (wordsOf 8 b) none = (st, l, s3) →
      (s.strand x.core (s.group x.core x.hslot).team sid).live = true →
      (st = 0 → ∃ t cs, exec (.launchRunArrival id) s = .next t ∧ t.launch? x.part h = some { l with deps := liveDeps s3 l }
          ∧ t.runs = s.runs.map (fun y => if y.id = id then { x with arrived := true, children := cs } else y)
          ∧ cs.map (fun y => (y.sid, y.pos, y.addr)) = x.items
          ∧ cs.map Child.launch = some { l with deps := liveDeps s3 l } :: more.map (fun _ => none)
          ∧ cs.head?.map Child.handle = some h)
      ∧ (st ≠ 0 → more = [] → ∃ t, exec (.launchRunArrival id) s = .next t ∧ t.launches = s3.launches
          ∧ t.runs = s.runs.filter (fun y => y.id != id)
          ∧ t.fills.map (fun q => (q.core, q.hslot, q.uni, q.sid, q.pos, q.words)) =
            s.fills.map (fun q => (q.core, q.hslot, q.uni, q.sid, q.pos, q.words))
              ++ [(x.core, x.hslot, false, sid, pos, [.ofNat 64 h, .ofNat 64 st])]))
  ∧ ∀ (id : Nat) (x : Run) (ch : Child) (rest : List Child) (l : Launch) (s : State),
    s.runs.find? (fun x => x.id == id && x.arrived) = some x →
    x.children = ch :: rest → ch.launch.isSome = true → s.launch? x.part ch.handle = some l → l.part = x.part → l.handle = ch.handle →
    waitingIn (s.part x.part) l.queue < 1024 → observersDone s x.core x.hslot x.id false 6#6 = true →
    (∀ y ∈ ch :: rest, (s.strand x.core (s.group x.core x.hslot).team y.sid).live = true) →
    let brief (q : Fill) := (q.core, q.hslot, q.uni, q.sid, q.pos, q.words)
    let filled (y : Child) (st : Nat) := (x.core, x.hslot, false, y.sid, y.pos, [BitVec.ofNat 64 y.handle, BitVec.ofNat 64 st])
    let kept (t : State) (cs : List Child) : Prop :=
      t.runs = (if cs = [] then s.runs.filter (fun y => y.id != id)
        else s.runs.map (fun y => if y.id = id then { x with children := cs } else y))
    (∃ t, exec (.childQueueEntry id) s = .next t ∧ t.mem = s.mem ∧ t.launch? x.part l.handle = some l
      ∧ (t.part x.part).queues.get [] l.queue = (s.part x.part).queues.get [] l.queue ++ [l.handle]
      ∧ (rest = [] → kept t [] ∧ t.fills.map brief = s.fills.map brief ++ [filled ch 0]))
    ∧ ∀ (nxt : Child) (more : List Child) (st : Nat) (l2 : Launch) (s2 : State), rest = nxt :: more → nxt.launch = none →
      nxt.handle ≠ l.handle →
      let s1 := fillPair (enterQueue s l) x ch.sid ch.pos l.handle 0
      ringRecordNext s1 x.ctx.asid = false → judgeChild s1 x nxt = (st, l2, s2) → l2.part = x.part → l2.handle = nxt.handle →
      (st = 0 → ∃ t, exec (.childQueueEntry id) s = .next t
          ∧ kept t ({ nxt with launch := some { l2 with deps := liveDeps s2 l2 } } :: more)
          ∧ t.launch? x.part nxt.handle = some { l2 with deps := liveDeps s2 l2 }
          ∧ t.fills.map brief = s.fills.map brief ++ [filled ch 0])
      ∧ (st ≠ 0 → more = [] → ∃ t, exec (.childQueueEntry id) s = .next t ∧ kept t []
          ∧ t.fills.map brief = s.fills.map brief ++ [filled ch 0, filled nxt st])

/-- R289, R292: no decision is made before 4 GT ticks have passed since the last (that a turn that is passed on takes one decision
is log entry 21, the model's choice). The only ready head that fits, holding the
turn with a positive deficit, is placed; without a turn, it receives the turn and its quantum. A launch that has waited
beyond its first limit reserves the window with the fewest teams, and beyond its second the supervisor learns of it.

R61, R297: the groups of a team that starts stand at the entry with all their strands, their argument registers and their
context's protection keys; no other group changes. The head notice is written to the ring, and its index is pushed to
queue 7 of the supervisor team once that write is done. -/
def Obligations.PlacementAndStart : Prop :=
  ((∀ (part : Nat) (s : State), s.gt < (s.part part).lastDecision + 4 → exec (.placementDecision part) s = .next s)
  ∧ (∀ (part q : Nat) (l : Launch) (s s' : State), dpReady s = true → (s.part part).lastDecision + 4 ≤ s.gt →
    (s.part part).noticeLogged = false → (s.part part).dueDrain = [] → (s.part part).reserved = [] → s.saved = [] → q < 64 →
    (∀ k < 64, k ≠ q → readyHead (runWaits s part) part k = none) → readyHead (runWaits s part) part q = some l →
    headPlacement (runWaits s part) part l = some s' →
    ∃ t, exec (.placementDecision part) s = .next t ∧ t.mem = s.mem ∧ (t.part part).lastDecision = s.gt
      ∧ (0 < deficitOf (s.part part) q → (s.part part).turn = some q → (s.part part).turnPlaced < 16 →
          t.cores = s'.cores ∧ t.launches = s'.launches
          ∧ (t.part part).turnPlaced = (s.part part).turnPlaced + gangsPlaced (runWaits s part) s' l
          ∧ (l.cor = false → s.launch? l.part l.handle = some l → gangsPlaced (runWaits s part) s' l = 1))
      ∧ ((s.part part).turn = none → t.cores = s.cores ∧ t.launches = s.launches ∧ (t.part part).turn = some q
          ∧ deficitOf (t.part part) q = deficitOf (s.part part) q + (bitsAt (lqReg (s.part part) q 0) 8 24 * 1024 : Nat)))
  ∧ (∀ (part q : Nat) (l : Launch) (s : State), readyHead s part q = some l → lim1Of (s.part part) < (s.part part).waited.get 0 l.handle →
    reservedOf (s.part part) l = [] →
    (l.cor = false → ∀ w, reserveWindow s part l.gsize = some w →
      ∃ t, exec (.reservationTake part q) s = .next t ∧ reservedOf (t.part part) l = w ∧ t.cores = s.cores ∧ w.length = l.gsize
        ∧ (∀ c ∈ w, ∀ k ∈ (s.part part).reserved, c ∉ k.2))
    ∧ (l.cor = true → ∃ t, exec (.reservationTake part q) s = .next t ∧ t.cores = s.cores
        ∧ ∀ cl ∈ clustersOf (s.part part), ∀ i < 8, 8 * cl + i ∈ reservedOf (t.part part) l))
  ∧ ∀ (part q : Nat) (l : Launch) (s : State), readyHead s part q = some l → lim2Of (s.part part) < (s.part part).waited.get 0 l.handle →
    (s.part part).starved.contains l.handle = false →
    ∃ t n, exec (.placeStarved part q) s = .next t ∧ t.notices.get [] part = s.notices.get [] part ++ [n] ∧ n.kind = 3
      ∧ n.cause = 26 ∧ n.launch = l.handle ∧ l.handle ∈ (t.part part).starved ∧ t.cores = s.cores)
  ∧ ((∀ (c u : Nat) (x : Team) (s : State), (s.core c).teams.find? u = some x → x.started = false → x.restart = false →
    flushPending s (clusterOf c) = false →
    ∃ t, exec (.teamStart c u) s = .next t ∧ t.mem = s.mem ∧ (t.team c u).started = true
      ∧ (∀ p ∈ (t.team c u).strands, p.2.live = true ∧ p.2.regs = [] ∧ p.2.preds = 0)
      ∧ ∀ h, if (s.group c h).alloc = true ∧ (s.group c h).team = u then
          ∃ f, (t.group c h).frags = [(0, f)] ∧ f.pc = x.entry ∧ f.e = f.m ∧ f.wbase = 0 ∧ f.wait = .ready
            ∧ f.m = maskOf (List.range (Nat.min 32 (x.nstr - 32 * (s.group c h).gid)))
            ∧ (∀ j < Nat.min 32 (x.nstr - 32 * (s.group c h).gid), sidOf (t.group c h) j = 32 * (s.group c h).gid + j)
            ∧ (∀ j v, x.args[j]? = some v → t.kreg c h j = { val := v }) ∧ (t.group c h).pkr = x.ctx.pkr
            ∧ (t.group c h).role = (s.group c h).role
        else t.group c h = s.group c h)
  ∧ ∀ (part c u : Nat) (n : Notice) (rest : List Notice) (s : State), (s.part part).noticeLogged = false →
    s.notices.get [] part = n :: rest → residentTeam s part (bitsAt ((s.part part).regs.get 0 0x18) 0 32) 0 = some (c, u) →
    (queueOf (s.team c u) 7).length < 16 →
    let ring := (s.part part).regs.get 0 0x10
    let idx := (s.part part).noticeIdx
    (∀ (pa : Nat) (s1 : State), (s.part part).noticeOut = none → (s.team c u).started = true → dispReleased s part = true →
      dispAccess s (s.team c u).ctx.asid (s.team c u).ctx.pkr
        (.ofNat 64 (bitsAt ring 12 45 * 4096 + idx % 2 ^ (bitsAt ring 0 4 + 6) * 64)) 64 false true false = (s1, .inl (.home pa)) →
      ∃ t tr, exec (.noticeDelivery part) s = .next t ∧ t.mem = s.mem ∧ newestBytes t pa 64 = noticeBytes n
        ∧ t.notices = s.notices ∧ (t.part part).noticeIdx = idx ∧ (t.part part).noticeOut = some tr ∧ t.cores = s.cores)
    ∧ ∀ (tr : Track), (s.part part).noticeOut = some tr →
      (trackDone s tr = false → exec (.noticeDelivery part) s = .next s)
      ∧ (trackDone s tr = true → cmMode (s.die (dieOf c)) = 0 →
        ∃ t e, exec (.noticeDelivery part) s = .next t ∧ t.mem = s.mem ∧ t.notices.get [] part = rest
          ∧ (t.part part).noticeIdx = idx + 1 ∧ (t.part part).noticeOut = none
          ∧ queueOf (t.team c u) 7 = queueOf (s.team c u) 7 ++ [e] ∧ e.val = .ofNat 64 idx))

/-- R298: the actions of DPCMD. Resume lets the fragment of a fault that the supervisor serves go on; kill leaves the group no
fragment and no fault, on its core or off it, and does nothing to a group whose strands have all exited and that has no fault; swap-out
begins a team's pre-emption; preempt-hold and preempt-requeue begin that of every team of a launch, which leaves its queue, or say how
the pre-emption under way is to end; release returns a held launch to the head of its queue. (That a group off its core is named by its
last core and slot is log entry 21, the model's choice.)

R301, R345: at its interval the next cluster of a partition begins a drain; after 1 ms the teams left on it begin to be
swapped out, and when it is empty the scan clears its cores, counts the run in LSTEST and, on a failure, keeps the
cluster failed with a notice. -/
def Obligations.GroupControlAndSelfTest : Prop :=
  ((∀ (part c h : Nat) (x : FaultRec) (q : Frag) (s : State),
    let g := s.group c h
    g.alloc = true → (s.teamOf c h).part = part → g.fault = some x → x.supervisor = true → x.away = false → g.log = [] →
    g.spill = [] → g.frags.find? x.entry = some q → q.wait = .ready → (∀ p ∈ g.frags, p.1 ≠ x.entry → p.2.pc ≠ g.fpc) →
    let r : FragRef := { core := c, hslot := h, entry := x.entry }
    ∃ t, exec (.dpcmdResume part c h) s = .next t ∧ t.mem = s.mem ∧ (t.group c h).fault = none ∧ (t.group c h).inHandler = false
      ∧ (t.frag r).m = q.m ∧ (t.frag r).e = x.heldE &&& q.m ∧ (t.frag r).pc = g.fpc ∧ (t.frag r).wait = .ready
      ∧ (g.fpc = x.pc → q.pc = x.pc → (t.frag r).mid = q.mid ∧ (t.frag r).resume = x.slot)
      ∧ (g.fpc ≠ x.pc → (t.frag r).mid = false ∧ (t.frag r).resume = 0) ∧ ∀ u sid, t.strand c u sid = s.strand c u sid)
  ∧ (∀ (part c h : Nat) (s : State), (s.group c h).alloc = true → (s.teamOf c h).part = part → (s.teamOf c h).started = true →
    ((s.group c h).frags = [] → (s.group c h).spill = [] → (s.group c h).fault = none → exec (.dpcmdKill part c h) s = .next s)
    ∧ ((s.group c h).killed = false → (s.group c h).frags ≠ [] ∨ (s.group c h).spill ≠ [] ∨ (s.group c h).fault.isSome = true →
      ∃ t n, exec (.dpcmdKill part c h) s = .next t ∧ t.mem = s.mem ∧ (t.group c h).frags = [] ∧ (t.group c h).spill = []
        ∧ (t.group c h).fault = none ∧ (t.group c h).log = []
        ∧ t.notices.get [] part = s.notices.get [] part ++ [n] ∧ n.kind = 2
        ∧ n.cause = (if (s.group c h).fault.isSome then (s.group c h).cause else 0)))
  ∧ (∀ (part c h gid : Nat) (v : SavedTeam) (g : GroupSlot) (s : State), (s.group c h).alloc = false →
    savedStop s part c h (fun g => g.fault.isSome || !g.log.isEmpty || !g.heldEng.isEmpty) = some (v, gid) →
    v.groups[gid]? = some g → (savedTeamOf s v).part = part →
    ∃ t n, exec (.dpcmdKill part c h) s = .next t ∧ t.mem = s.mem
      ∧ t.notices.get [] part = s.notices.get [] part ++ [n] ∧ n.kind = 2 ∧ n.cause = g.cause ∧ n.core = c ∧ n.hslot = h
      ∧ ∃ w ∈ t.saved, w.place = v.place ∧ ∃ k, w.groups[gid]? = some k ∧ k.frags = [] ∧ k.spill = [] ∧ k.fault = none ∧ k.log = [])
  ∧ (∀ (part c h : Nat) (s : State), (s.group c h).alloc = true → (s.teamOf c h).part = part → teamCor s (s.teamOf c h) = false →
    (s.teamOf c h).started = true → (s.teamOf c h).preempting = 0 →
    ∃ t, exec (.dpcmdSwapOut part c h) s = .next t ∧ t.mem = s.mem
      ∧ t.team c (s.group c h).team = { s.teamOf c h with preempting := 1 }
      ∧ (∀ k u, (k, u) ≠ (c, (s.group c h).team) → t.team k u = s.team k u) ∧ ∀ k j, t.group k j = s.group k j)
  ∧ (∀ (i : Instr) (how part handle : Nat) (l : Launch) (s : State),
    (i = .dpcmdPreemptHold part handle ∧ how = 1 ∨ i = .dpcmdPreemptRequeue part handle ∧ how = 2) →
    s.launch? part handle = some l → l.part = part → l.handle = handle → residents s part handle ≠ [] →
    ∃ t, exec i s = .next t ∧ t.mem = s.mem ∧ t.launch? part handle = some { l with preempt := how }
      ∧ (∀ k j, t.group k j = s.group k j)
      ∧ (l.preempt = 0 → (∀ q ∈ residents s part handle, (t.team q.1 q.2).preempting ≠ 0)
          ∧ handle ∉ (t.part part).queues.get [] l.queue)
      ∧ (l.preempt ≠ 0 → t.cores = s.cores ∧ ∀ v ∈ t.saved, v.part = part → v.handle = handle → v.drained = false))
  ∧ ∀ (part handle : Nat) (l : Launch) (s : State), s.launch? part handle = some l → l.part = part → l.handle = handle →
    l.held = true → handle ∉ (s.part part).queues.get [] l.queue →
    ∃ t, exec (.dpcmdRelease part handle) s = .next t ∧ t.mem = s.mem ∧ t.launch? part handle = some { l with held := false }
      ∧ (t.part part).queues.get [] l.queue = handle :: (s.part part).queues.get [] l.queue ∧ t.cores = s.cores)
  ∧ ((∀ (part cl : Nat) (s : State),
    let p := s.part part
    let lim := p.regs.get 0 8
    dpReady s = true → lim.getLsbD 48 = true → p.lastDrain + Nat.max 1 (bitsAt lim 32 16) * 1000000000 ≤ s.gt →
    p.draining = [] → drainCluster p = some cl →
    ∃ t, exec (.selfTestDrain part) s = .next t ∧ t.mem = s.mem ∧ t.cores = s.cores ∧ (t.part part).draining = [(cl, s.gt)]
      ∧ (t.part part).lastDrain = s.gt ∧ (t.part part).drainNext = cl + 1)
  ∧ (∀ (part cl since c u : Nat) (x : Team) (s : State), (s.part part).draining = [(cl, since)] → since + 1000000 ≤ s.gt →
    (c, u, x) ∈ allTeams s → (s.core c).teams.find? u = some x → clusterOf c = cl → x.part = part → x.preempting = 0 →
    teamCor s x = false →
    ∃ t, exec (.selfTestDrain part) s = .next t ∧ t.mem = s.mem ∧ (t.team c u).preempting = 1 ∧ ∀ k j, t.group k j = s.group k j)
  ∧ ∀ (part cl since : Nat) (fail : Bool) (s : State), (s.part part).draining.find? (fun d => clusterEmpty s d.1) = some (cl, since) →
    let a := 0x4040 + 8 * (cl % 3)
    let old := (s.die (cl / 3)).regs.get 0 a
    ∃ t, exec (.scanSelfTest part fail) s = .next t ∧ t.mem = s.mem
      ∧ (∀ i < 8, (t.core (8 * cl + i)).groups = [] ∧ (t.core (8 * cl + i)).l1 = [] ∧ (t.core (8 * cl + i)).banks = []
          ∧ (t.core (8 * cl + i)).ibuf = [])
      ∧ (∀ d ∈ (t.part part).draining, d.1 ≠ cl)
      ∧ ((t.die (cl / 3)).regs.get 0 a).getLsbD 63 = (fail || old.getLsbD 63)
      ∧ bitsAt ((t.die (cl / 3)).regs.get 0 a) 48 15 = Nat.min 32767 (bitsAt old 48 15 + 1)
      ∧ bitsAt ((t.die (cl / 3)).regs.get 0 a) 0 48 = s.gt % 2 ^ 48
      ∧ (fail = true → cl ∈ (t.part part).failed ∧ ∃ n, t.notices.get [] part = s.notices.get [] part ++ [n] ∧ n.kind = 3))

/-- R170, R171, R256, R299, R300: once nothing of a team is under way its caller blocks are spilled and its lines leave every L1;
once they are home, its groups are saved, each fragment at its region, and its slots are free. A team that the
supervisor has left stopped for 20 µs is swapped out for a head that fits only then.

R296: a team whose strands have all exited, with nothing under way, leaves its core and counts for its launch. A launch
whose teams have all retired first has the lines of its stripes written back; once they are home it adds 1 to its
completion word, and no launch depends on it any more. -/
def Obligations.PreemptionAndRetirement : Prop :=
  ((∀ (c u : Nat) (x : Team) (s : State), (s.core c).teams.find? u = some x → c < 192 → x.started = true →
    teamBusy s c u = false → passRuns s c u = false →
    (x.preempting = 1 → ∃ t, exec (.preemptSave c u) s = .next t ∧ t.mem = s.mem ∧ (t.team c u).preempting = 2
        ∧ ((∀ p ∈ s.teamGroups c u, s.group c p.1 = p.2) → ∀ p ∈ s.teamGroups c u, ∀ q ∈ p.2.frags, ∀ sl ∈ slotsOf q.2.m,
            let sid := sidOf p.2 sl
            ∀ b ∈ callerBlocks (s.strand c u sid) (savedBase q.2), b ∉ (t.strand c u sid).resident ∧ b ∈ (t.strand c u sid).saved))
    ∧ (x.preempting = 2 → ∃ t, exec (.preemptSave c u) s = .next t ∧ t.mem = s.mem ∧ (t.team c u).preempting = 3
        ∧ ∀ k, ∀ l ∈ (t.core k).l1, inStripe x.ctx.asid (stripeOf x).1 (stripeOf x).2 l.asid l.line = false)
    ∧ (x.preempting = 3 → stripePending s x.ctx.asid (stripeOf x).1 (stripeOf x).2 = false →
        ∃ t v, exec (.preemptSave c u) s = .next t ∧ t.mem = s.mem ∧ t.saved = s.saved ++ [v] ∧ v.core = c ∧ v.handle = x.launch
          ∧ v.part = x.part ∧ v.tiles = x.bank.map (fun b => ((s.core c).banks.get {} b).tiles)
          ∧ (∀ p ∈ (t.core c).groups, ¬ (p.2.alloc = true ∧ p.2.team = u))
          ∧ v.groups.map GroupSlot.gid = (s.teamGroups c u).map (fun p => p.2.gid)
          ∧ ∀ p ∈ s.teamGroups c u, ∀ q ∈ p.2.frags, savedInPlace q.2 = false → ∃ g ∈ v.groups, g.gid = p.2.gid
              ∧ ∃ y ∈ g.frags, y.1 = q.1 ∧ y.2.pc = q.2.region.pc ∧ y.2.wbase = q.2.region.base ∧ y.2.m = q.2.m))
  ∧ ∀ (c u q h : Nat) (g : GroupSlot) (x : Team) (f : FaultRec) (l : Launch) (s : State), (s.core c).teams.find? u = some x →
    c < 192 → x.preempting = 0 → teamCor s x = false → dpReady s = true → (h, g) ∈ s.teamGroups c u → g.fault = some f →
    f.supervisor = true → g.supSince + 20000 ≤ s.gt → q < 64 → readyHead s x.part q = some l →
    headPlacement s x.part l = none → (headPlacement (freeTeam s c u) x.part l).isSome = true →
    ∃ t, exec (.autoSwapOut c u) s = .next t ∧ t.mem = s.mem ∧ t.team c u = { x with preempting := 1 }
      ∧ ∀ k j, t.group k j = s.group k j)
  ∧ ((∀ (c u : Nat) (x : Team) (l : Launch) (s : State), (s.core c).teams.find? u = some x → c < 192 → x.started = true →
    liveSids x = [] → teamBusy s c u = false → x.preempting = 0 →
    (∀ p ∈ s.teamGroups c u, p.2.log = [] ∧ p.2.heldEng = []) → s.launch? x.part x.launch = some l → l.part = x.part →
    l.handle = x.launch → l.preempt = 0 →
    ∃ t mark, exec (.teamRetire c u) s = .next t ∧ t.mem = s.mem
      ∧ t.launch? x.part x.launch = some { l with retired := l.retired + 1, mark := mark } ∧ l.mark ≤ mark
      ∧ (∀ p ∈ s.teamGroups c u, markC p.2 ≤ mark) ∧ ∀ p ∈ (t.core c).groups, ¬ (p.2.alloc = true ∧ p.2.team = u))
  ∧ ∀ (part handle : Nat) (l : Launch) (s : State), s.launch? part handle = some l → l.part = part → l.handle = handle →
    l.nteam ≤ l.retired → l.mark < s.gt →
    let size := l.ctx.ssz * 2 ^ 21
    let bases := l.stripes.map (fun i => l.ctx.arena.toNat + i * size)
    (l.retiring = 0 → ∃ t, exec (.launchRetire part handle) s = .next t ∧ t.mem = s.mem
        ∧ t.launch? part handle = some { l with retiring := 1 }
        ∧ ∀ b ∈ bases, ∀ k, ∀ y ∈ (t.core k).l1, inStripe l.ctx.asid b size y.asid y.line = false)
    ∧ (l.retiring = 1 → (∀ b ∈ bases, stripePending s l.ctx.asid b size = false) →
        ∃ t, exec (.launchRetire part handle) s = .next t ∧ t.mem = s.mem
          ∧ (SMap.sortedFrom 0 s.launches = true → t.launch? part handle = none)
          ∧ (∀ y ∈ t.launches, y.2.part = part → handle ∉ y.2.deps)
          ∧ (l.w 6 = 0 → t.homes = s.homes ∧ t.posted = s.posted)
          ∧ ∀ pa s1, l.w 6 ≠ 0 → (l.w 6).toNat % 8 = 0 →
              dispAccess s l.ctx.asid l.ctx.pkr (l.w 6) 8 true true true = (s1, .inl (.home pa)) →
              newestWord t pa 8 = (newestWord s1 pa 8 + 1) % 2 ^ 64))

/-! ## Management, governor and Loupe -/

/-- R303: a write of LQTAIL that would hold more entries than the ring is ignored, any other sets it; LQCTL takes en and its
quantum, en only with a quantum that is not 0; LQCTX is written only while its queue is disabled; DPCFG only while the
partition is idle and none of its clusters is another's. R193: a side-table base outside the die's range leaves en at 0.

R355, R357: a misaligned write of the management space receives an error response; before the link serves, or before its
function is ready, a write is ignored; otherwise a register without an effect of its own keeps the bits that its table lets
a write keep, and reads them. R363: after a failed boot a read or a write outside the platform block receives an error response.
A write of DPCMD is its action. R317: GVSW moves the empty clusters only. That the registers of a Chain port or of the matrix
engine can be used once the chip has booted (`blockReady`) is the model's choice, log entry 27. -/
def Obligations.RegisterWrites : Prop :=
  ((∀ (part q : Nat) (v : W64) (s : State), dpReady s = true → part < 8 → q < 64 →
    let tail := bitsAt v 0 32
    let used := (tail + 2 ^ 32 - bitsAt (lqReg (s.part part) q 0x20) 0 32) % 2 ^ 32
    (ringSize (s.part part) q < used → exec (.lqtailWrite part q v) s = .next s)
    ∧ (used ≤ ringSize (s.part part) q → ∃ t, exec (.lqtailWrite part q v) s = .next t
        ∧ lqReg (t.part part) q 0x18 = .ofNat 64 tail ∧ t.cores = s.cores ∧ ∀ p, p ≠ part → t.part p = s.part p))
  ∧ (∀ (part q : Nat) (v : W64) (s : State), dpReady s = true → part < 8 → q < 64 →
    ∃ t, exec (.lqctlWrite part q v) s = .next t ∧ bitsAt (lqReg (t.part part) q 0) 8 24 = bitsAt v 8 24
      ∧ lqEnabled (t.part part) q = (v.getLsbD 0 && bitsAt v 8 24 != 0) ∧ (t.part part).queues = (s.part part).queues
      ∧ t.cores = s.cores)
  ∧ (∀ (part q : Nat) (v : W64) (s : State), dpReady s = true → part < 8 → q < 64 →
    (lqEnabled (s.part part) q = true → exec (.lqctxWrite part q v) s = .next s)
    ∧ (lqEnabled (s.part part) q = false → ∃ t, exec (.lqctxWrite part q v) s = .next t
        ∧ queueCtx (t.part part) q = bitsAt v 6 46 * 64 ∧ t.cores = s.cores))
  ∧ (∀ (part : Nat) (v : W64) (s : State), dpReady s = true → part < 8 →
    (partIdle s part = false → exec (.dpcfgWrite part v) s = .next s)
    ∧ (partIdle s part = true → (∀ p < 8, p ≠ part → ∀ c < 24, v.getLsbD c = true → c ∉ clustersOf (s.part p)) →
        ∃ t, exec (.dpcfgWrite part v) s = .next t ∧ clustersOf (t.part part) = (List.range 24).filter v.getLsbD
          ∧ (∀ c ∈ (t.part part).failed, v.getLsbD c = true) ∧ t.cores = s.cores))
  ∧ ∀ (d : Nat) (v : W64) (s : State), homeReady s d = true → d < 8 →
    ∃ t, exec (.dtbaseWrite d v) s = .next t ∧ bitsAt ((t.die d).regs.get 0 0) 20 32 = bitsAt v 20 32
      ∧ ((t.die d).regs.get 0 0).getLsbD 0 = (v.getLsbD 0 && bitsAt v 35 17 == d) ∧ t.cores = s.cores)
  ∧ ((∀ (x : Nat) (v : W64) (s : State), (linkReady s = false → exec (.registerWrite x v) s = .next s)
    ∧ (linkReady s = true → x % 8 ≠ 0 → exec (.registerWrite x v) s = .next { s with outbox := s.outbox ++ [.hostError] })
    ∧ (linkReady s = true → s.plat.fail = true → (∀ off, blockOf x ≠ .platform off) →
        exec (.registerWrite x v) s = .next { s with outbox := s.outbox ++ [.hostError] }
        ∧ (hostQueued s = false →
          exec (.hostRead (.management x) 8) s = .next { s with outbox := s.outbox ++ [.hostError] }))
    ∧ (linkReady s = true → x % 8 = 0 → s.plat.fail = false → blockReady s (blockOf x) = false →
        exec (.registerWrite x v) s = .next s))
  ∧ (∀ (x : Nat) (v : W64) (s : State), linkReady s = true → x % 8 = 0 → s.plat.fail = false → blockReady s (blockOf x) = true →
    (∀ off, blockOf x = .platform off → off ≠ 0x18 → platformMask off ≠ 0 →
      ∃ t, exec (.registerWrite x v) s = .next t ∧ t.plat.regs.get 0 off = v &&& platformMask off ∧ t.cores = s.cores)
    ∧ (∀ d off, blockOf x = .die d off → off ≠ 0 → dieMask off ≠ 0 →
      ∃ t, exec (.registerWrite x v) s = .next t ∧ (t.die d).regs.get 0 off = v &&& dieMask off ∧ t.cores = s.cores)
    ∧ (∀ off, blockOf x = .governor off → off ≠ 0 → governorMask off ≠ 0 →
      ∃ t, exec (.registerWrite x v) s = .next t ∧ t.gov.regs.get 0 off = v &&& governorMask off ∧ t.cores = s.cores)
    ∧ (∀ p off, blockOf x = .dispatcher p off → off ≠ 0 → off < 0x20 → dispatcherMask off ≠ 0 →
      ∃ t, exec (.registerWrite x v) s = .next t ∧ (t.part p).regs.get 0 off = v &&& dispatcherMask off ∧ t.cores = s.cores)
    ∧ (∀ q off, blockOf x = .chain q off → off = 0x10 →
      ∃ t, exec (.registerWrite x v) s = .next t ∧ (t.port q).tab = v &&& chainMask off ∧ t.cores = s.cores)
    ∧ (∀ c off, blockOf x = .core c off → coreMask off ≠ 0 →
      ∃ t, exec (.registerWrite x v) s = .next t ∧ (t.core c).regs.get 0 off = v &&& coreMask off ∧ t.mem = s.mem
        ∧ ∀ k, k ≠ c → t.core k = s.core k))
  ∧ (∀ (p : Nat) (v : W64) (s : State), p < 8 → linkReady s = true → s.plat.fail = false → dpReady s = true →
    let c := bitsAt v 4 8
    let h := bitsAt v 12 6
    let n := bitsAt v 32 32
    ∀ k i, (k, i) ∈ [(1, Instr.dpcmdResume p c h), (2, .dpcmdKill p c h), (3, .dpcmdSwapOut p c h), (4, .dpcmdPreemptHold p n),
      (5, .dpcmdPreemptRequeue p n), (6, .dpcmdRelease p n)] → bitsAt v 0 4 = k →
      exec (.registerWrite (0x300020 + 0x10000 * p) v) s = exec i s)
  ∧ ∀ (v : W64) (s : State), s.plat.rdy.getLsbD 11 = true →
    ∃ t, exec (.gvswWrite v) s = .next t ∧ t.cores = s.cores
      ∧ (∀ cl < 24, clusterEmpty s cl = false → domainOf t cl = domainOf s cl)
      ∧ ((∀ cl < 24, clusterEmpty s cl = true ∧ partitionOf s cl = partitionOf s 0) → ∀ cl < 24, domainOf t cl = bitsAt v (2 * cl) 2))

/-- R313, R314, R318: a control tick of a domain moves its thermal cap by its hottest stack and, when it is the highest, its power
cap by the module's power, turns the domain to the target that
its open steps ask for within its caps, at once to a lower point and through the regulator to a higher one, and marks a
step past its deadline at risk with a notice of cause 21. The regulator's end puts the new point into effect.

R315, R316, R321: a period's start refills a quota, which ends a hold or, where it leaves none, begins one with a notice of
cause 22; a cluster's report takes the carats of a context from its
quota, and one that is exhausted is held with a notice of cause 22; a droop stretches the next cycle of a cluster's cores,
and is counted.

That the hottest stack of a domain decides, that each domain has a control tick of its own with its temperatures and power as
arguments, where a cap is decided, and that a droop lasts half a period are the model's choices, log entry 25. -/
def Obligations.GovernorEvents : Prop :=
  ((∀ (j : Nat) (temps : List Nat) (watts : Nat) (s : State), j < 4 → temps.length ≤ 8 → (s.domain j).tick < s.gt / 8000 →
    let d := s.domain j
    let hot := ((domainClusters s j).map (fun c => temps.getD (c / 3) 0)).foldl Nat.max 0
    let base := Nat.max (bitsAt (gvdom s j) 0 4) (bitsAt (gvdom s j) 16 4)
    ∃ t, exec (.controlTick j temps watts) s = .next t ∧ t.mem = s.mem ∧ (t.domain j).tick = s.gt / 8000
      ∧ (1632 ≤ hot → (t.domain j).thermal = 0)
      ∧ (1520 ≤ hot → hot < 1632 → (t.domain j).thermal = d.thermal - 1)
      ∧ (1472 ≤ hot → hot < 1520 → (t.domain j).thermal = d.thermal)
      ∧ (hot < 1472 → (t.domain j).thermal = Nat.min 15 (d.thermal + 1))
      ∧ (∀ k, k ≠ j → t.domain k = s.domain k)
      ∧ (t.domain j).target ≤ capOf s j (t.domain j)
      ∧ (gvpcap s < watts → (t.domain j).power = (if d.cur = topPoint s (s.gt / 8000) then d.power - 1 else d.power))
      ∧ (openSteps s j = [] → (t.domain j).target =
          (if domainClusters s j = [] then 0 else Nat.min base (capOf s j (t.domain j))) ∧ ∀ c h, t.group c h = s.group c h)
      ∧ ((t.domain j).target ≤ d.cur → (t.domain j).cur = (t.domain j).target ∧ (t.domain j).moving = none)
      ∧ (d.cur < (t.domain j).target → (t.domain j).cur = d.cur ∧ (t.domain j).moving = some (t.domain j).target)
      ∧ ∀ c h, openSteps s j = [(c, h)] → (s.group c h).step.deadline ≤ s.gt → (s.group c h).step.charged < (s.group c h).step.work →
          (s.group c h).step.risk = false → (s.group c h).frags ≠ [] →
          (t.group c h).step.risk = true ∧ (t.group c h).step.atRisk = true ∧ (t.domain j).risks = Nat.min 65535 (d.risks + 1)
            ∧ (t.domain j).riskGt = s.gt ∧ ∃ n, (t.group c h).heldEng = (s.group c h).heldEng ++ [n] ∧ n.cause = 21 ∧ n.notice = true)
  ∧ ∀ (j p : Nat) (s : State), (s.domain j).moving = some p →
    ∃ t, exec (.vfTransitionDone j) s = .next t ∧ (t.domain j).cur = p ∧ (t.domain j).moving = none ∧ t.cores = s.cores
      ∧ ∀ k, k ≠ j → t.domain k = s.domain k)
  ∧ ((∀ (asid q part : Nat) (s : State), s.gov.quotaFrom.get 0 asid < s.gt / 1000000 → (SMap.find? s.quotas asid).isSome = true →
    quotaOf s asid = some (q, part) →
    ∃ t, exec (.quotaPeriodStart asid) s = .next t ∧ t.quotas.get 0 asid = min (s.quotas.get 0 asid) 0 + q
      ∧ (q = 0 ∨ 0 < min (s.quotas.get 0 asid) 0 + (q : Int) → asid ∉ t.held ∧ (asid ∉ s.held → t.cores = s.cores))
      ∧ (q ≠ 0 → min (s.quotas.get 0 asid) 0 + (q : Int) ≤ 0 → asid ∈ t.held ∧ t.cores = s.cores
          ∧ ∃ n, t.notices.get [] part = s.notices.get [] part ++ [n] ∧ n.kind = 3 ∧ n.cause = 22 ∧ n.asid = asid)
      ∧ (∀ a, a ≠ asid → t.quotas.get 0 a = s.quotas.get 0 a) ∧ t.mem = s.mem)
  ∧ (∀ (cl asid k q part : Nat) (s : State), s.gov.lastReport.get 0 cl < (s.core (8 * cl)).cycle / 256 → asid < 65536 →
    s.qsub.filter (fun p => p.1 / 65536 == cl) = [(cl * 65536 + asid, k)] → quotaOf s asid = some (q, part) → q ≠ 0 →
    ∃ t, exec (.quotaReport cl) s = .next t ∧ t.quotas.get 0 asid = s.quotas.get 0 asid - k
      ∧ (∀ p ∈ t.qsub, p.1 / 65536 ≠ cl) ∧ t.cores = s.cores ∧ t.mem = s.mem
      ∧ (0 < s.quotas.get 0 asid - k → t.held = s.held ∧ t.notices = s.notices)
      ∧ (s.quotas.get 0 asid - k ≤ 0 → asid ∈ t.held ∧ (s.gov.noticed.contains asid = false →
          ∃ n, t.notices.get [] part = s.notices.get [] part ++ [n] ∧ n.kind = 3 ∧ n.cause = 22 ∧ n.asid = asid)))
  ∧ ∀ (cl : Nat) (s : State),
    ∃ t, exec (.droopDetect cl) s = .next t ∧ t.gt = s.gt ∧ t.mem = s.mem
      ∧ (∀ i < 8, t.core (8 * cl + i) =
          { s.core (8 * cl + i) with phase := (s.core (8 * cl + i)).phase + periodAt (pointOf s cl) / 2 })
      ∧ (∀ c, clusterOf c ≠ cl → t.core c = s.core c)
      ∧ t.gov.regs.get 0 (0x1008 + 0x10 * cl) = .ofNat 64 (((s.gov.regs.get 0 (0x1008 + 0x10 * cl)).toNat + 1) % 2 ^ 32))

/-- R338 to R340, R343, R344: at a multiple of its period a die writes one sample of its counters to its ring and counts the
multiples it missed. In replay Cameo performs the logged host write that is next, diverges at the end of its log, and
diverges when an operation has been held for 10 ms. A corrected error is counted and logged, and an uncorrected one is
logged and poisons its data.

Model's choices: where the words of an entry of the log stand (log entry 11), that the replay performs the first entry not yet
consumed with its logged handle (log entry 28), and the form in which the place of an error comes and the count of missed samples
(log entry 29). -/
def Obligations.LoupeEvents : Prop :=
  (∀ (d : Nat) (s : State), d < 8 → (lsctl (s.die d)).getLsbD 63 = true →
    let k := sampleShift (s.die d)
    let n := s.gt / 2 ^ k
    let ring := (s.die d).regs.get 0 0x4020
    let at_ := bitsAt ring 12 40 * 4096 + (s.die d).samples % 2 ^ bitsAt ring 0 4 * 4096
    (s.die d).lastSample / 2 ^ k < n →
    ∃ t, exec (.sampleLatch d) s = .next t ∧ t.mem = s.mem ∧ t.cores = s.cores ∧ (t.die d).samples = (s.die d).samples + 1
      ∧ (t.die d).lastSample = n * 2 ^ k ∧ newestBytes t at_ 3200 = sampleBytes s d (n * 2 ^ k) (s.die d).samples
      ∧ (t.die d).regs.get 0 0x4028 = (s.die d).regs.get 0 0x4028 + .ofNat 64 (n - (s.die d).lastSample / 2 ^ k - 1))
  ∧ (∀ (d : Nat) (s : State),
    (heldKeys s d = [] → ∃ t, exec (.cameoHoldTimeout d) s = .next t ∧ (t.die d).cmHeld = [] ∧ cmDiverged (t.die d) = cmDiverged (s.die d)
        ∧ t.mem = s.mem ∧ t.cores = s.cores)
    ∧ (∀ k ∈ heldKeys s d, (s.die d).cmHeld.get s.gt k + 10000000 ≤ s.gt →
        ∃ t, exec (.cameoHoldTimeout d) s = .next t ∧ cmDiverged (t.die d) = true ∧ (t.die d).cmHeld = [] ∧ t.mem = s.mem
          ∧ t.cores = s.cores))
  ∧ (∀ (d : Nat) (s : State), d < 8 → cmMode (s.die d) = 2 → cmDiverged (s.die d) = false →
    (cmHead s d = none → ∃ t, exec (.cameoReplay d) s = .next t ∧ cmDiverged (t.die d) = true ∧ t.mem = s.mem ∧ t.cores = s.cores)
    ∧ (∀ n cnt pa len w, cmHead s d = some (n, 2, cnt, [pa, len, w]) → len ≤ 32 * (cnt - 1) →
        ∃ t, exec (.cameoReplay d) s = .next t ∧ t.mem = s.mem ∧ n ∈ (t.die d).cmUsed
          ∧ newestBytes t pa len = (cmDataOf s d n cnt).take len)
    ∧ (∀ n cnt q h, cmHead s d = some (n, 1, cnt, [q, h, 0]) →
        ∃ t, exec (.cameoReplay d) s = .next t ∧ t.mem = s.mem ∧ n ∈ (t.die d).cmUsed
          ∧ ∃ part < 8, (t.part part).handle = (h + 1) % 2 ^ 32))
  ∧ ∀ (d who addr : Nat) (at_ : List Nat) (s : State), d < 8 →
    (∀ u < 7, ∃ t, exec (.errorDetected d u who addr at_ true) s = .next t ∧ t.mem = s.mem ∧ t.cores = s.cores ∧ t.poison = s.poison
      ∧ (t.die d).regs.get 0 0x4098 = (s.die d).regs.get 0 0x4098 + 1
      ∧ (t.die d).regs.get 0 0x4030 = (s.die d).regs.get 0 0x4030 + 1)
    ∧ (∀ u < 7, ∃ t, exec (.errorDetected d u who addr at_ false) s = .next t ∧ t.mem = s.mem
      ∧ (t.die d).regs.get 0 0x4030 = (s.die d).regs.get 0 0x4030 + 1
      ∧ (u = 0 → ∀ team sid, at_ = [0, team, sid] → (t.vreg who team sid addr).poison = true)
      ∧ (u = 0 → ∀ h, at_ = [1, h] → (t.kreg who h addr).poison = true)
      ∧ (u = 1 → ∀ team, at_ = [team] → addr / 16 ∈ (t.team who team).lpoison)
      ∧ (u = 2 → ∀ asid line, at_ = [asid, line] → ∀ l ∈ (t.core who).l1, l.asid = asid → l.line = line →
          l.poison.getLsbD (addr / 32 % 8) = true)
      ∧ (u = 3 → ∀ asid line, at_ = [asid, line] → ∀ l ∈ (t.die (who / 24)).l2, l.asid = asid → l.line = line →
          l.poison.getLsbD (addr / 32 % 8) = true)
      ∧ (u = 4 ∨ u = 5 → addr / 32 ∈ t.poison)
      ∧ (u = 6 → ∀ bank z, at_ = [bank, z] → addr ∈ (t.tile who bank z).poison))

/-! ## Links, power and reset -/

/-- R228, R355, R359: a host request outside every window, or one that its window does not allow, receives an error response and
an entry in the violation log; through a window a read returns what the home holds, a write is at its home in order, and a
host-class atomic reads and writes in one step. What follows a waiting write or atomic waits with it. A management register
is read and written whole.

Model's choices: that a request begins and ends in one window, and that what comes after a waiting write or atomic waits behind it
(log entry 26); that ro = 1 refuses an atomic as a write (log entry 50).

R228, R251, R361: the answers of the host and of a peer. The data of a read fills the registers of its strand, the old
value of an atomic fills those of its own, and the host's acknowledgement ends the oldest write. Where the link has been
down for 10 ms an access to the host completes as REMOTE-GONE (cause 13). -/
def Obligations.HostAccesses : Prop :=
  (∀ (x : Nat) (s : State), linkReady s = true →
    (∀ len, hostRoute s x len = none →
      ∃ t, exec (.hostRead (.data x) len) s = .next t ∧ t.outbox = s.outbox ++ [.hostError] ∧ t.mem = s.mem
        ∧ (homeReady s 0 = true → (t.die 0).regs.get 0 8 = (s.die 0).regs.get 0 8 + 1))
    ∧ (∀ len w pa, hostRoute s x len = some (w, pa) →
      (homeReady s (dieOfPa pa) = false → exec (.hostRead (.data x) len) s = .next { s with outbox := s.outbox ++ [.hostError] })
      ∧ (homeReady s (dieOfPa pa) = true →
        (linesPending s pa len = true ∨ hostQueued s = true →
          exec (.hostRead (.data x) len) s = .next { s with inbox := s.inbox ++ [.hostRead (.data x) len] })
        ∧ (linesPending s pa len = false → hostQueued s = false →
          exec (.hostRead (.data x) len) s = .next { s with outbox := s.outbox ++ [.hostData (newestBytes s pa len)] })))
    ∧ (∀ bytes w pa, hostRoute s x bytes.length = some (w, pa) → homeReady s (dieOfPa pa) = true →
      (w.getLsbD 62 = true → ∃ t, exec (.hostWrite (.data x) bytes) s = .next t ∧ t.outbox = s.outbox ++ [.hostError]
        ∧ t.homes = s.homes ∧ t.mem = s.mem)
      ∧ (w.getLsbD 62 = false → cmMode (s.die (dieOfPa pa)) = 0 →
          (linesLocked s pa bytes.length = true ∨ hostQueued s = true →
            exec (.hostWrite (.data x) bytes) s = .next { s with inbox := s.inbox ++ [.hostWrite (.data x) bytes] })
          ∧ (linesLocked s pa bytes.length = false → hostQueued s = false →
            ∃ t, exec (.hostWrite (.data x) bytes) s = .next t ∧ t.outbox = s.outbox ∧ t.mem = s.mem ∧ s.linkT ≤ t.linkT
              ∧ newestBytes t pa bytes.length = bytes
              ∧ ∀ a, (a < pa ∨ pa + bytes.length ≤ a) → newestByte t a = newestByte s a)))
    ∧ (∀ op code wide operand compare w pa, (op, code) ∈ [(HostOp.add, 0x90), (.swap, 0x96), (.cas, 0x97)] →
      let n := if wide then 8 else 4
      hostRoute s x n = some (w, pa) → homeReady s (dieOfPa pa) = true →
      (w.getLsbD 61 = true → pa % n = 0 → w.getLsbD 62 = false → cmMode (s.die (dieOfPa pa)) = 0 →
        lineLocked s (pa / 256) = false → hostQueued s = false →
        ∃ t, exec (.hostAtomic op (.data x) wide operand compare) s = .next t ∧ t.mem = s.mem
          ∧ t.outbox = s.outbox ++ [.hostData (wordBytes n (newestWord s pa n))]
          ∧ newestWord t pa n = (if op = .add then (newestWord s pa n + operand.toNat) % 256 ^ n
              else if op = .swap then operand.toNat % 256 ^ n
              else if newestWord s pa n = compare.toNat % 256 ^ n then operand.toNat % 256 ^ n else newestWord s pa n))
      ∧ (w.getLsbD 61 = false ∨ w.getLsbD 62 = true → ∃ t, exec (.hostAtomic op (.data x) wide operand compare) s = .next t
          ∧ t.outbox = s.outbox ++ [.hostError] ∧ t.homes = s.homes ∧ t.mem = s.mem))
    ∧ (hostQueued s = false →
      (s.plat.fail = false → exec (.hostRead (.management x) 8) s = .next { s with outbox := s.outbox ++
          [if x % 8 = 0 then .hostData (wordBytes 8 (mgmtRead s x).toNat) else .hostError] })
      ∧ (∀ len, len ≠ 8 → exec (.hostRead (.management x) len) s = .next { s with outbox := s.outbox ++ [.hostError] })
      ∧ (∀ bytes, exec (.hostWrite (.management x) bytes) s = (if bytes.length = 8 then
          exec (.registerWrite x (.ofNat 64 (bytesVal bytes))) s else .next { s with outbox := s.outbox ++ [.hostError] }))
      ∧ ∀ op wide operand compare, exec (.hostAtomic op (.management x) wide operand compare) s =
          .next { s with outbox := s.outbox ++ [.hostError] })
    ∧ (hostQueued s = true → ∀ i, (i = .hostRead (.management x) 8 ∨ ∃ bytes, i = .hostWrite (.management x) bytes) →
        exec i s = .next { s with inbox := s.inbox ++ [i] }))
  ∧ (let words (s : State) : List (Nat × Nat × Bool × Nat × Nat × List W64) :=
    s.fills.map (fun q => (q.core, q.hslot, q.uni, q.sid, q.pos, q.words))
  (∀ (i : Instr) (id clk : Nat) (x : Response) (bytes : List Byte) (f : Fetch) (a : Acc) (s : State),
    (i = .hostResponse id bytes ∧ linkReady s = true ∧ s.fetches.find? (fun f => f.id == id && isHostStage f.stage) = some f
      ∨ i = .chainReadResponse x clk bytes ∧ x.id = id ∧ x.status = 0 ∧ x.seq = (s.conn x.peer).recvNext ∧ peerUp s x.peer = true
        ∧ s.fetches.find? (fun f => f.id == id) = some f ∧ peerOf f.stage = some x.peer ∧ cmMode (s.die (dieOf f.core)) = 0) →
    f.engine = false → f.inst = false → f.lane = false → f.sector ≤ 4 → (if f.sector = 4 then 256 else 64) ≤ bytes.length →
    f.accs = [a] → a.kind = .load → a.dead = false →
    ∃ t, exec i s = .next t ∧ t.mem = s.mem ∧ t.fetches = s.fetches.filter (fun x => x.id != id)
      ∧ words t = words s ++ [(a.core, a.hslot, a.uni, a.sid, a.pos,
          chunkWords (if a.uni then 8 else 4) 8 (((sectorLine f.sector bytes).drop (vaOf a % 256)).take a.size))])
  ∧ (∀ (i : Instr) (id clk : Nat) (x : Response) (old : W64) (op : Nat) (sg h2 : Bool) (p : Posted) (a : Acc) (rest : List Acc)
      (s : State), s.fetches.find? (fun f => f.id == id) = none → s.posted.find? (fun p => p.id == id) = some p →
    (i = .hostResponse id (wordBytes 8 old.toNat) ∧ linkReady s = true ∧ isHostStage p.stage = true
      ∨ i = .chainAtomicResponse x clk old ∧ x.id = id ∧ x.status = 0 ∧ x.seq = (s.conn x.peer).recvNext ∧ peerUp s x.peer = true
        ∧ peerOf p.stage = some x.peer ∧ cmMode (s.die (dieOf p.core)) = 0) →
    p.kind = .atomic → p.elem = none → p.accs = a :: rest → a.kind = .atomic op sg h2 false → a.dead = false →
    ∃ t, exec i s = .next t ∧ t.mem = s.mem ∧ t.posted = s.posted.filter (fun x => x.id != id)
      ∧ words t = words s ++ [(a.core, a.hslot, a.uni, a.sid, a.pos,
          chunkWords (if a.uni then 8 else 4) 2 (wordBytes a.size (old.toNat % 256 ^ a.size)))])
  ∧ (∀ (p : Posted) (s : State), linkReady s = true → s.fetches.find? (fun f => f.id == p.id && isHostStage f.stage) = none →
    s.posted.find? (fun q => q.id == p.id && isHostStage q.stage) = some p → returnsValue p = false →
    s.posted.find? (fun q => isHostStage q.stage && !returnsValue q) = some p → p.elem = none →
    ∃ t, exec (.hostResponse p.id []) s = .next t ∧ t.posted = s.posted.filter (fun x => x.id != p.id) ∧ t.mem = s.mem)
  ∧ ∀ (id : Nat) (f : Fetch) (a : Acc) (s : State), linkReady s = false →
    s.fetches.find? (fun f => f.id == id && isHostStage f.stage && decide (f.since + 10000000 ≤ s.gt)) = some f → f.engine = false →
    f.accs = [a] → f.kept = [] → a.uni = true → a.part = 0 → (s.group a.core a.hslot).alloc = true →
    ∃ t, exec (.hostLinkTimeout id) s = .next t ∧ t.mem = s.mem ∧ t.fetches = s.fetches.filter (fun x => x.id != id)
      ∧ (t.group a.core a.hslot).log = (s.group a.core a.hslot).log ++ [{ acc := a, cause := 13 }]
      ∧ (t.die (dieOf f.core)).regs.get 0 8 = (s.die (dieOf f.core)).regs.get 0 8 + 1)

/-- R228, R251, R361: messages of a peer are served in the order of their sequence numbers: the next one is performed at its
home, a read and an atomic are answered, a duplicate is acknowledged again and one out of order waits. Acknowledgements
empty the buffer of what was sent, and a nak or a time-out sends it again.

R191, R357, R360 to R362: a port that goes down clears its ready bit and reports its modules; a module reported down has its
windows closed on every die, and everything sent to it completes. A connection without progress for 20 ms is lost. A
trained port is up with its four lanes; a lane that fails leaves two or one to a port that sheds, trained on copper to another L7,
and any other down, and a retrain brings lanes back. R328: a response to an atomic carries the clocks of the port and of the home.

Model's choices: that a gap is reported with a nak, and that a port comes up with four lanes (log entry 27); the number that
says what a port has trained as (log entry 30); that the kind of a response holds its status in the address word, and where the
home's clock stands in it (log entry 48). -/
def Obligations.ChainAndPorts : Prop :=
  ((∀ (m seq clk addr n : Nat) (s : State), peerUp s m = true → localBytesOk addr n = true → homeReady s (dieOfPa addr) = true →
    cmMode (s.die (dieOfPa addr)) = 0 →
    (seq = (s.conn m).recvNext →
      (linesPending s addr n = false →
        ∃ t x, exec (.chainRead m seq clk addr n) s = .next t ∧ t.mem = s.mem ∧ (t.conn m).recvNext = seq + 1
          ∧ (t.conn m).unacked ++ (t.conn m).waiting = (s.conn m).unacked ++ (s.conn m).waiting ++ [x]
          ∧ x.kind = 2 ∧ x.addr = 0 ∧ x.ref = seq ∧ x.bytes = newestBytes s addr n
          ∧ ((s.conn m).waiting = [] → peerRoom s m = true → (t.conn m).waiting = [] ∧ x.seq = (s.conn m).sendNext
              ∧ t.outbox = s.outbox ++ [.chain m (frameTo s m).1 (frameTo s m).2 x])
          ∧ (peerRoom s m = false → (t.conn m).unacked = (s.conn m).unacked ∧ t.outbox = s.outbox))
      ∧ (linesPending s addr n = true → ∃ t, exec (.chainRead m seq clk addr n) s = .next t
          ∧ t = { s with inbox := s.inbox ++ [.chainRead m seq clk addr n] })
      ∧ (∀ bytes, bytes.length = n → linesLocked s addr n = false →
        ∃ t, exec (.chainWrite m seq clk addr bytes) s = .next t ∧ t.mem = s.mem ∧ (t.conn m).recvNext = seq + 1
          ∧ newestBytes t addr n = bytes ∧ ∀ a, (a < addr ∨ addr + n ≤ a) → newestByte t a = newestByte s a)
      ∧ (∀ o sg h2 wide operand compare, n = (if wide then 8 else 4) → 0x90 ≤ o.code → o.code ≤ 0x99 → addr % n = 0 →
        lineLocked s (addr / 256) = false →
        ∃ t x, exec (.chainAtomic m seq clk o addr sg h2 wide operand compare) s = .next t ∧ t.mem = s.mem
          ∧ (t.conn m).recvNext = seq + 1
          ∧ (t.conn m).unacked ++ (t.conn m).waiting = (s.conn m).unacked ++ (s.conn m).waiting ++ [x]
          ∧ x.kind = 5 ∧ x.addr = 0 ∧ x.ref = seq
          ∧ x.bytes = wordBytes n (newestWord s addr n) ++ wordBytes 8 (t.die (dieOfPa addr)).homeClk
          ∧ (∀ q, chainPortOf s m = some q → (t.die (dieOfPa addr)).homeClk =
              clockNext (clockNext (Nat.max (s.die (dieOfPa addr)).homeClk (Nat.max (clockNext (Nat.max (s.port q).clk clk)) o.clk))))
          ∧ newestWord t addr n =
              atomicNew o.code sg h2 (8 * n) (newestWord s addr n) (atomicOperand o.code n operand compare) % 256 ^ n)
      ∧ (∀ float elems, 4 * elems.length = n → addr % 4 = 0 → linesLocked s addr n = false → (∀ d < 8, cmMode (s.die d) = 0) →
        ∃ t, exec (.chainReduce m seq clk addr float elems) s = .next t ∧ t.mem = s.mem ∧ (t.conn m).recvNext = seq + 1
          ∧ (s.conn m).lastT ≤ (t.conn m).lastT
          ∧ ∀ j e, elems[j]? = some e →
            newestWord t (addr + 4 * j) 4 = reduceVal float (newestWord s (addr + 4 * j) 4) e.toNat % 2 ^ 32))
    ∧ (seq < (s.conn m).recvNext → ∀ i, (i = .chainRead m seq clk addr n ∨ ∃ bytes, i = .chainWrite m seq clk addr bytes) →
      exec i s = .next { s with outbox := s.outbox ++
        [.chain m (frameTo s m).1 (frameTo s m).2 (ackMsg s m 6)] })
    ∧ ((s.conn m).recvNext < seq → ∀ bytes, ∃ t, exec (.chainWrite m seq clk addr bytes) s = .next t
      ∧ t.inbox = s.inbox ++ [.chainWrite m seq clk addr bytes] ∧ t.homes = s.homes ∧ t.mem = s.mem
      ∧ t.outbox = s.outbox ++ [.chain m (frameTo s m).1 (frameTo s m).2 (ackMsg s m 7)]
      ∧ (t.conn m).recvNext = (s.conn m).recvNext))
  ∧ (∀ (m ack : Nat) (s : State), peerUp s m = true → (∃ x ∈ (s.conn m).unacked, x.seq < ack) →
    ∃ t, exec (.chainAck m ack) s = .next t ∧ t.mem = s.mem ∧ (t.conn m).progressGt = s.gt
      ∧ (∃ sent, (t.conn m).unacked = (s.conn m).unacked.filter (fun x => decide (ack ≤ x.seq)) ++ sent
          ∧ ((∀ p ∈ s.posted, p.elem = none) → sent.length + (t.conn m).waiting.length = (s.conn m).waiting.length))
      ∧ ∀ p ∈ t.posted, peerOf p.stage = some m → returnsValue p = false →
          ∃ x ∈ (t.conn m).unacked ++ (t.conn m).waiting, x.ref = p.id)
  ∧ ∀ (m : Nat) (s : State), peerUp s m = true → (s.conn m).unacked ≠ [] →
    (∃ t, exec (.chainNak m) s = .next t ∧ t.outbox = s.outbox ++ (s.conn m).unacked.map (OutMsg.chain m (frameTo s m).1 (frameTo s m).2) ∧ t.mem = s.mem
      ∧ (t.conn m).unacked = (s.conn m).unacked ∧ t.homes = s.homes)
    ∧ ((s.conn m).sentGt + 20000 ≤ s.gt →
      ∃ t, exec (.chainRetransmitTimeout m) s = .next t ∧ t.outbox = s.outbox ++ (s.conn m).unacked.map (OutMsg.chain m (frameTo s m).1 (frameTo s m).2)
        ∧ (t.conn m).sentGt = s.gt ∧ (t.conn m).progressGt = (s.conn m).progressGt ∧ t.mem = s.mem))
  ∧ ((∀ (q : Nat) (s : State), q < 16 →
    (portUp s q = true → ∃ t, exec (.linkDown q) s = .next t ∧ portUp t q = false ∧ (t.port q).lanes = 0 ∧ t.mem = s.mem
      ∧ t.downs = (s.downs ++ modulesOf s q).eraseDups ∧ t.agenda = s.agenda ∧ ∀ k < 16, k ≠ q → portUp t k = portUp s k)
    ∧ (booted s = true → (s.port q).cfg.getLsbD 0 = true → portUp s q = false →
      ∀ code phy, (code, phy) ∈ [(4, Phy.copperL7), (12, .copper), (20, .optical)] →
      ∃ t, exec (.linkUp q code) s = .next t ∧ portUp t q = true ∧ (t.port q).lanes = 4 ∧ (t.port q).phy = phy ∧ t.mem = s.mem
        ∧ ∀ k < 16, k ≠ q → portUp t k = portUp s k)
    ∧ (∀ code, code ≠ 4 → code ≠ 12 → code ≠ 20 → exec (.linkUp q code) s = .next s)
    ∧ (∀ healthy, portUp s q = true → healthy < 4 →
      ((s.port q).cfg.getLsbD 1 = true → (s.port q).phy = .copperL7 → 0 < healthy →
        ∃ t, exec (.laneShed q healthy) s = .next t ∧ portUp t q = true ∧ (t.port q).lanes = (if 2 ≤ healthy then 2 else 1)
          ∧ (t.port q).sheds = ((s.port q).sheds + 1) % 2 ^ 32 ∧ t.mem = s.mem)
      ∧ ((s.port q).cfg.getLsbD 1 = false ∨ (s.port q).phy ≠ .copperL7 ∨ healthy = 0 →
        ∃ t, exec (.laneShed q healthy) s = .next t ∧ portUp t q = false ∧ (t.port q).lanes = 0 ∧ t.mem = s.mem))
    ∧ ∀ lanes, (lanes = 2 ∨ lanes = 4) → portUp s q = true → (s.port q).cfg.getLsbD 1 = true → (s.port q).phy = .copperL7 →
      (s.port q).lanes < lanes →
      ∃ t, exec (.laneRestore q lanes) s = .next t ∧ (t.port q).lanes = lanes ∧ portUp t q = true ∧ t.mem = s.mem)
  ∧ ∀ (m : Nat) (s : State),
    (∃ t, exec (.peerLinkDown m) s = .next t ∧ t.mem = s.mem ∧ t.conn m = {}
      ∧ ((∀ p ∈ s.posted, p.peer = none) → ∀ k, k ≠ m → t.conn k = s.conn k)
      ∧ (∀ f ∈ t.fetches, peerOf f.stage ≠ some m) ∧ (∀ p ∈ t.posted, peerOf p.stage ≠ some m)
      ∧ m ∉ t.downs ∧ (∀ i ∈ t.inbox, messageOf i ≠ some m)
      ∧ ∀ d < 8, ∀ w < 256, winModule (s.die d) w = m → (pwEntry (t.die d) w).1.getLsbD 63 = false)
    ∧ ((s.conn m).unacked ≠ [] → (s.conn m).progressGt + 20000000 ≤ s.gt → exec (.peerLost m) s = exec (.peerLinkDown m) s))

/-- R357, R358, R363, R364: power-on reset leaves the state of reset with the fuses and the Porsen link trained, a loss of power the state of
reset without power. A boot whose images verify, none with a version below the fused minimum, makes every function ready, counts in
the fuses and holds the SHA-384 measurements; one that fails leaves the link alone, which then serves the platform block. A report
is requested by a write of LKCMD while none is produced, and its bytes stand in its buffer when it is complete.

R193, R257, R303, R322, R330, R344, R356, R358: what reset leaves of the registers whose reset values the spec gives:
MXSLOT, MXKAT, DPLIM, GVSW, GVPCAP, GVDOM, the ready bits, and 0 in the counters and logs; no team is resident.

Model's choices: GT is 0 (log entry 4); the boot counter starts at 0 (log entry 6); the link trains when power returns, the ready
bits follow BOOT_VERIFY at once, what it finds comes as its argument, and LKCMD needs the ready bit of Locket (log entry 30). -/
def Obligations.PowerReportsAndReset : Prop :=
  (∀ s : State,
    exec .powerOnReset s = .next { State.reset with fuses := s.fuses, agenda := s.agenda, freeCtr := s.freeCtr,
                                                    plat := { State.reset.plat with rdy := linkBit } }
    ∧ exec .powerOff s = .next { State.reset with powered := false, fuses := s.fuses, agenda := s.agenda, freeCtr := s.freeCtr }
    ∧ (booted s = false → s.plat.fail = false → ∀ found,
      ((imagesOf 3 found).any (tooOld s) = false →
        ∃ t, exec (.bootVerify true found) s = .next t ∧ booted t = true ∧ linkReady t = true ∧ dpReady t = true
        ∧ (∀ d < 8, homeReady t d = true) ∧ t.plat.rdy.getLsbD 11 = true ∧ t.plat.rdy.getLsbD 12 = true
        ∧ (∀ q < 16, portUp t q = portUp s q) ∧ t.fuses.boots = s.fuses.boots + 1 ∧ t.mem = s.mem
        ∧ t.fuses.minVersion = s.fuses.minVersion ∧ t.plat.measures = measure (imagesOf 3 found))
      ∧ ∀ signed, (signed = false ∨ (imagesOf 3 found).any (tooOld s) = true) →
        ∃ t, exec (.bootVerify signed found) s = .next t ∧ booted t = false ∧ linkReady t = true ∧ t.plat.fail = true
        ∧ dpReady t = dpReady s ∧ t.fuses = s.fuses ∧ t.mem = s.mem)
    ∧ (∀ v, booted s = true → bitsAt v 0 4 = 1 →
      (s.plat.busy = none → ∃ t, exec (.lkcmdReport v) s = .next t ∧ t.plat.busy = some (bitsAt v 12 40 * 4096, nonceOf s)
        ∧ t.mem = s.mem ∧ t.fuses = s.fuses ∧ (lkstat t).getLsbD 63 = true)
      ∧ (s.plat.busy ≠ none → exec (.lkcmdReport v) s = .next s))
    ∧ ∀ dst nonce, s.plat.busy = some (dst, nonce) → localBytesOk dst 4096 = true →
      ∃ t, exec .reportComplete s = .next t ∧ t.mem = s.mem ∧ t.plat.busy = none ∧ t.plat.reports = s.plat.reports + 1
        ∧ newestBytes t dst 3524 = reportBytes s nonce
        ∧ newestBytes t dst 8 = [0x4C, 0x4F, 0x43, 0x4B, 0x45, 0x54, 0x41, 0x54]
        ∧ (s.plat.lmsx = false → newestBytes t (dst + 352) 4 = [0, 0, 0, 1])
        ∧ (s.plat.lmsx = true → newestBytes t (dst + 352) 3172 = List.replicate 3172 0))
  ∧ ((∀ c, ((State.reset.core c).regs.get 0 0 = 0xFFFFFFFF) ∧ (State.reset.core c).regs.get 0 0x10 = 1
    ∧ (∀ off, 0x10 < off → (State.reset.core c).regs.get 0 off = 0) ∧ (State.reset.core c).teams = [])
  ∧ (∀ p, (State.reset.part p).regs.get 0 8 = 0x0001025803E80064 ∧ (∀ q, lqEnabled (State.reset.part p) q = false)
    ∧ clustersOf (State.reset.part p) = [] ∧ (State.reset.part p).handle = 0)
  ∧ State.reset.gov.regs.get 0 0 = 0xFFFAAA555000 ∧ State.reset.gov.regs.get 0 8 = 0x708
  ∧ (∀ j < 4, gvdom State.reset j = 0xF0601C ∧ (State.reset.domain j).cur = 12)
  ∧ (∀ d off, (State.reset.die d).regs.get 0 off = 0) ∧ State.reset.plat.rdy = 0 ∧ State.reset.plat.regs.get 0 0x20 = 0xC65100000000
  ∧ State.reset.gt = 0)
end

