-- ==== Sys2Proof/Laws/SMap.lean ====
section
/-! SUPPORT. What reading, writing and erasing do to sparse data, and that they keep its canonical form. -/

namespace Sys2Proof

variable {α : Type}

@[simp] theorem SMap.get_nil (d : α) (i : Nat) : SMap.get d [] i = d := rfl

theorem SMap.get_cons (d : α) (k : Nat) (v : α) (r : SMap α) (i : Nat) :
    SMap.get d ((k, v) :: r) i = if k = i then v else if i < k then d else SMap.get d r i := rfl

theorem SMap.find?_cons (k : Nat) (v : α) (r : SMap α) (i : Nat) :
    SMap.find? ((k, v) :: r) i = if k = i then some v else if i < k then none else SMap.find? r i := rfl

theorem SMap.set_cons (k : Nat) (v : α) (r : SMap α) (i : Nat) (x : α) :
    SMap.set ((k, v) :: r) i x =
      if i < k then (i, x) :: (k, v) :: r else if k = i then (i, x) :: r else (k, v) :: SMap.set r i x := rfl

theorem SMap.erase_cons (k : Nat) (v : α) (r : SMap α) (i : Nat) :
    SMap.erase ((k, v) :: r) i = if i < k then (k, v) :: r else if k = i then r else (k, v) :: SMap.erase r i := rfl

/-- Reading after listing a value: the value at its key, what was there elsewhere. -/
theorem SMap.get_set (d : α) (m : SMap α) (i j : Nat) (x : α) :
    (m.set i x).get d j = if i = j then x else m.get d j := by
  induction m with
  | nil =>
    rw [SMap.set, SMap.get_cons]
    simp
  | cons p r ih =>
    obtain ⟨k, v⟩ := p
    rw [SMap.set_cons]
    split
    · simp only [SMap.get_cons]
      repeat' split
      all_goals first | rfl | omega
    · split
      · simp only [SMap.get_cons]
        repeat' split
        all_goals first | rfl | omega
      · simp only [SMap.get_cons, ih]
        repeat' split
        all_goals first | rfl | omega

@[simp] theorem SMap.get_set_self (d : α) (m : SMap α) (i : Nat) (x : α) : (m.set i x).get d i = x := by
  simp [SMap.get_set]

theorem SMap.get_set_ne (d : α) (m : SMap α) {i j : Nat} (x : α) (h : i ≠ j) : (m.set i x).get d j = m.get d j := by
  simp [SMap.get_set, h]

/-- Listing twice at one key keeps the later value. -/
@[simp] theorem SMap.set_set (m : SMap α) (i : Nat) (x y : α) : (m.set i x).set i y = m.set i y := by
  induction m with
  | nil => simp [SMap.set]
  | cons p r ih =>
    obtain ⟨k, v⟩ := p
    by_cases h1 : i < k
    · simp [SMap.set, h1]
    · by_cases h2 : k = i
      · simp [SMap.set, h2]
      · simp [SMap.set, h1, h2, ih]

/-- Reading after a change. -/
theorem SMap.get_update (d : α) (m : SMap α) (i j : Nat) (f : α → α) :
    (m.update d i f).get d j = if i = j then f (m.get d i) else m.get d j := by
  simp [SMap.update, SMap.get_set]

@[simp] theorem SMap.get_update_self (d : α) (m : SMap α) (i : Nat) (f : α → α) :
    (m.update d i f).get d i = f (m.get d i) := by
  simp [SMap.get_update]

/-- An entry is listed after a write exactly where it was written or was listed before. -/
theorem SMap.find?_set (m : SMap α) (i j : Nat) (x : α) :
    (m.set i x).find? j = if i = j then some x else m.find? j := by
  induction m with
  | nil =>
    rw [SMap.set, SMap.find?_cons]
    simp [SMap.find?]
  | cons p r ih =>
    obtain ⟨k, v⟩ := p
    rw [SMap.set_cons]
    split
    · simp only [SMap.find?_cons]
      repeat' split
      all_goals first | rfl | omega
    · split
      · simp only [SMap.find?_cons]
        repeat' split
        all_goals first | rfl | omega
      · simp only [SMap.find?_cons, ih]
        repeat' split
        all_goals first | rfl | omega

/-! ## Rising keys -/

theorem SMap.sortedFrom_mono {b c : Nat} (m : SMap α) (h : m.sortedFrom b = true) (hc : c ≤ b) :
    m.sortedFrom c = true := by
  cases m with
  | nil => rfl
  | cons p r =>
    obtain ⟨k, v⟩ := p
    simp only [SMap.sortedFrom, Bool.and_eq_true, decide_eq_true_eq] at h ⊢
    exact ⟨by omega, h.2⟩

theorem SMap.sortedFrom_set {b i : Nat} (m : SMap α) (x : α) (h : m.sortedFrom b = true) (hi : b ≤ i) :
    (m.set i x).sortedFrom b = true := by
  induction m generalizing b with
  | nil => simp [SMap.set, SMap.sortedFrom, hi]
  | cons p r ih =>
    obtain ⟨k, v⟩ := p
    simp only [SMap.sortedFrom, Bool.and_eq_true, decide_eq_true_eq] at h
    by_cases h1 : i < k
    · simp only [SMap.set, h1, if_true, SMap.sortedFrom, Bool.and_eq_true, decide_eq_true_eq]
      exact ⟨hi, by omega, h.2⟩
    · by_cases h2 : k = i
      · subst h2
        simp [SMap.set, SMap.sortedFrom, h.1, h.2]
      · simp only [SMap.set, h1, h2, if_false, SMap.sortedFrom, Bool.and_eq_true, decide_eq_true_eq]
        exact ⟨h.1, ih h.2 (by omega)⟩

theorem SMap.sortedFrom_erase {b : Nat} (m : SMap α) (i : Nat) (h : m.sortedFrom b = true) :
    (m.erase i).sortedFrom b = true := by
  induction m generalizing b with
  | nil => rfl
  | cons p r ih =>
    obtain ⟨k, v⟩ := p
    have h' := h
    simp only [SMap.sortedFrom, Bool.and_eq_true, decide_eq_true_eq] at h
    rw [SMap.erase_cons]
    split
    · exact h'
    · split
      · exact SMap.sortedFrom_mono (b := k + 1) r h.2 (by omega)
      · simp only [SMap.sortedFrom, Bool.and_eq_true, decide_eq_true_eq]
        exact ⟨h.1, ih h.2⟩

theorem SMap.mem_set {m : SMap α} {i : Nat} {x : α} {p : Nat × α} (h : p ∈ SMap.set m i x) : p = (i, x) ∨ p ∈ m := by
  induction m with
  | nil => simpa [SMap.set] using h
  | cons q r ih =>
    obtain ⟨k, v⟩ := q
    rw [SMap.set_cons] at h
    split at h
    · exact List.mem_cons.1 h
    · split at h
      · rcases List.mem_cons.1 h with h | h
        · exact .inl h
        · exact .inr (List.mem_cons_of_mem _ h)
      · rcases List.mem_cons.1 h with h | h
        · exact .inr (h ▸ List.mem_cons_self)
        · exact (ih h).imp_right (List.mem_cons_of_mem _)

theorem SMap.mem_erase {m : SMap α} {i : Nat} {p : Nat × α} (h : p ∈ SMap.erase m i) : p ∈ m := by
  induction m with
  | nil => exact h
  | cons q r ih =>
    obtain ⟨k, v⟩ := q
    rw [SMap.erase_cons] at h
    split at h
    · exact h
    · split at h
      · exact List.mem_cons_of_mem _ h
      · rcases List.mem_cons.1 h with h | h
        · exact h ▸ List.mem_cons_self
        · exact List.mem_cons_of_mem _ (ih h)

/-- Writing keeps the canonical form. -/
theorem SMap.wf_put [DecidableEq α] (d : α) (m : SMap α) (i : Nat) (x : α) (h : m.wf d = true) :
    (m.put d i x).wf d = true := by
  simp only [SMap.wf, Bool.and_eq_true, List.all_eq_true] at h ⊢
  by_cases hx : x = d
  · simp only [SMap.put, hx, if_true]
    exact ⟨SMap.sortedFrom_erase m i h.1, fun p hp => h.2 p (SMap.mem_erase hp)⟩
  · simp only [SMap.put, hx, if_false]
    refine ⟨SMap.sortedFrom_set m x h.1 (by omega), fun p hp => ?_⟩
    rcases SMap.mem_set hp with rfl | hp
    · simpa using hx
    · exact h.2 p hp

/-- Erasing a key of data with rising keys. -/
theorem SMap.get_erase (d : α) (m : SMap α) (i j : Nat) {b : Nat} (h : m.sortedFrom b = true) :
    (m.erase i).get d j = if i = j then d else m.get d j := by
  have below : ∀ (r : SMap α) (b j : Nat), r.sortedFrom b = true → j < b → r.get d j = d := by
    intro r b j hs hj
    cases r with
    | nil => rfl
    | cons p r =>
      obtain ⟨k, v⟩ := p
      simp only [SMap.sortedFrom, Bool.and_eq_true, decide_eq_true_eq] at hs
      have h1 : ¬ k = j := by omega
      have h2 : j < k := by omega
      simp [SMap.get, h1, h2]
  induction m generalizing b with
  | nil => simp [SMap.erase, SMap.get]
  | cons p r ih =>
    obtain ⟨k, v⟩ := p
    simp only [SMap.sortedFrom, Bool.and_eq_true, decide_eq_true_eq] at h
    rw [SMap.erase_cons]
    split
    · simp only [SMap.get_cons]
      repeat' split
      all_goals first | rfl | omega
    · split
      · simp only [SMap.get_cons]
        repeat' split
        all_goals first | omega | rfl | exact below r (k + 1) j h.2 (by omega)
      · simp only [SMap.get_cons, ih h.2]
        repeat' split
        all_goals first | rfl | omega

/-- Reading after writing canonical data. -/
theorem SMap.get_put [DecidableEq α] (d : α) (m : SMap α) (i j : Nat) (x : α) (h : m.wf d = true) :
    (m.put d i x).get d j = if i = j then x else m.get d j := by
  simp only [SMap.wf, Bool.and_eq_true] at h
  by_cases hx : x = d
  · simp only [SMap.put, hx, if_true]
    exact SMap.get_erase d m i j h.1
  · simp only [SMap.put, hx, if_false]
    exact SMap.get_set d m i j x

end Sys2Proof
end

