-- ==== Sys2Proof/Laws/Memory.lean ====
section
/-! SUPPORT. Physical memory: every operation keeps the canonical form, and a read after a write gives the byte
written there and every other byte as before. -/

namespace Sys2Proof.Machine

theorem Memory.wf_empty : Memory.wf [] = true := rfl

theorem Memory.wf_write (m : List Host.Cell) (a : Nat) (b : Byte) (h : Memory.wf m = true) :
    Memory.wf (Memory.write m a b) = true := SMap.wf_put _ m a b h

theorem Memory.wf_writeMap (m : List Host.Cell) (base : Nat) (bs : SMap Byte) (h : Memory.wf m = true) :
    Memory.wf (Memory.writeMap m base bs) = true := by
  induction bs generalizing m with
  | nil => exact h
  | cons p r ih => exact ih _ (Memory.wf_write m _ _ h)

theorem Memory.read_write (m : List Host.Cell) (a c : Nat) (b : Byte) (h : Memory.wf m = true) :
    Memory.read (Memory.write m a b) c = if a = c then b else Memory.read m c := SMap.get_put _ m a c b h

/-- A byte whose offset is not listed reads as before. -/
theorem Memory.read_writeMap_other (m : List Host.Cell) (base c : Nat) (bs : SMap Byte) (h : Memory.wf m = true)
    (hc : ∀ p ∈ bs, base + p.1 ≠ c) : Memory.read (Memory.writeMap m base bs) c = Memory.read m c := by
  induction bs generalizing m with
  | nil => rfl
  | cons p r ih =>
    simp only [Memory.writeMap]
    rw [ih _ (Memory.wf_write m _ _ h) (fun q hq => hc q (by simp [hq])), Memory.read_write _ _ _ _ h,
      if_neg (hc p (by simp))]

end Sys2Proof.Machine
end

