-- ==== Sys2Proof/Laws/State.lean ====
section
/-! SUPPORT. What the updates of the state leave: one lemma for each field and each update, and what reading a core,
a die, a group, a team, a fragment or a strand gives after it was written. -/

namespace Sys2Proof.Machine

/-! ## Fields after an update of a core or a die -/

@[simp] theorem State.setCore_agenda (s : State) (c : Nat) (x : Core) : (s.setCore c x).agenda = s.agenda := rfl
@[simp] theorem State.setCore_cur (s : State) (c : Nat) (x : Core) : (s.setCore c x).cur = s.cur := rfl
@[simp] theorem State.setCore_starts (s : State) (c : Nat) (x : Core) : (s.setCore c x).starts = s.starts := rfl
@[simp] theorem State.setCore_follow (s : State) (c : Nat) (x : Core) : (s.setCore c x).follow = s.follow := rfl
@[simp] theorem State.setCore_freeCtr (s : State) (c : Nat) (x : Core) : (s.setCore c x).freeCtr = s.freeCtr := rfl
@[simp] theorem State.setCore_nextId (s : State) (c : Nat) (x : Core) : (s.setCore c x).nextId = s.nextId := rfl
@[simp] theorem State.setCore_gt (s : State) (c : Nat) (x : Core) : (s.setCore c x).gt = s.gt := rfl
@[simp] theorem State.setCore_powered (s : State) (c : Nat) (x : Core) : (s.setCore c x).powered = s.powered := rfl
@[simp] theorem State.setCore_mem (s : State) (c : Nat) (x : Core) : (s.setCore c x).mem = s.mem := rfl
@[simp] theorem State.setCore_tags (s : State) (c : Nat) (x : Core) : (s.setCore c x).tags = s.tags := rfl
@[simp] theorem State.setCore_poison (s : State) (c : Nat) (x : Core) : (s.setCore c x).poison = s.poison := rfl
@[simp] theorem State.setCore_homes (s : State) (c : Nat) (x : Core) : (s.setCore c x).homes = s.homes := rfl
@[simp] theorem State.setCore_mscDirty (s : State) (c : Nat) (x : Core) : (s.setCore c x).mscDirty = s.mscDirty := rfl
@[simp] theorem State.setCore_fetches (s : State) (c : Nat) (x : Core) : (s.setCore c x).fetches = s.fetches := rfl
@[simp] theorem State.setCore_posted (s : State) (c : Nat) (x : Core) : (s.setCore c x).posted = s.posted := rfl
@[simp] theorem State.setCore_atlbReqs (s : State) (c : Nat) (x : Core) : (s.setCore c x).atlbReqs = s.atlbReqs := rfl
@[simp] theorem State.setCore_fills (s : State) (c : Nat) (x : Core) : (s.setCore c x).fills = s.fills := rfl
@[simp] theorem State.setCore_gang (s : State) (c : Nat) (x : Core) : (s.setCore c x).gang = s.gang := rfl
@[simp] theorem State.setCore_roots (s : State) (c : Nat) (x : Core) : (s.setCore c x).roots = s.roots := rfl
@[simp] theorem State.setCore_fused (s : State) (c : Nat) (x : Core) : (s.setCore c x).fused = s.fused := rfl
@[simp] theorem State.setCore_quotas (s : State) (c : Nat) (x : Core) : (s.setCore c x).quotas = s.quotas := rfl
@[simp] theorem State.setCore_qsub (s : State) (c : Nat) (x : Core) : (s.setCore c x).qsub = s.qsub := rfl
@[simp] theorem State.setCore_clen (s : State) (c : Nat) (x : Core) : (s.setCore c x).clen = s.clen := rfl
@[simp] theorem State.setCore_held (s : State) (c : Nat) (x : Core) : (s.setCore c x).held = s.held := rfl
@[simp] theorem State.setCore_notices (s : State) (c : Nat) (x : Core) : (s.setCore c x).notices = s.notices := rfl
@[simp] theorem State.setCore_copies (s : State) (c : Nat) (x : Core) : (s.setCore c x).copies = s.copies := rfl
@[simp] theorem State.setCore_dues (s : State) (c : Nat) (x : Core) : (s.setCore c x).dues = s.dues := rfl
@[simp] theorem State.setCore_engineClk (s : State) (c : Nat) (x : Core) : (s.setCore c x).engineClk = s.engineClk := rfl
@[simp] theorem State.setCore_mxslot (s : State) (c : Nat) (x : Core) : (s.setCore c x).mxslot = s.mxslot := rfl
@[simp] theorem State.setCore_launches (s : State) (c : Nat) (x : Core) : (s.setCore c x).launches = s.launches := rfl
@[simp] theorem State.setCore_runs (s : State) (c : Nat) (x : Core) : (s.setCore c x).runs = s.runs := rfl
@[simp] theorem State.setCore_saved (s : State) (c : Nat) (x : Core) : (s.setCore c x).saved = s.saved := rfl
@[simp] theorem State.setCore_parts (s : State) (c : Nat) (x : Core) : (s.setCore c x).parts = s.parts := rfl
@[simp] theorem State.setCore_gov (s : State) (c : Nat) (x : Core) : (s.setCore c x).gov = s.gov := rfl
@[simp] theorem State.setCore_plat (s : State) (c : Nat) (x : Core) : (s.setCore c x).plat = s.plat := rfl
@[simp] theorem State.setCore_fuses (s : State) (c : Nat) (x : Core) : (s.setCore c x).fuses = s.fuses := rfl
@[simp] theorem State.setCore_ports (s : State) (c : Nat) (x : Core) : (s.setCore c x).ports = s.ports := rfl
@[simp] theorem State.setCore_conns (s : State) (c : Nat) (x : Core) : (s.setCore c x).conns = s.conns := rfl
@[simp] theorem State.setCore_inbox (s : State) (c : Nat) (x : Core) : (s.setCore c x).inbox = s.inbox := rfl
@[simp] theorem State.setCore_downs (s : State) (c : Nat) (x : Core) : (s.setCore c x).downs = s.downs := rfl
@[simp] theorem State.setCore_linkT (s : State) (c : Nat) (x : Core) : (s.setCore c x).linkT = s.linkT := rfl
@[simp] theorem State.setCore_linkClk (s : State) (c : Nat) (x : Core) : (s.setCore c x).linkClk = s.linkClk := rfl
@[simp] theorem State.setCore_outbox (s : State) (c : Nat) (x : Core) : (s.setCore c x).outbox = s.outbox := rfl
@[simp] theorem State.setCore_cores (s : State) (c : Nat) (x : Core) : (s.setCore c x).cores = s.cores.set c x := rfl
@[simp] theorem State.setCore_dies (s : State) (c : Nat) (x : Core) : (s.setCore c x).dies = s.dies := rfl

@[simp] theorem State.setDie_agenda (s : State) (c : Nat) (x : Die) : (s.setDie c x).agenda = s.agenda := rfl
@[simp] theorem State.setDie_cur (s : State) (c : Nat) (x : Die) : (s.setDie c x).cur = s.cur := rfl
@[simp] theorem State.setDie_starts (s : State) (c : Nat) (x : Die) : (s.setDie c x).starts = s.starts := rfl
@[simp] theorem State.setDie_follow (s : State) (c : Nat) (x : Die) : (s.setDie c x).follow = s.follow := rfl
@[simp] theorem State.setDie_freeCtr (s : State) (c : Nat) (x : Die) : (s.setDie c x).freeCtr = s.freeCtr := rfl
@[simp] theorem State.setDie_nextId (s : State) (c : Nat) (x : Die) : (s.setDie c x).nextId = s.nextId := rfl
@[simp] theorem State.setDie_gt (s : State) (c : Nat) (x : Die) : (s.setDie c x).gt = s.gt := rfl
@[simp] theorem State.setDie_powered (s : State) (c : Nat) (x : Die) : (s.setDie c x).powered = s.powered := rfl
@[simp] theorem State.setDie_mem (s : State) (c : Nat) (x : Die) : (s.setDie c x).mem = s.mem := rfl
@[simp] theorem State.setDie_tags (s : State) (c : Nat) (x : Die) : (s.setDie c x).tags = s.tags := rfl
@[simp] theorem State.setDie_poison (s : State) (c : Nat) (x : Die) : (s.setDie c x).poison = s.poison := rfl
@[simp] theorem State.setDie_homes (s : State) (c : Nat) (x : Die) : (s.setDie c x).homes = s.homes := rfl
@[simp] theorem State.setDie_mscDirty (s : State) (c : Nat) (x : Die) : (s.setDie c x).mscDirty = s.mscDirty := rfl
@[simp] theorem State.setDie_fetches (s : State) (c : Nat) (x : Die) : (s.setDie c x).fetches = s.fetches := rfl
@[simp] theorem State.setDie_posted (s : State) (c : Nat) (x : Die) : (s.setDie c x).posted = s.posted := rfl
@[simp] theorem State.setDie_atlbReqs (s : State) (c : Nat) (x : Die) : (s.setDie c x).atlbReqs = s.atlbReqs := rfl
@[simp] theorem State.setDie_fills (s : State) (c : Nat) (x : Die) : (s.setDie c x).fills = s.fills := rfl
@[simp] theorem State.setDie_gang (s : State) (c : Nat) (x : Die) : (s.setDie c x).gang = s.gang := rfl
@[simp] theorem State.setDie_roots (s : State) (c : Nat) (x : Die) : (s.setDie c x).roots = s.roots := rfl
@[simp] theorem State.setDie_fused (s : State) (c : Nat) (x : Die) : (s.setDie c x).fused = s.fused := rfl
@[simp] theorem State.setDie_quotas (s : State) (c : Nat) (x : Die) : (s.setDie c x).quotas = s.quotas := rfl
@[simp] theorem State.setDie_qsub (s : State) (c : Nat) (x : Die) : (s.setDie c x).qsub = s.qsub := rfl
@[simp] theorem State.setDie_clen (s : State) (c : Nat) (x : Die) : (s.setDie c x).clen = s.clen := rfl
@[simp] theorem State.setDie_held (s : State) (c : Nat) (x : Die) : (s.setDie c x).held = s.held := rfl
@[simp] theorem State.setDie_notices (s : State) (c : Nat) (x : Die) : (s.setDie c x).notices = s.notices := rfl
@[simp] theorem State.setDie_copies (s : State) (c : Nat) (x : Die) : (s.setDie c x).copies = s.copies := rfl
@[simp] theorem State.setDie_dues (s : State) (c : Nat) (x : Die) : (s.setDie c x).dues = s.dues := rfl
@[simp] theorem State.setDie_engineClk (s : State) (c : Nat) (x : Die) : (s.setDie c x).engineClk = s.engineClk := rfl
@[simp] theorem State.setDie_mxslot (s : State) (c : Nat) (x : Die) : (s.setDie c x).mxslot = s.mxslot := rfl
@[simp] theorem State.setDie_launches (s : State) (c : Nat) (x : Die) : (s.setDie c x).launches = s.launches := rfl
@[simp] theorem State.setDie_runs (s : State) (c : Nat) (x : Die) : (s.setDie c x).runs = s.runs := rfl
@[simp] theorem State.setDie_saved (s : State) (c : Nat) (x : Die) : (s.setDie c x).saved = s.saved := rfl
@[simp] theorem State.setDie_parts (s : State) (c : Nat) (x : Die) : (s.setDie c x).parts = s.parts := rfl
@[simp] theorem State.setDie_gov (s : State) (c : Nat) (x : Die) : (s.setDie c x).gov = s.gov := rfl
@[simp] theorem State.setDie_plat (s : State) (c : Nat) (x : Die) : (s.setDie c x).plat = s.plat := rfl
@[simp] theorem State.setDie_fuses (s : State) (c : Nat) (x : Die) : (s.setDie c x).fuses = s.fuses := rfl
@[simp] theorem State.setDie_ports (s : State) (c : Nat) (x : Die) : (s.setDie c x).ports = s.ports := rfl
@[simp] theorem State.setDie_conns (s : State) (c : Nat) (x : Die) : (s.setDie c x).conns = s.conns := rfl
@[simp] theorem State.setDie_inbox (s : State) (c : Nat) (x : Die) : (s.setDie c x).inbox = s.inbox := rfl
@[simp] theorem State.setDie_downs (s : State) (c : Nat) (x : Die) : (s.setDie c x).downs = s.downs := rfl
@[simp] theorem State.setDie_linkT (s : State) (c : Nat) (x : Die) : (s.setDie c x).linkT = s.linkT := rfl
@[simp] theorem State.setDie_linkClk (s : State) (c : Nat) (x : Die) : (s.setDie c x).linkClk = s.linkClk := rfl
@[simp] theorem State.setDie_outbox (s : State) (c : Nat) (x : Die) : (s.setDie c x).outbox = s.outbox := rfl
@[simp] theorem State.setDie_cores (s : State) (c : Nat) (x : Die) : (s.setDie c x).cores = s.cores := rfl
@[simp] theorem State.setDie_dies (s : State) (c : Nat) (x : Die) : (s.setDie c x).dies = s.dies.set c x := rfl

/-! ## Larger updates are updates of a core -/

theorem State.modCore_eq (s : State) (c : Nat) (f : Core → Core) : s.modCore c f = s.setCore c (f (s.core c)) := rfl
theorem State.setGroup_eq (s : State) (c h : Nat) (g : GroupSlot) :
    s.setGroup c h g = s.setCore c { s.core c with groups := (s.core c).groups.set h g } := rfl
theorem State.modGroup_eq (s : State) (c h : Nat) (f : GroupSlot → GroupSlot) :
    s.modGroup c h f = s.setGroup c h (f (s.group c h)) := rfl
theorem State.setTeam_eq (s : State) (c t : Nat) (x : Team) :
    s.setTeam c t x = s.setCore c { s.core c with teams := (s.core c).teams.set t x } := rfl
theorem State.modTeam_eq (s : State) (c t : Nat) (f : Team → Team) : s.modTeam c t f = s.setTeam c t (f (s.team c t)) := rfl
theorem State.setFrag_eq (s : State) (r : FragRef) (f : Frag) :
    s.setFrag r f =
      s.setGroup r.core r.hslot { s.group r.core r.hslot with frags := (s.group r.core r.hslot).frags.set r.entry f } := rfl
theorem State.modFrag_eq (s : State) (r : FragRef) (f : Frag → Frag) : s.modFrag r f = s.setFrag r (f (s.frag r)) := rfl

@[simp] theorem State.setGroup_agenda (s : State) (c h : Nat) (g : GroupSlot) : (s.setGroup c h g).agenda = s.agenda := rfl
@[simp] theorem State.setGroup_cur (s : State) (c h : Nat) (g : GroupSlot) : (s.setGroup c h g).cur = s.cur := rfl
@[simp] theorem State.setGroup_starts (s : State) (c h : Nat) (g : GroupSlot) : (s.setGroup c h g).starts = s.starts := rfl
@[simp] theorem State.setGroup_follow (s : State) (c h : Nat) (g : GroupSlot) : (s.setGroup c h g).follow = s.follow := rfl
@[simp] theorem State.setGroup_freeCtr (s : State) (c h : Nat) (g : GroupSlot) : (s.setGroup c h g).freeCtr = s.freeCtr := rfl
@[simp] theorem State.setGroup_nextId (s : State) (c h : Nat) (g : GroupSlot) : (s.setGroup c h g).nextId = s.nextId := rfl
@[simp] theorem State.setGroup_gt (s : State) (c h : Nat) (g : GroupSlot) : (s.setGroup c h g).gt = s.gt := rfl
@[simp] theorem State.setGroup_powered (s : State) (c h : Nat) (g : GroupSlot) : (s.setGroup c h g).powered = s.powered := rfl
@[simp] theorem State.setGroup_mem (s : State) (c h : Nat) (g : GroupSlot) : (s.setGroup c h g).mem = s.mem := rfl
@[simp] theorem State.setGroup_tags (s : State) (c h : Nat) (g : GroupSlot) : (s.setGroup c h g).tags = s.tags := rfl
@[simp] theorem State.setGroup_poison (s : State) (c h : Nat) (g : GroupSlot) : (s.setGroup c h g).poison = s.poison := rfl
@[simp] theorem State.setGroup_homes (s : State) (c h : Nat) (g : GroupSlot) : (s.setGroup c h g).homes = s.homes := rfl
@[simp] theorem State.setGroup_mscDirty (s : State) (c h : Nat) (g : GroupSlot) : (s.setGroup c h g).mscDirty = s.mscDirty := rfl
@[simp] theorem State.setGroup_fetches (s : State) (c h : Nat) (g : GroupSlot) : (s.setGroup c h g).fetches = s.fetches := rfl
@[simp] theorem State.setGroup_posted (s : State) (c h : Nat) (g : GroupSlot) : (s.setGroup c h g).posted = s.posted := rfl
@[simp] theorem State.setGroup_atlbReqs (s : State) (c h : Nat) (g : GroupSlot) : (s.setGroup c h g).atlbReqs = s.atlbReqs := rfl
@[simp] theorem State.setGroup_fills (s : State) (c h : Nat) (g : GroupSlot) : (s.setGroup c h g).fills = s.fills := rfl
@[simp] theorem State.setGroup_gang (s : State) (c h : Nat) (g : GroupSlot) : (s.setGroup c h g).gang = s.gang := rfl
@[simp] theorem State.setGroup_roots (s : State) (c h : Nat) (g : GroupSlot) : (s.setGroup c h g).roots = s.roots := rfl
@[simp] theorem State.setGroup_fused (s : State) (c h : Nat) (g : GroupSlot) : (s.setGroup c h g).fused = s.fused := rfl
@[simp] theorem State.setGroup_quotas (s : State) (c h : Nat) (g : GroupSlot) : (s.setGroup c h g).quotas = s.quotas := rfl
@[simp] theorem State.setGroup_qsub (s : State) (c h : Nat) (g : GroupSlot) : (s.setGroup c h g).qsub = s.qsub := rfl
@[simp] theorem State.setGroup_clen (s : State) (c h : Nat) (g : GroupSlot) : (s.setGroup c h g).clen = s.clen := rfl
@[simp] theorem State.setGroup_held (s : State) (c h : Nat) (g : GroupSlot) : (s.setGroup c h g).held = s.held := rfl
@[simp] theorem State.setGroup_notices (s : State) (c h : Nat) (g : GroupSlot) : (s.setGroup c h g).notices = s.notices := rfl
@[simp] theorem State.setGroup_copies (s : State) (c h : Nat) (g : GroupSlot) : (s.setGroup c h g).copies = s.copies := rfl
@[simp] theorem State.setGroup_dues (s : State) (c h : Nat) (g : GroupSlot) : (s.setGroup c h g).dues = s.dues := rfl
@[simp] theorem State.setGroup_engineClk (s : State) (c h : Nat) (g : GroupSlot) : (s.setGroup c h g).engineClk = s.engineClk := rfl
@[simp] theorem State.setGroup_mxslot (s : State) (c h : Nat) (g : GroupSlot) : (s.setGroup c h g).mxslot = s.mxslot := rfl
@[simp] theorem State.setGroup_launches (s : State) (c h : Nat) (g : GroupSlot) : (s.setGroup c h g).launches = s.launches := rfl
@[simp] theorem State.setGroup_runs (s : State) (c h : Nat) (g : GroupSlot) : (s.setGroup c h g).runs = s.runs := rfl
@[simp] theorem State.setGroup_saved (s : State) (c h : Nat) (g : GroupSlot) : (s.setGroup c h g).saved = s.saved := rfl
@[simp] theorem State.setGroup_parts (s : State) (c h : Nat) (g : GroupSlot) : (s.setGroup c h g).parts = s.parts := rfl
@[simp] theorem State.setGroup_gov (s : State) (c h : Nat) (g : GroupSlot) : (s.setGroup c h g).gov = s.gov := rfl
@[simp] theorem State.setGroup_plat (s : State) (c h : Nat) (g : GroupSlot) : (s.setGroup c h g).plat = s.plat := rfl
@[simp] theorem State.setGroup_fuses (s : State) (c h : Nat) (g : GroupSlot) : (s.setGroup c h g).fuses = s.fuses := rfl
@[simp] theorem State.setGroup_ports (s : State) (c h : Nat) (g : GroupSlot) : (s.setGroup c h g).ports = s.ports := rfl
@[simp] theorem State.setGroup_conns (s : State) (c h : Nat) (g : GroupSlot) : (s.setGroup c h g).conns = s.conns := rfl
@[simp] theorem State.setGroup_inbox (s : State) (c h : Nat) (g : GroupSlot) : (s.setGroup c h g).inbox = s.inbox := rfl
@[simp] theorem State.setGroup_downs (s : State) (c h : Nat) (g : GroupSlot) : (s.setGroup c h g).downs = s.downs := rfl
@[simp] theorem State.setGroup_linkT (s : State) (c h : Nat) (g : GroupSlot) : (s.setGroup c h g).linkT = s.linkT := rfl
@[simp] theorem State.setGroup_linkClk (s : State) (c h : Nat) (g : GroupSlot) : (s.setGroup c h g).linkClk = s.linkClk := rfl
@[simp] theorem State.setGroup_outbox (s : State) (c h : Nat) (g : GroupSlot) : (s.setGroup c h g).outbox = s.outbox := rfl
@[simp] theorem State.setGroup_dies (s : State) (c h : Nat) (g : GroupSlot) : (s.setGroup c h g).dies = s.dies := rfl

@[simp] theorem State.setTeam_agenda (s : State) (c t : Nat) (x : Team) : (s.setTeam c t x).agenda = s.agenda := rfl
@[simp] theorem State.setTeam_cur (s : State) (c t : Nat) (x : Team) : (s.setTeam c t x).cur = s.cur := rfl
@[simp] theorem State.setTeam_starts (s : State) (c t : Nat) (x : Team) : (s.setTeam c t x).starts = s.starts := rfl
@[simp] theorem State.setTeam_follow (s : State) (c t : Nat) (x : Team) : (s.setTeam c t x).follow = s.follow := rfl
@[simp] theorem State.setTeam_freeCtr (s : State) (c t : Nat) (x : Team) : (s.setTeam c t x).freeCtr = s.freeCtr := rfl
@[simp] theorem State.setTeam_nextId (s : State) (c t : Nat) (x : Team) : (s.setTeam c t x).nextId = s.nextId := rfl
@[simp] theorem State.setTeam_gt (s : State) (c t : Nat) (x : Team) : (s.setTeam c t x).gt = s.gt := rfl
@[simp] theorem State.setTeam_powered (s : State) (c t : Nat) (x : Team) : (s.setTeam c t x).powered = s.powered := rfl
@[simp] theorem State.setTeam_mem (s : State) (c t : Nat) (x : Team) : (s.setTeam c t x).mem = s.mem := rfl
@[simp] theorem State.setTeam_tags (s : State) (c t : Nat) (x : Team) : (s.setTeam c t x).tags = s.tags := rfl
@[simp] theorem State.setTeam_poison (s : State) (c t : Nat) (x : Team) : (s.setTeam c t x).poison = s.poison := rfl
@[simp] theorem State.setTeam_homes (s : State) (c t : Nat) (x : Team) : (s.setTeam c t x).homes = s.homes := rfl
@[simp] theorem State.setTeam_mscDirty (s : State) (c t : Nat) (x : Team) : (s.setTeam c t x).mscDirty = s.mscDirty := rfl
@[simp] theorem State.setTeam_fetches (s : State) (c t : Nat) (x : Team) : (s.setTeam c t x).fetches = s.fetches := rfl
@[simp] theorem State.setTeam_posted (s : State) (c t : Nat) (x : Team) : (s.setTeam c t x).posted = s.posted := rfl
@[simp] theorem State.setTeam_atlbReqs (s : State) (c t : Nat) (x : Team) : (s.setTeam c t x).atlbReqs = s.atlbReqs := rfl
@[simp] theorem State.setTeam_fills (s : State) (c t : Nat) (x : Team) : (s.setTeam c t x).fills = s.fills := rfl
@[simp] theorem State.setTeam_gang (s : State) (c t : Nat) (x : Team) : (s.setTeam c t x).gang = s.gang := rfl
@[simp] theorem State.setTeam_roots (s : State) (c t : Nat) (x : Team) : (s.setTeam c t x).roots = s.roots := rfl
@[simp] theorem State.setTeam_fused (s : State) (c t : Nat) (x : Team) : (s.setTeam c t x).fused = s.fused := rfl
@[simp] theorem State.setTeam_quotas (s : State) (c t : Nat) (x : Team) : (s.setTeam c t x).quotas = s.quotas := rfl
@[simp] theorem State.setTeam_qsub (s : State) (c t : Nat) (x : Team) : (s.setTeam c t x).qsub = s.qsub := rfl
@[simp] theorem State.setTeam_clen (s : State) (c t : Nat) (x : Team) : (s.setTeam c t x).clen = s.clen := rfl
@[simp] theorem State.setTeam_held (s : State) (c t : Nat) (x : Team) : (s.setTeam c t x).held = s.held := rfl
@[simp] theorem State.setTeam_notices (s : State) (c t : Nat) (x : Team) : (s.setTeam c t x).notices = s.notices := rfl
@[simp] theorem State.setTeam_copies (s : State) (c t : Nat) (x : Team) : (s.setTeam c t x).copies = s.copies := rfl
@[simp] theorem State.setTeam_dues (s : State) (c t : Nat) (x : Team) : (s.setTeam c t x).dues = s.dues := rfl
@[simp] theorem State.setTeam_engineClk (s : State) (c t : Nat) (x : Team) : (s.setTeam c t x).engineClk = s.engineClk := rfl
@[simp] theorem State.setTeam_mxslot (s : State) (c t : Nat) (x : Team) : (s.setTeam c t x).mxslot = s.mxslot := rfl
@[simp] theorem State.setTeam_launches (s : State) (c t : Nat) (x : Team) : (s.setTeam c t x).launches = s.launches := rfl
@[simp] theorem State.setTeam_runs (s : State) (c t : Nat) (x : Team) : (s.setTeam c t x).runs = s.runs := rfl
@[simp] theorem State.setTeam_saved (s : State) (c t : Nat) (x : Team) : (s.setTeam c t x).saved = s.saved := rfl
@[simp] theorem State.setTeam_parts (s : State) (c t : Nat) (x : Team) : (s.setTeam c t x).parts = s.parts := rfl
@[simp] theorem State.setTeam_gov (s : State) (c t : Nat) (x : Team) : (s.setTeam c t x).gov = s.gov := rfl
@[simp] theorem State.setTeam_plat (s : State) (c t : Nat) (x : Team) : (s.setTeam c t x).plat = s.plat := rfl
@[simp] theorem State.setTeam_fuses (s : State) (c t : Nat) (x : Team) : (s.setTeam c t x).fuses = s.fuses := rfl
@[simp] theorem State.setTeam_ports (s : State) (c t : Nat) (x : Team) : (s.setTeam c t x).ports = s.ports := rfl
@[simp] theorem State.setTeam_conns (s : State) (c t : Nat) (x : Team) : (s.setTeam c t x).conns = s.conns := rfl
@[simp] theorem State.setTeam_inbox (s : State) (c t : Nat) (x : Team) : (s.setTeam c t x).inbox = s.inbox := rfl
@[simp] theorem State.setTeam_downs (s : State) (c t : Nat) (x : Team) : (s.setTeam c t x).downs = s.downs := rfl
@[simp] theorem State.setTeam_linkT (s : State) (c t : Nat) (x : Team) : (s.setTeam c t x).linkT = s.linkT := rfl
@[simp] theorem State.setTeam_linkClk (s : State) (c t : Nat) (x : Team) : (s.setTeam c t x).linkClk = s.linkClk := rfl
@[simp] theorem State.setTeam_outbox (s : State) (c t : Nat) (x : Team) : (s.setTeam c t x).outbox = s.outbox := rfl
@[simp] theorem State.setTeam_dies (s : State) (c t : Nat) (x : Team) : (s.setTeam c t x).dies = s.dies := rfl

@[simp] theorem State.setFrag_agenda (s : State) (r : FragRef) (f : Frag) : (s.setFrag r f).agenda = s.agenda := rfl
@[simp] theorem State.setFrag_cur (s : State) (r : FragRef) (f : Frag) : (s.setFrag r f).cur = s.cur := rfl
@[simp] theorem State.setFrag_starts (s : State) (r : FragRef) (f : Frag) : (s.setFrag r f).starts = s.starts := rfl
@[simp] theorem State.setFrag_follow (s : State) (r : FragRef) (f : Frag) : (s.setFrag r f).follow = s.follow := rfl
@[simp] theorem State.setFrag_freeCtr (s : State) (r : FragRef) (f : Frag) : (s.setFrag r f).freeCtr = s.freeCtr := rfl
@[simp] theorem State.setFrag_nextId (s : State) (r : FragRef) (f : Frag) : (s.setFrag r f).nextId = s.nextId := rfl
@[simp] theorem State.setFrag_gt (s : State) (r : FragRef) (f : Frag) : (s.setFrag r f).gt = s.gt := rfl
@[simp] theorem State.setFrag_powered (s : State) (r : FragRef) (f : Frag) : (s.setFrag r f).powered = s.powered := rfl
@[simp] theorem State.setFrag_mem (s : State) (r : FragRef) (f : Frag) : (s.setFrag r f).mem = s.mem := rfl
@[simp] theorem State.setFrag_tags (s : State) (r : FragRef) (f : Frag) : (s.setFrag r f).tags = s.tags := rfl
@[simp] theorem State.setFrag_poison (s : State) (r : FragRef) (f : Frag) : (s.setFrag r f).poison = s.poison := rfl
@[simp] theorem State.setFrag_homes (s : State) (r : FragRef) (f : Frag) : (s.setFrag r f).homes = s.homes := rfl
@[simp] theorem State.setFrag_mscDirty (s : State) (r : FragRef) (f : Frag) : (s.setFrag r f).mscDirty = s.mscDirty := rfl
@[simp] theorem State.setFrag_fetches (s : State) (r : FragRef) (f : Frag) : (s.setFrag r f).fetches = s.fetches := rfl
@[simp] theorem State.setFrag_posted (s : State) (r : FragRef) (f : Frag) : (s.setFrag r f).posted = s.posted := rfl
@[simp] theorem State.setFrag_atlbReqs (s : State) (r : FragRef) (f : Frag) : (s.setFrag r f).atlbReqs = s.atlbReqs := rfl
@[simp] theorem State.setFrag_fills (s : State) (r : FragRef) (f : Frag) : (s.setFrag r f).fills = s.fills := rfl
@[simp] theorem State.setFrag_gang (s : State) (r : FragRef) (f : Frag) : (s.setFrag r f).gang = s.gang := rfl
@[simp] theorem State.setFrag_roots (s : State) (r : FragRef) (f : Frag) : (s.setFrag r f).roots = s.roots := rfl
@[simp] theorem State.setFrag_fused (s : State) (r : FragRef) (f : Frag) : (s.setFrag r f).fused = s.fused := rfl
@[simp] theorem State.setFrag_quotas (s : State) (r : FragRef) (f : Frag) : (s.setFrag r f).quotas = s.quotas := rfl
@[simp] theorem State.setFrag_qsub (s : State) (r : FragRef) (f : Frag) : (s.setFrag r f).qsub = s.qsub := rfl
@[simp] theorem State.setFrag_clen (s : State) (r : FragRef) (f : Frag) : (s.setFrag r f).clen = s.clen := rfl
@[simp] theorem State.setFrag_held (s : State) (r : FragRef) (f : Frag) : (s.setFrag r f).held = s.held := rfl
@[simp] theorem State.setFrag_notices (s : State) (r : FragRef) (f : Frag) : (s.setFrag r f).notices = s.notices := rfl
@[simp] theorem State.setFrag_copies (s : State) (r : FragRef) (f : Frag) : (s.setFrag r f).copies = s.copies := rfl
@[simp] theorem State.setFrag_dues (s : State) (r : FragRef) (f : Frag) : (s.setFrag r f).dues = s.dues := rfl
@[simp] theorem State.setFrag_engineClk (s : State) (r : FragRef) (f : Frag) : (s.setFrag r f).engineClk = s.engineClk := rfl
@[simp] theorem State.setFrag_mxslot (s : State) (r : FragRef) (f : Frag) : (s.setFrag r f).mxslot = s.mxslot := rfl
@[simp] theorem State.setFrag_launches (s : State) (r : FragRef) (f : Frag) : (s.setFrag r f).launches = s.launches := rfl
@[simp] theorem State.setFrag_runs (s : State) (r : FragRef) (f : Frag) : (s.setFrag r f).runs = s.runs := rfl
@[simp] theorem State.setFrag_saved (s : State) (r : FragRef) (f : Frag) : (s.setFrag r f).saved = s.saved := rfl
@[simp] theorem State.setFrag_parts (s : State) (r : FragRef) (f : Frag) : (s.setFrag r f).parts = s.parts := rfl
@[simp] theorem State.setFrag_gov (s : State) (r : FragRef) (f : Frag) : (s.setFrag r f).gov = s.gov := rfl
@[simp] theorem State.setFrag_plat (s : State) (r : FragRef) (f : Frag) : (s.setFrag r f).plat = s.plat := rfl
@[simp] theorem State.setFrag_fuses (s : State) (r : FragRef) (f : Frag) : (s.setFrag r f).fuses = s.fuses := rfl
@[simp] theorem State.setFrag_ports (s : State) (r : FragRef) (f : Frag) : (s.setFrag r f).ports = s.ports := rfl
@[simp] theorem State.setFrag_conns (s : State) (r : FragRef) (f : Frag) : (s.setFrag r f).conns = s.conns := rfl
@[simp] theorem State.setFrag_inbox (s : State) (r : FragRef) (f : Frag) : (s.setFrag r f).inbox = s.inbox := rfl
@[simp] theorem State.setFrag_downs (s : State) (r : FragRef) (f : Frag) : (s.setFrag r f).downs = s.downs := rfl
@[simp] theorem State.setFrag_linkT (s : State) (r : FragRef) (f : Frag) : (s.setFrag r f).linkT = s.linkT := rfl
@[simp] theorem State.setFrag_linkClk (s : State) (r : FragRef) (f : Frag) : (s.setFrag r f).linkClk = s.linkClk := rfl
@[simp] theorem State.setFrag_outbox (s : State) (r : FragRef) (f : Frag) : (s.setFrag r f).outbox = s.outbox := rfl
@[simp] theorem State.setFrag_dies (s : State) (r : FragRef) (f : Frag) : (s.setFrag r f).dies = s.dies := rfl

@[simp] theorem State.setVreg_agenda (s : State) (c t i p : Nat) (v : VReg) : (s.setVreg c t i p v).agenda = s.agenda := rfl
@[simp] theorem State.setVreg_cur (s : State) (c t i p : Nat) (v : VReg) : (s.setVreg c t i p v).cur = s.cur := rfl
@[simp] theorem State.setVreg_starts (s : State) (c t i p : Nat) (v : VReg) : (s.setVreg c t i p v).starts = s.starts := rfl
@[simp] theorem State.setVreg_follow (s : State) (c t i p : Nat) (v : VReg) : (s.setVreg c t i p v).follow = s.follow := rfl
@[simp] theorem State.setVreg_freeCtr (s : State) (c t i p : Nat) (v : VReg) : (s.setVreg c t i p v).freeCtr = s.freeCtr := rfl
@[simp] theorem State.setVreg_nextId (s : State) (c t i p : Nat) (v : VReg) : (s.setVreg c t i p v).nextId = s.nextId := rfl
@[simp] theorem State.setVreg_gt (s : State) (c t i p : Nat) (v : VReg) : (s.setVreg c t i p v).gt = s.gt := rfl
@[simp] theorem State.setVreg_powered (s : State) (c t i p : Nat) (v : VReg) : (s.setVreg c t i p v).powered = s.powered := rfl
@[simp] theorem State.setVreg_mem (s : State) (c t i p : Nat) (v : VReg) : (s.setVreg c t i p v).mem = s.mem := rfl
@[simp] theorem State.setVreg_tags (s : State) (c t i p : Nat) (v : VReg) : (s.setVreg c t i p v).tags = s.tags := rfl
@[simp] theorem State.setVreg_poison (s : State) (c t i p : Nat) (v : VReg) : (s.setVreg c t i p v).poison = s.poison := rfl
@[simp] theorem State.setVreg_homes (s : State) (c t i p : Nat) (v : VReg) : (s.setVreg c t i p v).homes = s.homes := rfl
@[simp] theorem State.setVreg_mscDirty (s : State) (c t i p : Nat) (v : VReg) : (s.setVreg c t i p v).mscDirty = s.mscDirty := rfl
@[simp] theorem State.setVreg_fetches (s : State) (c t i p : Nat) (v : VReg) : (s.setVreg c t i p v).fetches = s.fetches := rfl
@[simp] theorem State.setVreg_posted (s : State) (c t i p : Nat) (v : VReg) : (s.setVreg c t i p v).posted = s.posted := rfl
@[simp] theorem State.setVreg_atlbReqs (s : State) (c t i p : Nat) (v : VReg) : (s.setVreg c t i p v).atlbReqs = s.atlbReqs := rfl
@[simp] theorem State.setVreg_fills (s : State) (c t i p : Nat) (v : VReg) : (s.setVreg c t i p v).fills = s.fills := rfl
@[simp] theorem State.setVreg_gang (s : State) (c t i p : Nat) (v : VReg) : (s.setVreg c t i p v).gang = s.gang := rfl
@[simp] theorem State.setVreg_roots (s : State) (c t i p : Nat) (v : VReg) : (s.setVreg c t i p v).roots = s.roots := rfl
@[simp] theorem State.setVreg_fused (s : State) (c t i p : Nat) (v : VReg) : (s.setVreg c t i p v).fused = s.fused := rfl
@[simp] theorem State.setVreg_quotas (s : State) (c t i p : Nat) (v : VReg) : (s.setVreg c t i p v).quotas = s.quotas := rfl
@[simp] theorem State.setVreg_qsub (s : State) (c t i p : Nat) (v : VReg) : (s.setVreg c t i p v).qsub = s.qsub := rfl
@[simp] theorem State.setVreg_clen (s : State) (c t i p : Nat) (v : VReg) : (s.setVreg c t i p v).clen = s.clen := rfl
@[simp] theorem State.setVreg_held (s : State) (c t i p : Nat) (v : VReg) : (s.setVreg c t i p v).held = s.held := rfl
@[simp] theorem State.setVreg_notices (s : State) (c t i p : Nat) (v : VReg) : (s.setVreg c t i p v).notices = s.notices := rfl
@[simp] theorem State.setVreg_copies (s : State) (c t i p : Nat) (v : VReg) : (s.setVreg c t i p v).copies = s.copies := rfl
@[simp] theorem State.setVreg_dues (s : State) (c t i p : Nat) (v : VReg) : (s.setVreg c t i p v).dues = s.dues := rfl
@[simp] theorem State.setVreg_engineClk (s : State) (c t i p : Nat) (v : VReg) : (s.setVreg c t i p v).engineClk = s.engineClk := rfl
@[simp] theorem State.setVreg_mxslot (s : State) (c t i p : Nat) (v : VReg) : (s.setVreg c t i p v).mxslot = s.mxslot := rfl
@[simp] theorem State.setVreg_launches (s : State) (c t i p : Nat) (v : VReg) : (s.setVreg c t i p v).launches = s.launches := rfl
@[simp] theorem State.setVreg_runs (s : State) (c t i p : Nat) (v : VReg) : (s.setVreg c t i p v).runs = s.runs := rfl
@[simp] theorem State.setVreg_saved (s : State) (c t i p : Nat) (v : VReg) : (s.setVreg c t i p v).saved = s.saved := rfl
@[simp] theorem State.setVreg_parts (s : State) (c t i p : Nat) (v : VReg) : (s.setVreg c t i p v).parts = s.parts := rfl
@[simp] theorem State.setVreg_gov (s : State) (c t i p : Nat) (v : VReg) : (s.setVreg c t i p v).gov = s.gov := rfl
@[simp] theorem State.setVreg_plat (s : State) (c t i p : Nat) (v : VReg) : (s.setVreg c t i p v).plat = s.plat := rfl
@[simp] theorem State.setVreg_fuses (s : State) (c t i p : Nat) (v : VReg) : (s.setVreg c t i p v).fuses = s.fuses := rfl
@[simp] theorem State.setVreg_ports (s : State) (c t i p : Nat) (v : VReg) : (s.setVreg c t i p v).ports = s.ports := rfl
@[simp] theorem State.setVreg_conns (s : State) (c t i p : Nat) (v : VReg) : (s.setVreg c t i p v).conns = s.conns := rfl
@[simp] theorem State.setVreg_inbox (s : State) (c t i p : Nat) (v : VReg) : (s.setVreg c t i p v).inbox = s.inbox := rfl
@[simp] theorem State.setVreg_downs (s : State) (c t i p : Nat) (v : VReg) : (s.setVreg c t i p v).downs = s.downs := rfl
@[simp] theorem State.setVreg_linkT (s : State) (c t i p : Nat) (v : VReg) : (s.setVreg c t i p v).linkT = s.linkT := rfl
@[simp] theorem State.setVreg_linkClk (s : State) (c t i p : Nat) (v : VReg) : (s.setVreg c t i p v).linkClk = s.linkClk := rfl
@[simp] theorem State.setVreg_outbox (s : State) (c t i p : Nat) (v : VReg) : (s.setVreg c t i p v).outbox = s.outbox := rfl
@[simp] theorem State.setVreg_dies (s : State) (c t i p : Nat) (v : VReg) : (s.setVreg c t i p v).dies = s.dies := rfl

@[simp] theorem State.setKreg_agenda (s : State) (c h n : Nat) (v : KReg) : (s.setKreg c h n v).agenda = s.agenda := rfl
@[simp] theorem State.setKreg_cur (s : State) (c h n : Nat) (v : KReg) : (s.setKreg c h n v).cur = s.cur := rfl
@[simp] theorem State.setKreg_starts (s : State) (c h n : Nat) (v : KReg) : (s.setKreg c h n v).starts = s.starts := rfl
@[simp] theorem State.setKreg_follow (s : State) (c h n : Nat) (v : KReg) : (s.setKreg c h n v).follow = s.follow := rfl
@[simp] theorem State.setKreg_freeCtr (s : State) (c h n : Nat) (v : KReg) : (s.setKreg c h n v).freeCtr = s.freeCtr := rfl
@[simp] theorem State.setKreg_nextId (s : State) (c h n : Nat) (v : KReg) : (s.setKreg c h n v).nextId = s.nextId := rfl
@[simp] theorem State.setKreg_gt (s : State) (c h n : Nat) (v : KReg) : (s.setKreg c h n v).gt = s.gt := rfl
@[simp] theorem State.setKreg_powered (s : State) (c h n : Nat) (v : KReg) : (s.setKreg c h n v).powered = s.powered := rfl
@[simp] theorem State.setKreg_mem (s : State) (c h n : Nat) (v : KReg) : (s.setKreg c h n v).mem = s.mem := rfl
@[simp] theorem State.setKreg_tags (s : State) (c h n : Nat) (v : KReg) : (s.setKreg c h n v).tags = s.tags := rfl
@[simp] theorem State.setKreg_poison (s : State) (c h n : Nat) (v : KReg) : (s.setKreg c h n v).poison = s.poison := rfl
@[simp] theorem State.setKreg_homes (s : State) (c h n : Nat) (v : KReg) : (s.setKreg c h n v).homes = s.homes := rfl
@[simp] theorem State.setKreg_mscDirty (s : State) (c h n : Nat) (v : KReg) : (s.setKreg c h n v).mscDirty = s.mscDirty := rfl
@[simp] theorem State.setKreg_fetches (s : State) (c h n : Nat) (v : KReg) : (s.setKreg c h n v).fetches = s.fetches := rfl
@[simp] theorem State.setKreg_posted (s : State) (c h n : Nat) (v : KReg) : (s.setKreg c h n v).posted = s.posted := rfl
@[simp] theorem State.setKreg_atlbReqs (s : State) (c h n : Nat) (v : KReg) : (s.setKreg c h n v).atlbReqs = s.atlbReqs := rfl
@[simp] theorem State.setKreg_fills (s : State) (c h n : Nat) (v : KReg) : (s.setKreg c h n v).fills = s.fills := rfl
@[simp] theorem State.setKreg_gang (s : State) (c h n : Nat) (v : KReg) : (s.setKreg c h n v).gang = s.gang := rfl
@[simp] theorem State.setKreg_roots (s : State) (c h n : Nat) (v : KReg) : (s.setKreg c h n v).roots = s.roots := rfl
@[simp] theorem State.setKreg_fused (s : State) (c h n : Nat) (v : KReg) : (s.setKreg c h n v).fused = s.fused := rfl
@[simp] theorem State.setKreg_quotas (s : State) (c h n : Nat) (v : KReg) : (s.setKreg c h n v).quotas = s.quotas := rfl
@[simp] theorem State.setKreg_qsub (s : State) (c h n : Nat) (v : KReg) : (s.setKreg c h n v).qsub = s.qsub := rfl
@[simp] theorem State.setKreg_clen (s : State) (c h n : Nat) (v : KReg) : (s.setKreg c h n v).clen = s.clen := rfl
@[simp] theorem State.setKreg_held (s : State) (c h n : Nat) (v : KReg) : (s.setKreg c h n v).held = s.held := rfl
@[simp] theorem State.setKreg_notices (s : State) (c h n : Nat) (v : KReg) : (s.setKreg c h n v).notices = s.notices := rfl
@[simp] theorem State.setKreg_copies (s : State) (c h n : Nat) (v : KReg) : (s.setKreg c h n v).copies = s.copies := rfl
@[simp] theorem State.setKreg_dues (s : State) (c h n : Nat) (v : KReg) : (s.setKreg c h n v).dues = s.dues := rfl
@[simp] theorem State.setKreg_engineClk (s : State) (c h n : Nat) (v : KReg) : (s.setKreg c h n v).engineClk = s.engineClk := rfl
@[simp] theorem State.setKreg_mxslot (s : State) (c h n : Nat) (v : KReg) : (s.setKreg c h n v).mxslot = s.mxslot := rfl
@[simp] theorem State.setKreg_launches (s : State) (c h n : Nat) (v : KReg) : (s.setKreg c h n v).launches = s.launches := rfl
@[simp] theorem State.setKreg_runs (s : State) (c h n : Nat) (v : KReg) : (s.setKreg c h n v).runs = s.runs := rfl
@[simp] theorem State.setKreg_saved (s : State) (c h n : Nat) (v : KReg) : (s.setKreg c h n v).saved = s.saved := rfl
@[simp] theorem State.setKreg_parts (s : State) (c h n : Nat) (v : KReg) : (s.setKreg c h n v).parts = s.parts := rfl
@[simp] theorem State.setKreg_gov (s : State) (c h n : Nat) (v : KReg) : (s.setKreg c h n v).gov = s.gov := rfl
@[simp] theorem State.setKreg_plat (s : State) (c h n : Nat) (v : KReg) : (s.setKreg c h n v).plat = s.plat := rfl
@[simp] theorem State.setKreg_fuses (s : State) (c h n : Nat) (v : KReg) : (s.setKreg c h n v).fuses = s.fuses := rfl
@[simp] theorem State.setKreg_ports (s : State) (c h n : Nat) (v : KReg) : (s.setKreg c h n v).ports = s.ports := rfl
@[simp] theorem State.setKreg_conns (s : State) (c h n : Nat) (v : KReg) : (s.setKreg c h n v).conns = s.conns := rfl
@[simp] theorem State.setKreg_inbox (s : State) (c h n : Nat) (v : KReg) : (s.setKreg c h n v).inbox = s.inbox := rfl
@[simp] theorem State.setKreg_downs (s : State) (c h n : Nat) (v : KReg) : (s.setKreg c h n v).downs = s.downs := rfl
@[simp] theorem State.setKreg_linkT (s : State) (c h n : Nat) (v : KReg) : (s.setKreg c h n v).linkT = s.linkT := rfl
@[simp] theorem State.setKreg_linkClk (s : State) (c h n : Nat) (v : KReg) : (s.setKreg c h n v).linkClk = s.linkClk := rfl
@[simp] theorem State.setKreg_outbox (s : State) (c h n : Nat) (v : KReg) : (s.setKreg c h n v).outbox = s.outbox := rfl
@[simp] theorem State.setKreg_dies (s : State) (c h n : Nat) (v : KReg) : (s.setKreg c h n v).dies = s.dies := rfl

@[simp] theorem State.setStrandPred_agenda (s : State) (c t i n : Nat) (b : Bool) : (s.setStrandPred c t i n b).agenda = s.agenda := rfl
@[simp] theorem State.setStrandPred_cur (s : State) (c t i n : Nat) (b : Bool) : (s.setStrandPred c t i n b).cur = s.cur := rfl
@[simp] theorem State.setStrandPred_starts (s : State) (c t i n : Nat) (b : Bool) : (s.setStrandPred c t i n b).starts = s.starts := rfl
@[simp] theorem State.setStrandPred_follow (s : State) (c t i n : Nat) (b : Bool) : (s.setStrandPred c t i n b).follow = s.follow := rfl
@[simp] theorem State.setStrandPred_freeCtr (s : State) (c t i n : Nat) (b : Bool) : (s.setStrandPred c t i n b).freeCtr = s.freeCtr := rfl
@[simp] theorem State.setStrandPred_nextId (s : State) (c t i n : Nat) (b : Bool) : (s.setStrandPred c t i n b).nextId = s.nextId := rfl
@[simp] theorem State.setStrandPred_gt (s : State) (c t i n : Nat) (b : Bool) : (s.setStrandPred c t i n b).gt = s.gt := rfl
@[simp] theorem State.setStrandPred_powered (s : State) (c t i n : Nat) (b : Bool) : (s.setStrandPred c t i n b).powered = s.powered := rfl
@[simp] theorem State.setStrandPred_mem (s : State) (c t i n : Nat) (b : Bool) : (s.setStrandPred c t i n b).mem = s.mem := rfl
@[simp] theorem State.setStrandPred_tags (s : State) (c t i n : Nat) (b : Bool) : (s.setStrandPred c t i n b).tags = s.tags := rfl
@[simp] theorem State.setStrandPred_poison (s : State) (c t i n : Nat) (b : Bool) : (s.setStrandPred c t i n b).poison = s.poison := rfl
@[simp] theorem State.setStrandPred_homes (s : State) (c t i n : Nat) (b : Bool) : (s.setStrandPred c t i n b).homes = s.homes := rfl
@[simp] theorem State.setStrandPred_mscDirty (s : State) (c t i n : Nat) (b : Bool) : (s.setStrandPred c t i n b).mscDirty = s.mscDirty := rfl
@[simp] theorem State.setStrandPred_fetches (s : State) (c t i n : Nat) (b : Bool) : (s.setStrandPred c t i n b).fetches = s.fetches := rfl
@[simp] theorem State.setStrandPred_posted (s : State) (c t i n : Nat) (b : Bool) : (s.setStrandPred c t i n b).posted = s.posted := rfl
@[simp] theorem State.setStrandPred_atlbReqs (s : State) (c t i n : Nat) (b : Bool) : (s.setStrandPred c t i n b).atlbReqs = s.atlbReqs := rfl
@[simp] theorem State.setStrandPred_fills (s : State) (c t i n : Nat) (b : Bool) : (s.setStrandPred c t i n b).fills = s.fills := rfl
@[simp] theorem State.setStrandPred_gang (s : State) (c t i n : Nat) (b : Bool) : (s.setStrandPred c t i n b).gang = s.gang := rfl
@[simp] theorem State.setStrandPred_roots (s : State) (c t i n : Nat) (b : Bool) : (s.setStrandPred c t i n b).roots = s.roots := rfl
@[simp] theorem State.setStrandPred_fused (s : State) (c t i n : Nat) (b : Bool) : (s.setStrandPred c t i n b).fused = s.fused := rfl
@[simp] theorem State.setStrandPred_quotas (s : State) (c t i n : Nat) (b : Bool) : (s.setStrandPred c t i n b).quotas = s.quotas := rfl
@[simp] theorem State.setStrandPred_qsub (s : State) (c t i n : Nat) (b : Bool) : (s.setStrandPred c t i n b).qsub = s.qsub := rfl
@[simp] theorem State.setStrandPred_clen (s : State) (c t i n : Nat) (b : Bool) : (s.setStrandPred c t i n b).clen = s.clen := rfl
@[simp] theorem State.setStrandPred_held (s : State) (c t i n : Nat) (b : Bool) : (s.setStrandPred c t i n b).held = s.held := rfl
@[simp] theorem State.setStrandPred_notices (s : State) (c t i n : Nat) (b : Bool) : (s.setStrandPred c t i n b).notices = s.notices := rfl
@[simp] theorem State.setStrandPred_copies (s : State) (c t i n : Nat) (b : Bool) : (s.setStrandPred c t i n b).copies = s.copies := rfl
@[simp] theorem State.setStrandPred_dues (s : State) (c t i n : Nat) (b : Bool) : (s.setStrandPred c t i n b).dues = s.dues := rfl
@[simp] theorem State.setStrandPred_engineClk (s : State) (c t i n : Nat) (b : Bool) : (s.setStrandPred c t i n b).engineClk = s.engineClk := rfl
@[simp] theorem State.setStrandPred_mxslot (s : State) (c t i n : Nat) (b : Bool) : (s.setStrandPred c t i n b).mxslot = s.mxslot := rfl
@[simp] theorem State.setStrandPred_launches (s : State) (c t i n : Nat) (b : Bool) : (s.setStrandPred c t i n b).launches = s.launches := rfl
@[simp] theorem State.setStrandPred_runs (s : State) (c t i n : Nat) (b : Bool) : (s.setStrandPred c t i n b).runs = s.runs := rfl
@[simp] theorem State.setStrandPred_saved (s : State) (c t i n : Nat) (b : Bool) : (s.setStrandPred c t i n b).saved = s.saved := rfl
@[simp] theorem State.setStrandPred_parts (s : State) (c t i n : Nat) (b : Bool) : (s.setStrandPred c t i n b).parts = s.parts := rfl
@[simp] theorem State.setStrandPred_gov (s : State) (c t i n : Nat) (b : Bool) : (s.setStrandPred c t i n b).gov = s.gov := rfl
@[simp] theorem State.setStrandPred_plat (s : State) (c t i n : Nat) (b : Bool) : (s.setStrandPred c t i n b).plat = s.plat := rfl
@[simp] theorem State.setStrandPred_fuses (s : State) (c t i n : Nat) (b : Bool) : (s.setStrandPred c t i n b).fuses = s.fuses := rfl
@[simp] theorem State.setStrandPred_ports (s : State) (c t i n : Nat) (b : Bool) : (s.setStrandPred c t i n b).ports = s.ports := rfl
@[simp] theorem State.setStrandPred_conns (s : State) (c t i n : Nat) (b : Bool) : (s.setStrandPred c t i n b).conns = s.conns := rfl
@[simp] theorem State.setStrandPred_inbox (s : State) (c t i n : Nat) (b : Bool) : (s.setStrandPred c t i n b).inbox = s.inbox := rfl
@[simp] theorem State.setStrandPred_downs (s : State) (c t i n : Nat) (b : Bool) : (s.setStrandPred c t i n b).downs = s.downs := rfl
@[simp] theorem State.setStrandPred_linkT (s : State) (c t i n : Nat) (b : Bool) : (s.setStrandPred c t i n b).linkT = s.linkT := rfl
@[simp] theorem State.setStrandPred_linkClk (s : State) (c t i n : Nat) (b : Bool) : (s.setStrandPred c t i n b).linkClk = s.linkClk := rfl
@[simp] theorem State.setStrandPred_outbox (s : State) (c t i n : Nat) (b : Bool) : (s.setStrandPred c t i n b).outbox = s.outbox := rfl
@[simp] theorem State.setStrandPred_dies (s : State) (c t i n : Nat) (b : Bool) : (s.setStrandPred c t i n b).dies = s.dies := rfl

/-! ## Reading after writing -/

theorem State.core_setCore (s : State) (c d : Nat) (x : Core) : (s.setCore c x).core d = if c = d then x else s.core d :=
  SMap.get_set ..
@[simp] theorem State.core_setCore_self (s : State) (c : Nat) (x : Core) : (s.setCore c x).core c = x := SMap.get_set_self ..
@[simp] theorem State.setCore_setCore (s : State) (c : Nat) (x y : Core) : (s.setCore c x).setCore c y = s.setCore c y := by
  simp [State.setCore]
theorem State.die_setDie (s : State) (c d : Nat) (x : Die) : (s.setDie c x).die d = if c = d then x else s.die d :=
  SMap.get_set ..
@[simp] theorem State.die_setDie_self (s : State) (c : Nat) (x : Die) : (s.setDie c x).die c = x := SMap.get_set_self ..

theorem State.core_setGroup (s : State) (c h d : Nat) (g : GroupSlot) :
    (s.setGroup c h g).core d = if c = d then { s.core c with groups := (s.core c).groups.set h g } else s.core d :=
  State.core_setCore ..
theorem State.core_setTeam (s : State) (c t d : Nat) (x : Team) :
    (s.setTeam c t x).core d = if c = d then { s.core c with teams := (s.core c).teams.set t x } else s.core d :=
  State.core_setCore ..

theorem State.group_setGroup (s : State) (c h d k : Nat) (g : GroupSlot) :
    (s.setGroup c h g).group d k = if c = d ∧ h = k then g else s.group d k := by
  simp only [State.group, State.core_setGroup]
  split
  · next e => subst e; simp [SMap.get_set]
  · next e => simp [e]
@[simp] theorem State.group_setGroup_self (s : State) (c h : Nat) (g : GroupSlot) : (s.setGroup c h g).group c h = g := by
  simp [State.group_setGroup]

theorem State.team_setTeam (s : State) (c t d u : Nat) (x : Team) :
    (s.setTeam c t x).team d u = if c = d ∧ t = u then x else s.team d u := by
  simp only [State.team, State.core_setTeam]
  split
  · next e => subst e; simp [SMap.get_set]
  · next e => simp [e]
@[simp] theorem State.team_setTeam_self (s : State) (c t : Nat) (x : Team) : (s.setTeam c t x).team c t = x := by
  simp [State.team_setTeam]

@[simp] theorem State.team_setGroup (s : State) (c h d u : Nat) (g : GroupSlot) : (s.setGroup c h g).team d u = s.team d u := by
  simp only [State.team, State.core_setGroup]
  split
  · next e => subst e; rfl
  · rfl
@[simp] theorem State.group_setTeam (s : State) (c t d k : Nat) (x : Team) : (s.setTeam c t x).group d k = s.group d k := by
  simp only [State.group, State.core_setTeam]
  split
  · next e => subst e; rfl
  · rfl
@[simp] theorem State.team_setFrag (s : State) (r : FragRef) (f : Frag) (d u : Nat) : (s.setFrag r f).team d u = s.team d u :=
  State.team_setGroup ..

@[simp] theorem State.frag_setFrag_self (s : State) (r : FragRef) (f : Frag) : (s.setFrag r f).frag r = f := by
  simp [State.frag, State.setFrag_eq]

/-- A vector register after one was written. -/
theorem State.vreg_setVreg (s : State) (c t i p d u j q : Nat) (v : VReg) :
    (s.setVreg c t i p v).vreg d u j q = if c = d ∧ t = u ∧ i = j ∧ p = q then v else s.vreg d u j q := by
  simp only [State.vreg, State.strand, State.setVreg, State.modTeam_eq, State.team_setTeam]
  by_cases h : c = d ∧ t = u
  · obtain ⟨rfl, rfl⟩ := h
    by_cases hi : i = j
    · subst hi
      simp [SMap.get_set]
    · simp [SMap.get_update, hi]
  · have h' : ¬ (c = d ∧ t = u ∧ i = j ∧ p = q) := fun x => h ⟨x.1, x.2.1⟩
    simp [h, h']

/-- A uniform register after one was written. -/
theorem State.kreg_setKreg (s : State) (c h n d k m : Nat) (v : KReg) :
    (s.setKreg c h n v).kreg d k m = if c = d ∧ h = k ∧ n = m then v else s.kreg d k m := by
  simp only [State.kreg, State.setKreg, State.modGroup_eq, State.group_setGroup]
  by_cases e : c = d ∧ h = k
  · obtain ⟨rfl, rfl⟩ := e
    simp [SMap.get_set]
  · have e' : ¬ (c = d ∧ h = k ∧ n = m) := fun x => e ⟨x.1, x.2.1⟩
    simp [e, e']

@[simp] theorem State.kreg_setVreg (s : State) (c t i p d k m : Nat) (v : VReg) :
    (s.setVreg c t i p v).kreg d k m = s.kreg d k m := by
  simp [State.kreg, State.setVreg, State.modTeam_eq]
@[simp] theorem State.vreg_setKreg (s : State) (c h n d u j q : Nat) (v : KReg) :
    (s.setKreg c h n v).vreg d u j q = s.vreg d u j q := by
  simp [State.vreg, State.strand, State.setKreg, State.modGroup_eq]
@[simp] theorem State.group_setVreg (s : State) (c t i p d k : Nat) (v : VReg) :
    (s.setVreg c t i p v).group d k = s.group d k := by
  simp [State.setVreg, State.modTeam_eq]

/-! ## Charges (R304) -/

@[simp] theorem charge_agenda (s : State) (c h n : Nat) : (charge s c h n).agenda = s.agenda := by unfold charge chargeAt; split <;> rfl
@[simp] theorem charge_cur (s : State) (c h n : Nat) : (charge s c h n).cur = s.cur := by unfold charge chargeAt; split <;> rfl
@[simp] theorem charge_starts (s : State) (c h n : Nat) : (charge s c h n).starts = s.starts := by unfold charge chargeAt; split <;> rfl
@[simp] theorem charge_follow (s : State) (c h n : Nat) : (charge s c h n).follow = s.follow := by unfold charge chargeAt; split <;> rfl
@[simp] theorem charge_freeCtr (s : State) (c h n : Nat) : (charge s c h n).freeCtr = s.freeCtr := by unfold charge chargeAt; split <;> rfl
@[simp] theorem charge_nextId (s : State) (c h n : Nat) : (charge s c h n).nextId = s.nextId := by unfold charge chargeAt; split <;> rfl
@[simp] theorem charge_gt (s : State) (c h n : Nat) : (charge s c h n).gt = s.gt := by unfold charge chargeAt; split <;> rfl
@[simp] theorem charge_powered (s : State) (c h n : Nat) : (charge s c h n).powered = s.powered := by unfold charge chargeAt; split <;> rfl
@[simp] theorem charge_mem (s : State) (c h n : Nat) : (charge s c h n).mem = s.mem := by unfold charge chargeAt; split <;> rfl
@[simp] theorem charge_tags (s : State) (c h n : Nat) : (charge s c h n).tags = s.tags := by unfold charge chargeAt; split <;> rfl
@[simp] theorem charge_poison (s : State) (c h n : Nat) : (charge s c h n).poison = s.poison := by unfold charge chargeAt; split <;> rfl
@[simp] theorem charge_homes (s : State) (c h n : Nat) : (charge s c h n).homes = s.homes := by unfold charge chargeAt; split <;> rfl
@[simp] theorem charge_mscDirty (s : State) (c h n : Nat) : (charge s c h n).mscDirty = s.mscDirty := by unfold charge chargeAt; split <;> rfl
@[simp] theorem charge_fetches (s : State) (c h n : Nat) : (charge s c h n).fetches = s.fetches := by unfold charge chargeAt; split <;> rfl
@[simp] theorem charge_posted (s : State) (c h n : Nat) : (charge s c h n).posted = s.posted := by unfold charge chargeAt; split <;> rfl
@[simp] theorem charge_atlbReqs (s : State) (c h n : Nat) : (charge s c h n).atlbReqs = s.atlbReqs := by unfold charge chargeAt; split <;> rfl
@[simp] theorem charge_fills (s : State) (c h n : Nat) : (charge s c h n).fills = s.fills := by unfold charge chargeAt; split <;> rfl
@[simp] theorem charge_gang (s : State) (c h n : Nat) : (charge s c h n).gang = s.gang := by unfold charge chargeAt; split <;> rfl
@[simp] theorem charge_roots (s : State) (c h n : Nat) : (charge s c h n).roots = s.roots := by unfold charge chargeAt; split <;> rfl
@[simp] theorem charge_fused (s : State) (c h n : Nat) : (charge s c h n).fused = s.fused := by unfold charge chargeAt; split <;> rfl
@[simp] theorem charge_quotas (s : State) (c h n : Nat) : (charge s c h n).quotas = s.quotas := by unfold charge chargeAt; split <;> rfl
@[simp] theorem charge_held (s : State) (c h n : Nat) : (charge s c h n).held = s.held := by unfold charge chargeAt; split <;> rfl
@[simp] theorem charge_notices (s : State) (c h n : Nat) : (charge s c h n).notices = s.notices := by unfold charge chargeAt; split <;> rfl
@[simp] theorem charge_copies (s : State) (c h n : Nat) : (charge s c h n).copies = s.copies := by unfold charge chargeAt; split <;> rfl
@[simp] theorem charge_dues (s : State) (c h n : Nat) : (charge s c h n).dues = s.dues := by unfold charge chargeAt; split <;> rfl
@[simp] theorem charge_engineClk (s : State) (c h n : Nat) : (charge s c h n).engineClk = s.engineClk := by unfold charge chargeAt; split <;> rfl
@[simp] theorem charge_mxslot (s : State) (c h n : Nat) : (charge s c h n).mxslot = s.mxslot := by unfold charge chargeAt; split <;> rfl
@[simp] theorem charge_launches (s : State) (c h n : Nat) : (charge s c h n).launches = s.launches := by unfold charge chargeAt; split <;> rfl
@[simp] theorem charge_runs (s : State) (c h n : Nat) : (charge s c h n).runs = s.runs := by unfold charge chargeAt; split <;> rfl
@[simp] theorem charge_saved (s : State) (c h n : Nat) : (charge s c h n).saved = s.saved := by unfold charge chargeAt; split <;> rfl
@[simp] theorem charge_parts (s : State) (c h n : Nat) : (charge s c h n).parts = s.parts := by unfold charge chargeAt; split <;> rfl
@[simp] theorem charge_gov (s : State) (c h n : Nat) : (charge s c h n).gov = s.gov := by unfold charge chargeAt; split <;> rfl
@[simp] theorem charge_plat (s : State) (c h n : Nat) : (charge s c h n).plat = s.plat := by unfold charge chargeAt; split <;> rfl
@[simp] theorem charge_fuses (s : State) (c h n : Nat) : (charge s c h n).fuses = s.fuses := by unfold charge chargeAt; split <;> rfl
@[simp] theorem charge_ports (s : State) (c h n : Nat) : (charge s c h n).ports = s.ports := by unfold charge chargeAt; split <;> rfl
@[simp] theorem charge_conns (s : State) (c h n : Nat) : (charge s c h n).conns = s.conns := by unfold charge chargeAt; split <;> rfl
@[simp] theorem charge_inbox (s : State) (c h n : Nat) : (charge s c h n).inbox = s.inbox := by unfold charge chargeAt; split <;> rfl
@[simp] theorem charge_downs (s : State) (c h n : Nat) : (charge s c h n).downs = s.downs := by unfold charge chargeAt; split <;> rfl
@[simp] theorem charge_linkT (s : State) (c h n : Nat) : (charge s c h n).linkT = s.linkT := by unfold charge chargeAt; split <;> rfl
@[simp] theorem charge_linkClk (s : State) (c h n : Nat) : (charge s c h n).linkClk = s.linkClk := by unfold charge chargeAt; split <;> rfl
@[simp] theorem charge_outbox (s : State) (c h n : Nat) : (charge s c h n).outbox = s.outbox := by unfold charge chargeAt; split <;> rfl
@[simp] theorem charge_dies (s : State) (c h n : Nat) : (charge s c h n).dies = s.dies := by unfold charge chargeAt; split <;> rfl

@[simp] theorem charge_team (s : State) (c h n d u : Nat) : (charge s c h n).team d u = s.team d u := by
  unfold charge chargeAt
  split
  · rfl
  · exact State.team_setGroup ..

/-- A charge changes the carats of its group alone, with what is read of them later. -/
theorem charge_group (s : State) (c h n d k : Nat) :
    (charge s c h n).group d k = if c = d ∧ h = k then
      { s.group c h with carat := ((charge s c h n).group c h).carat, step := ((charge s c h n).group c h).step,
                           late := ((charge s c h n).group c h).late }
      else s.group d k := by
  by_cases hn : n = 0
  · subst hn
    split
    · next e => obtain ⟨rfl, rfl⟩ := e; rfl
    · rfl
  · have key (d k : Nat) : (charge s c h n).group d k = if c = d ∧ h = k then
        { s.group c h with
          carat := (s.group c h).carat + n,
          late := addLate (s.core c).cycle (s.group c h).late (.carat n ((s.core c).cycle + 4)),
          step := (s.group c h).step.add n (s.core c).cycle }
        else s.group d k := by
      rw [charge, chargeAt, if_neg hn]
      exact State.group_setGroup ..
    rw [key, key]
    simp

end Sys2Proof.Machine
end

