-- ==== Sys2Proof/Tests/Base.lean ====
section
/-! SUPPORT. The small machines that the tests and the witnesses start from. -/

open Sys2Proof Sys2Proof.Machine

namespace Sys2Proof.Tests

def frag4 : Frag := { pc := 0x1000, m := 0xF, e := 0xF }
def group4 : GroupSlot := { alloc := true, sids := [(1, 1), (2, 2), (3, 3)], frags := [(0, frag4)] }
def strands4 : SMap Strand := [(0, { regs := [(1, { val := 5 }), (2, { val := 7 })], preds := 1 }), (1, { regs := [(1, { val := 6 })] }),
  (2, { regs := [(2, { val := 9 })], preds := 3 })]
def team4 : Team := { nstr := 4, lsize := 4096, laneWords := 64, ctx := { asid := 1 }, strands := strands4 }
def st (g : GroupSlot) (t : Team) : State := { cur := some ⟨0, 0, 0⟩, nextId := 5, cores := [(0, { groups := [(0, g)], teams := [(0, t)] })] }
def s0 : State := st group4 team4
def r0 : FragRef := ⟨0, 0, 0⟩
/-- three active strands of four -/
def s1 : State := st { group4 with frags := [(0, { frag4 with e := 0x7 })] } team4
def fadd : FmtA := { exampleA with d := 3, a := 1, b := 2, ty := .i32 }
def page : SliceEntry := { asid := 1, va := 0, bits := 15, leaf := { frame := 1, x := true, rd := true, w := true } }
def withPage (s : State) (e : SliceEntry) (va : Nat) : State := { s with dies := [(0, { slices := [(sliceOf va, [e])] })] }
def wordMem (a w : Nat) : List Host.Cell := ((List.range 8).map (fun i => (a + i, BitVec.ofNat 8 (w / 256 ^ i)))).filter (fun c => c.2 != 0)
/-- the word at 0x1000 in memory -/
def sfm : State := { withPage s1 page 0x1000 with mem := wordMem (leafAddr 15 0x1000 page.leaf) 0x0206084001E10000 }
/-- and in the instruction buffer -/
def sf : State := sfm.modCore 0 (fun k => { k with ibuf := [(1, 0x1000, 0x0206084001E10000)] })
def lineBytesI : List Byte := (List.range 8).map (fun i => BitVec.ofNat 8 (0x0206084001E10000 / 256 ^ i))
/-- and in a line of the L1 -/
def lineI : CacheLine := { asid := 1, line := 0x10, sectors := 15, expiry := 100, tags := [], bytes := lineBytesI }
def sfl : State := sfm.modCore 0 (fun k => { k with l1 := [lineI] })

/-- The state that an outcome goes on in. -/
def outGet : Host.Outcome State Fault Refusal → State | .next t => t | _ => State.reset

theorem eq_next {o : Host.Outcome State Fault Refusal} (h : (match o with | .next _ => true | _ => false) = true) :
    o = .next (outGet o) := by
  cases o <;> simp_all [outGet]

theorem eq_ok {ε α : Type} {e : Except ε α} {a : α} (h : e.toOption = some a) : e = .ok a := by
  cases e <;> simp_all [Except.toOption]

/-- No fragment entry or piece waits for a clasp. -/
def claspFree (s : State) (r : FragRef) : Bool :=
  (s.group r.core r.hslot).frags.all (fun q => match q.2.wait with | .clasp .. => false | _ => true)
    && (s.group r.core r.hslot).spill.all (fun q => match q.wait with | .clasp .. => false | _ => true)

theorem noClasp {s : State} {r : FragRef} (h : claspFree s r = true) : NoClaspWait s r := by
  simp only [claspFree, Bool.and_eq_true, List.all_eq_true] at h
  exact ⟨fun q hq c u o ph v e => by simpa [e] using h.1 q hq, fun q hq c u o ph v e => by simpa [e] using h.2 q hq⟩

theorem allSlots {l : List Nat} {P : Nat → Prop} (e : l = [0, 1, 2]) (h0 : P 0) (h1 : P 1) (h2 : P 2) : ∀ x ∈ l, P x := by
  subst e; simp [h0, h1, h2]

theorem own_ne {l : List Nat} {le : Nat → Nat → Bool} (h : l.length ≠ 0) :
    ((l.mergeSort le).drop (32 * 0)).take 32 ≠ [] := by
  intro e
  have := congrArg List.length e
  simp at this
  exact h (by simpa using this)

theorem own_nil {l : List Nat} {le : Nat → Nat → Bool} (h : l.length ≤ 32) :
    ((l.mergeSort le).drop (32 * 1)).take 32 = [] := by
  simpa using h

/-- No room for a further message on the port of a peer to which many have gone. -/
theorem full_room {s : State} {m q n : Nat} {x : ChainMsg} (e : s.conns = [(m, { unacked := List.replicate n x })])
    (h : chainPortOf s m = some q) (big : 4194304 < n * (32 + x.bytes.length) + 8224) : peerRoom s m = false := by
  have u : unackedBytes s q = n * (32 + x.bytes.length) := by simp [unackedBytes, e, h, Nat.mul_add]
  simp only [peerRoom, h, u]
  rw [Nat.mul_add] at big ⊢
  exact decide_eq_false (by omega)

/-- The groups of a role of which the state holds two, in the order of their numbers. -/
theorem role_two {s : State} {c tm role : Nat} {l : List (Nat × GroupSlot)} {a b : Nat × GroupSlot}
    (e : (s.teamGroups c tm).filter (fun p => p.2.role == role) = [a, b]) (h : a.2.gid ≤ b.2.gid) (el : [a, b] = l) :
    roleGroups s c tm role = l := by
  subst el
  simp [roleGroups, e, List.mergeSort, List.MergeSort.Internal.splitInTwo, h]

/-- `PageGood`, as a check. -/
def pageFits (s : State) (r : FragRef) (sl : Nat) (va : W64) (n : Nat) (rd wr : Bool) (kind : AccKind) : Bool :=
  (tlbFind s r.core (s.teamOf r.core r.hslot).ctx.asid (va.toNat % 2 ^ 57)).isSome
    && (s.core r.core).atlb.all (fun e => match e.leaf with
      | none => true
      | some l => (!rd || l.rd && !keyDenies (passPkr s r) l.key false)
          && (!wr || l.w && !keyDenies (passPkr s r) l.key true) && reachOk l kind && !l.tagc)
    && (watched s r sl 0 (va.toNat % 2 ^ 57) n rd wr).isNone

theorem pageGood {s : State} {r : FragRef} {sl : Nat} {va : W64} {n : Nat} {rd wr : Bool} {kind : AccKind}
    (h : pageFits s r sl va n rd wr kind = true) : PageGood s r sl va n rd wr kind := by
  simp only [pageFits, Bool.and_eq_true, List.all_eq_true, Option.isNone_iff_eq_none] at h
  refine ⟨h.1.1, fun e he _ _ l hl => ?_, h.2⟩
  have := h.1.2 e he
  simp only [hl] at this
  cases rd <;> cases wr <;> simp_all

theorem reachGood {s : State} {r : FragRef} {sl : Nat} {f : FmtM} {a : W64} {rd wr : Bool} {kind : AccKind}
    (h1 : a.toNat % memBytes f = 0)
    (h2 : f.space = .global ∧ a.toNat < 2 ^ 61
      ∨ f.space = .lane ∧ a.toNat < 2 ^ 32 ∧ (a.toNat + memBytes f - 1) / 4 < (s.teamOf r.core r.hslot).laneWords)
    (h3 : (accWords s r sl f a).all (fun w => pageFits s r sl w.1 w.2.1 rd wr kind) = true) :
    ReachGood s r sl f a rd wr kind :=
  ⟨h1, h2, fun w hw => pageGood (List.all_eq_true.1 h3 w hw)⟩

end Sys2Proof.Tests
end

