-- ==== Sys2Proof/Tests/Slice0.lean ====
section
/-! SUPPORT. Tests of the model: instruction words composed by hand from the field tables of R27 to R42, ill-formed terms,
and small machines on which one step or one operation is worked out by hand from its rule. -/

set_option linter.all false
set_option Elab.async false

open Sys2Proof Sys2Proof.Machine

namespace Sys2Proof.Tests

/-! ## Decoding: words written out from the encoding tables of chapter 3 -/

def decodesTo (p : Nat × Instr) : Bool := decodeTableWord 64 p.1 == some p.2

/-- Format E fields that are all 0. -/
def fieldsE : FmtE := { d := 0, zd := 0, zs := 0, pam1 := 0, pbm1 := 0, spec := 0, vb := 0 }

/-- R27, R28: opcodes 0x00 to 0x1F, one word each. -/
theorem test_decode_arithmetic : List.all [
  (0x0000000001E00000, .nop exampleA),
  (0x0106004021E58000, .mov { exampleA with d := 3, b := 2, kb := true, ty := .m8 }),
  (0x0206084001E10000, .add { exampleA with d := 3, a := 1, b := 2, ty := .i32 }),
  (0x0306084001E10000, .sub { exampleA with d := 3, a := 1, b := 2, ty := .i32 }),
  (0x0406084001E10000, .mul { exampleA with d := 3, a := 1, b := 2, ty := .i32 }),
  (0x0506084001E10000, .mulh { exampleA with d := 3, a := 1, b := 2, ty := .i32 }),
  (0x0606084241E2D000, .mad { exampleA with d := 3, a := 1, b := 2, c := 4, ty := .n16, mode := .satRne, ka := true }),
  (0x070420C701E38000, .addc { exampleA with d := 2, a := 4, b := 6, c := 14, ty := .n64 }),
  (0x0806084205E30000, .subb { exampleA with d := 3, a := 1, b := 2, c := 4, ty := .n32, eb := true }),
  (0x0906084001E10000, .min { exampleA with d := 3, a := 1, b := 2, ty := .i32 }),
  (0x0A06084001E10000, .max { exampleA with d := 3, a := 1, b := 2, ty := .i32 }),
  (0x0B06080009E50000, .abs { exampleA with d := 3, a := 1, ty := .f32, ea := true }),
  (0x0C06080009E50000, .neg { exampleA with d := 3, a := 1, ty := .f32, ea := true }),
  (0x0D06084001E10000, .and { exampleA with d := 3, a := 1, b := 2, ty := .i32 }),
  (0x0E06084001E10000, .or { exampleA with d := 3, a := 1, b := 2, ty := .i32 }),
  (0x0F06084001E10000, .xor { exampleA with d := 3, a := 1, b := 2, ty := .i32 }),
  (0x1006084001E10000, .andn { exampleA with d := 3, a := 1, b := 2, ty := .i32 }),
  (0x7F1106080001E20080, .shl { exampleA with d := 3, a := 1, ty := .n8, lit := some 0x7F }),
  (0x1206084001E10000, .shr { exampleA with d := 3, a := 1, b := 2, ty := .i32 }),
  (0x1306084001E10000, .sar { exampleA with d := 3, a := 1, b := 2, ty := .i32 }),
  (0x1408102001E18000, .rot { exampleA with d := 4, a := 2, b := 1, ty := .i64 }),
  (0x1506084001E10000, .bfx { exampleA with d := 3, a := 1, b := 2, ty := .i32 }),
  (0x1606084211E10000, .bfi { exampleA with d := 3, a := 1, b := 2, c := 4, ty := .i32, kc := true }),
  (0x1706080001E30000, .popc { exampleA with d := 3, a := 1, ty := .n32 }),
  (0x1806080001E30000, .clz { exampleA with d := 3, a := 1, ty := .n32 }),
  (0x1906080001E30000, .ctz { exampleA with d := 3, a := 1, ty := .n32 }),
  (0x1A06084001E10100, .fnsb { exampleA with d := 3, a := 1, b := 2, ty := .i32, fn := 1 }),
  (0x1B06080001E30000, .brev { exampleA with d := 3, a := 1, ty := .n32 }),
  (0x1C06084481E58000, .sel { exampleA with d := 3, a := 1, b := 2, c := 9, ty := .m8 }),
  (0x1D1C084001E10500, .cmp { exampleA with d := 14, a := 1, b := 2, ty := .i32, fn := 5 }),
  (0x1E0609E001E00900, .plog { exampleA with d := 3, a := 1, b := 15, fn := 9 }),
  (0x1F06780001E00100, .pmov { exampleA with d := 3, a := 15, fn := 1 })] decodesTo = true := by decide +kernel

/-- R27, R28: opcodes 0x20 to 0x37. -/
theorem test_decode_float : List.all [
  (0x2006084001E63000, .fadd { exampleA with d := 3, a := 1, b := 2, ty := .h2, mode := .rup }),
  (0x2106084001E63000, .fsub { exampleA with d := 3, a := 1, b := 2, ty := .h2, mode := .rup }),
  (0x2206084001E63000, .fmul { exampleA with d := 3, a := 1, b := 2, ty := .h2, mode := .rup }),
  (0x2306084203E56000, .ffma { exampleA with d := 3, a := 1, b := 2, c := 4, ty := .f32, mode := .satRtz, ec := true }),
  (0x2406084001E48000, .fmin { exampleA with d := 3, a := 1, b := 2, ty := .bf16 }),
  (0x2506084001E48000, .fmax { exampleA with d := 3, a := 1, b := 2, ty := .bf16 }),
  (0x2606084001E58700, .fcmp { exampleA with d := 3, a := 1, b := 2, ty := .m8, fn := 7 }),
  (0x2706080001E40000, .fcls { exampleA with d := 3, a := 1, ty := .f16 }),
  (0x2806080000750000, .rcp { exampleA with d := 3, a := 1, ty := .f32, guard := 3, gn := true }),
  (0x2906080000750000, .rsq { exampleA with d := 3, a := 1, ty := .f32, guard := 3, gn := true }),
  (0x2A06080001E54000, .sqrt { exampleA with d := 3, a := 1, ty := .f32, mode := .rna }),
  (0x2B06080000750000, .ex2 { exampleA with d := 3, a := 1, ty := .f32, guard := 3, gn := true }),
  (0x2C06080000750000, .lg2 { exampleA with d := 3, a := 1, ty := .f32, guard := 3, gn := true }),
  (0x2D06080000750000, .sinp { exampleA with d := 3, a := 1, ty := .f32, guard := 3, gn := true }),
  (0x2E06080000750000, .cosp { exampleA with d := 3, a := 1, ty := .f32, guard := 3, gn := true }),
  (0x2F06080000750000, .tanh { exampleA with d := 3, a := 1, ty := .f32, guard := 3, gn := true }),
  (0x3004080501E1A000, .cvt { exampleA with d := 2, a := 1, c := 10, ty := .i64, mode := .rdn }),
  (0x3106084501E59000, .cvtef { exampleA with d := 3, a := 1, b := 2, c := 10, ty := .m8, mode := .rtz }),
  (0x3210008021E90000, .qblk { exampleA with d := 8, a := 0, b := 4, kb := true, ty := .i4 }),
  (0x3306084201EB5000, .pack { exampleA with d := 3, a := 1, b := 2, c := 4, ty := .n4, mode := .satRne }),
  (0x3406084001E68100, .unpk { exampleA with d := 3, a := 1, b := 2, ty := .bh2, fn := 1 }),
  (0x3506084201E20100, .dot4 { exampleA with d := 3, a := 1, b := 2, c := 4, ty := .n8, fn := 1 }),
  (0x3606084201E69000, .fdot2 { exampleA with d := 3, a := 1, b := 2, c := 4, ty := .bh2, mode := .rtz }),
  (0x3706002101EAC000, .blut { exampleA with d := 3, a := 0, b := 1, c := 2 } 0xAC)] decodesTo = true := by decide +kernel

/-- R27, R34 to R36: Formats S, B and L. -/
theorem test_decode_special_and_branches : List.all [
  (0x3800000001E00000, .mfs { u := false, reg := 0, kr := false, sreg := .sid, er := false, guard := 15, gn := false }),
  (0x3909030000700000, .mts { u := false, reg := 4, kr := true, sreg := .pkr, er := false, guard := 3, gn := true }),
  (0x398E042801E00000, .mts { u := true, reg := 7, kr := false, sreg := .fpc, er := true, guard := 15, gn := false }),
  (0x41F0000000000005, .br { guard := 15, gn := false, kind := 0, offset := 5 }),
  (0x422100FFFFFFFFFD, .bru { guard := 2, gn := false, kind := 1, offset := -3 }),
  (0x44F2000000000014, .call { guard := 15, gn := false, kind := 2, offset := 20 }),
  (0xF4A00000000000013, .region 0x13 0xF)] decodesTo = true := by decide +kernel

/-- R27, R28 and the rows of chapters 7 and 9. -/
theorem test_decode_control : List.all [
  (0x4300200000400000, .jmpi { exampleA with a := 4, guard := 2 }),
  (0x4580480001E00700, .calli { exampleA with u := true, a := 9, fn := 7 }),
  (0x4600000001E00000, .ret exampleA),
  (0x4700000001E00000, .rjn exampleA),
  (0x4800000001E00000, .regroup exampleA),
  (0x4900000000B00000, .exit { exampleA with guard := 5, gn := true }),
  (0x4B00000001E00500, .trap { exampleA with fn := 5 }),
  (0x4C00000001E00000, .iret exampleA),
  (0x4D00000001E00F00, .bkpt { exampleA with fn := 15 }),
  (0xDEADBEEF4E00000001E30080, .sigchk { exampleA with ty := .n32, lit := some 0xDEADBEEF }),
  (0x4F00000001E00000, .sigrst exampleA),
  (0x174F00000001E30080, .sigrst { exampleA with ty := .n32, lit := some 0x17 })] decodesTo = true := by decide +kernel

/-- R131: XCHG to SHFX. -/
theorem test_decode_cross : List.all [
  (0x5006102201E10000, .xchg { exampleA with d := 3, a := 2, b := 1, c := 4, ty := .i32 }),
  (0x5106102781E50200, .xshf { exampleA with d := 3, a := 2, b := 1, c := 15, ty := .f32, fn := 2 }),
  (0x520C100001E18D00, .scan { exampleA with d := 6, a := 2, ty := .i64, fn := 13 }),
  (0x530C080001E53000, .red { exampleA with d := 6, a := 1, ty := .f32, fn := 0, mode := .rup }),
  (0x540E780001E00200, .vote { exampleA with d := 7, a := 15, fn := 2 }),
  (0x550610A7A1E68000, .bcst { exampleA with d := 3, a := 2, b := 5, kb := true, c := 15, ty := .bh2 }),
  (0x560C100291E30000, .rbal { exampleA with d := 6, a := 2, c := 5, kc := true, ty := .n32 }),
  (0x5706102781E30700, .shfx { exampleA with d := 3, a := 2, b := 1, c := 15, ty := .n32, fn := 7 })] decodesTo = true := by decide +kernel

/-- R28 and the rows of R309, R295, R332 to R335, R194, R195. -/
theorem test_decode_system : List.all [
  (0x5880A2A001E00000, .stepRel { exampleA with u := true, a := 20, b := 21 }),
  (0x5880A2A001E00100, .stepAbs { exampleA with u := true, a := 20, b := 21, fn := 1 }),
  (0x5880000001E00200, .stepEnd { exampleA with u := true, fn := 2 }),
  (0x590C200001E00000, .launch { exampleA with d := 6, a := 4 }),
  (0x590C600041E00000, .launch { exampleA with d := 6, a := 12, ka := true }),
  (0x5A00100001E00300, .trc { exampleA with a := 2, fn := 3 }),
  (0x5B94000001E00000, .lclk { exampleA with u := true, d := 10 }),
  (0x5B94580001E00100, .lclkMrg { exampleA with u := true, d := 10, a := 11, fn := 1 }),
  (0x5C80600001E00000, .haltbTeam { exampleA with u := true, a := 12, fn := 0 }),
  (0x5C80600001E00100, .haltbTrel { exampleA with u := true, a := 12, fn := 1 }),
  (0x5C80600001E00200, .haltbCtx { exampleA with u := true, a := 12, fn := 2 }),
  (0x5C80600001E00300, .haltbCrel { exampleA with u := true, a := 12, fn := 3 }),
  (0x5DA861A001E00000, .inspKreg { exampleA with u := true, d := 20, a := 12, b := 13, fn := 0 }),
  (0x5DA861A001E00100, .inspVreg { exampleA with u := true, d := 20, a := 12, b := 13, fn := 1 }),
  (0x5DA861A001E00200, .inspGrp { exampleA with u := true, d := 20, a := 12, b := 13, fn := 2 }),
  (0x5DA861A001E00300, .inspFrag { exampleA with u := true, d := 20, a := 12, b := 13, fn := 3 }),
  (0x5DA861A001E00400, .inspLmem { exampleA with u := true, d := 20, a := 12, b := 13, fn := 4 }),
  (0x5DA861A001E00500, .inspLfe { exampleA with u := true, d := 20, a := 12, b := 13, fn := 5 }),
  (0x5DA861A001E00600, .inspBar { exampleA with u := true, d := 20, a := 12, b := 13, fn := 6 }),
  (0x5DA861A001E00700, .inspQueue { exampleA with u := true, d := 20, a := 12, b := 13, fn := 7 }),
  (0x5E80000001E00000, .cmntInst { exampleA with u := true }),
  (0x5E80000001E00100, .cmntIpkg { exampleA with u := true, fn := 1 }),
  (0x5E80300001E00200, .cmntWb { exampleA with u := true, a := 6, fn := 2 }),
  (0x5F8020A001E00000, .atlbiPage { exampleA with u := true, a := 4, b := 5 }),
  (0x5F80200001E00100, .atlbiAsid { exampleA with u := true, a := 4, fn := 1 }),
  (0x5F80000001E00200, .atlbiAll { exampleA with u := true, fn := 2 })] decodesTo = true := by decide +kernel

/-- R32, R141, R197, R205: Format M. -/
theorem test_decode_memory : List.all [
  (0x800200120001E000, .ld { exampleM with d := 1, index := 0, kbase := true, size := 2 }),
  (0x810E20421041E008, .st { exampleM with d := 7, base := 4, index := 2, size := 2, order := 2, obs := 2, offset := 8 }),
  (0x820818162001E000, .ldline { exampleM with d := 4, kbase := true, base := 3, size := 6, space := .local }),
  (0x830818160009E000, .stline { exampleM with d := 4, kbase := true, base := 3, size := 6, na := true }),
  (0x841028156801E000, .ldf { exampleM with d := 8, kbase := true, base := 5, size := 5, space := .gang, order := 1 }),
  (0x850428C82001E000, .stf { exampleM with d := 2, base := 5, index := 6, size := 0, space := .local, ed := true }),
  (0x860010860007E000, .pref { exampleM with base := 2, index := 4, size := 6, prio := 3 }),
  (0x878010650001E000, .tagst { exampleM with u := true, base := 2, index := 3, size := 5 }),
  (0x889210650001E000, .tagld { exampleM with u := true, d := 9, base := 2, index := 3, size := 5 }),
  (0x90081022000137FF, .aadd { exampleM with d := 4, base := 2, index := 1, size := 2, guard := 9, gn := true, offset := 2047 }),
  (0x91081022000537FF, .amin { exampleM with d := 4, base := 2, index := 1, size := 2, guard := 9, gn := true, offset := 2047, prio := 2 }),
  (0x92081022000537FF, .amax { exampleM with d := 4, base := 2, index := 1, size := 2, guard := 9, gn := true, offset := 2047, prio := 2 }),
  (0x93081022000137FF, .aand { exampleM with d := 4, base := 2, index := 1, size := 2, guard := 9, gn := true, offset := 2047 }),
  (0x94081022000137FF, .aor { exampleM with d := 4, base := 2, index := 1, size := 2, guard := 9, gn := true, offset := 2047 }),
  (0x95081022000137FF, .axor { exampleM with d := 4, base := 2, index := 1, size := 2, guard := 9, gn := true, offset := 2047 }),
  (0x96081022000137FF, .aswp { exampleM with d := 4, base := 2, index := 1, size := 2, guard := 9, gn := true, offset := 2047 }),
  (0x97081022000137FF, .acas { exampleM with d := 4, base := 2, index := 1, size := 2, guard := 9, gn := true, offset := 2047 }),
  (0x98081022000537FF, .afadd { exampleM with d := 4, base := 2, index := 1, size := 2, guard := 9, gn := true, offset := 2047, prio := 2 }),
  (0x99081022000137FF, .ainc { exampleM with d := 4, base := 2, index := 1, size := 2, guard := 9, gn := true, offset := 2047 }),
  (0x9A0810130001E000, .dqpush { exampleM with d := 4, kbase := true, base := 2, size := 3 }),
  (0x9B9410030001E000, .dqpop { exampleM with u := true, d := 10, base := 2, size := 3 }),
  (0x9C0810031821E000, .dqsteal { exampleM with d := 4, base := 2, size := 3, order := 3, obs := 1 })] decodesTo = true := by decide +kernel

/-- R211, R219, R221, R207, R217. -/
theorem test_decode_sync : List.all [
  (0xA08000001841E000, .fence { exampleM with u := true, order := 3, obs := 2 }),
  (0xA180000001E02000, .waitc { exampleA with u := true } 2),
  (0xA2A8000001E00300, .bar { exampleA with u := true, d := 20, fn := 3 }),
  (0xA3A8000001E00F00, .bara { exampleA with u := true, d := 20, fn := 15 }),
  (0xA4A8A80001E00300, .barw { exampleA with u := true, d := 20, a := 21, fn := 3 }),
  (0xA50818142001E000, .clinit { exampleM with d := 4, kbase := true, base := 3, size := 4, space := .local }),
  (0xA69818042001E000, .clarr { exampleM with u := true, d := 12, base := 3, size := 4, space := .local }),
  (0xA79A18046801E000, .clwait { exampleM with u := true, d := 13, base := 3, size := 4, space := .gang, order := 1 }),
  (0xA80818142001E001, .cltry { exampleM with d := 4, kbase := true, base := 3, size := 4, space := .local, offset := 1 }),
  (0xA992000001E00300, .qtry { exampleA with u := true, d := 9, fn := 3 })] decodesTo = true := by decide +kernel

/-- R37: Format E. -/
theorem test_decode_engine : List.all [
  (0xC0A0000000000000, .cpy { fieldsE with d := 16 }),
  (0xC1A2000000000000, .cpyp { fieldsE with d := 17 }),
  (0xC2DC000000000000, .cpyg { fieldsE with d := 46 }),
  (0xC3E0000000000000, .cpys { fieldsE with d := 48 }),
  (0xC4A0000A00000000, .cpyr { fieldsE with d := 16, spec := 10 }),
  (0xC8A0477800000000, .mma { fieldsE with d := 16, zd := 1, pam1 := 7, pbm1 := 3, spec := 24 }),
  (0xC9EA40E800000000, .mmas { fieldsE with d := 53, zd := 1, pam1 := 0, pbm1 := 7, spec := 8 }),
  (0xCAA9180000000000, .msca { fieldsE with d := 20, zd := 4, zs := 3 }),
  (0xCB81400A00000000, .acz { fieldsE with zd := 5, spec := 10 }),
  (0xCCA1000020000000, .acrd { fieldsE with d := 16, zd := 4, vb := 8 }),
  (0xCDEF0000FC000000, .acwr { fieldsE with d := 55, zd := 4, vb := 63 })] decodesTo = true := by decide +kernel

/-- The tree that the end of chapter 3 lays out word by word. -/
def treeNeg : Tree :=
  { present := [true, false, true, false, false, false, false], counts := [1, 0, 0, 0, 0, 0, 0, 0, 0, 0, 0, 0, 0, 0], dtype := .i32,
    tests := [{ kind := .regImm, cond := .lt, ty := .i32, ka := false, kb := false, ea := false, eb := false, bimm := true, a := 1, b := 0, imm := 0 },
      { kind := .regImm, cond := .eq, ty := .i32, ka := false, kb := false, ea := false, eb := false, bimm := true, a := 1, b := 0, imm := 0 }],
    leaves := [{ kind := .next, offset := 0 }, { kind := .branch, offset := 7 }, { kind := .next, offset := 0 }],
    ops := [{ op := .neg, f := { exampleA with d := 1, a := 1, ty := .i32 }, table := 0 }] }

/-- R38 to R42: the six words of the example of chapter 3. -/
theorem test_decode_tree : (decode 64 [0x400A000000220000, 0x1210200400000000, 0x1010200400000000, 0x0000000040000007, 0,
    0x0C02080001E10000]).toOption = some (.tree treeNeg) := by decide +kernel

def errorOf (win : Nat) (ws : List W64) : Option DecodeError :=
  match decode win ws with | .error e => some e | .ok _ => none

/-- R27, R28, R29, R30, R31, R36, R37: words that name no instruction, or that break a rule of their format. -/
theorem test_decode_refuses :
    errorOf 64 [0x3A00000001E00001] = some (.illop 0) ∧ errorOf 64 [0x6000000000000000] = some (.illop 0)
    ∧ errorOf 64 [0x0202080001E10001] = some (.illenc 0) ∧ errorOf 64 [0x0202080001E70080] = some (.illenc 0)
    ∧ errorOf 64 [0x0202080001E17080] = some (.illenc 0) ∧ errorOf 64 [0x4004000000020000] = some (.illenc 0)
    ∧ errorOf 64 [0xC000000000000000] = some (.illenc 0) ∧ errorOf 64 [0x3800000101E00000] = some (.illenc 0)
    ∧ errorOf 64 [0x0202080001E10080, 0x100000000] = some (.illenc 1) := by decide +kernel

/-- R53: a v register at or above the window size is refused. -/
theorem test_decode_window : errorOf 4 [0x0206084001E10000] = none ∧ errorOf 3 [0x0206084001E10000] ≠ none := by decide +kernel

/-! ## Well-formed terms: one ill-formed term for each check -/

def well (i : Instr) : Bool := i.wellFormed

/-- R29, R84, R86: the checks on a Format A row, one at a time: the form, the destination, a pair, a class bit with an empty action,
an unused source, a predicate number, a k class bit in the uniform form, the literal, the type, the mode, the sub-operation. -/
theorem test_wellFormed_formatA :
    [well (.add { exampleA with ty := .i32 }),
     well (.nop { exampleA with u := true }), well (.nop { exampleA with d := 1 }), well (.cmp { exampleA with d := 15, ty := .i32 }),
     well (.add { exampleA with d := 3, ty := .i64 }), well (.add { exampleA with a := 1, ty := .n64 }),
     well (.add { exampleA with ka := true, ea := true }), well (.abs { exampleA with b := 1 }), well (.abs { exampleA with kb := true }),
     well (.plog { exampleA with a := 16 }), well (.add { exampleA with u := true, ka := true }),
     well (.abs { exampleA with lit := some 1 }), well (.add { exampleA with b := 1, lit := some 1 }),
     well (.add { exampleA with ty := .i8, lit := some 0x80 }), well (.add { exampleA with ty := .n8, lit := some 0x100 }),
     well (.add { exampleA with ty := .f32 }), well (.add { exampleA with ty := .i32, mode := .rtz }),
     well (.cmp { exampleA with fn := 6 }), well (.ret { exampleA with guard := 3 })]
    = true :: List.replicate 18 false := by decide +kernel

/-- R73, R104 to R106, R131, R165, R194, R195, R309: what single rows add. -/
theorem test_wellFormed_rows :
    [well (.cvt { exampleA with ty := .i32, c := 10 }),
     well (.cvt { exampleA with ty := .i4, c := 10 }), well (.cvt { exampleA with ty := .h2, c := 10 }), well (.cvt { exampleA with c := 15 }),
     well (.cvtef { exampleA with d := 2, b := 2, ty := .m8, c := 10 }), well (.qblk { exampleA with ka := true, kb := true }),
     well (.qblk { exampleA with b := 4 }), well (.bcst { exampleA with ty := .i32 }), well (.shfx { exampleA with ka := true, ty := .i32 }),
     well (.sigchk { exampleA with ty := .n32 }), well (.stepRel { exampleA with u := true, a := 56 }),
     well (.cmntWb { exampleA with u := true, fn := 2, a := 57 }), well (.atlbiPage { exampleA with u := true, eb := true }),
     well (.cmntInst { exampleA with u := true, a := 1 }), well (.atlbiAll { exampleA with u := true, fn := 2, b := 1 }),
     well (.red { exampleA with d := 56 }), well (.calli { exampleA with u := true })]
    = true :: List.replicate 16 false := by decide +kernel

/-- R33, R137, R141, R197, R205, R211, R219: the checks on a Format M row. -/
theorem test_wellFormed_formatM :
    [well (.ld { exampleM with size := 2 }),
     well (.ld { exampleM with size := 6 }), well (.ld { exampleM with size := 4, space := .lane }), well (.tagst { exampleM with size := 5, space := .local }),
     well (.ld { exampleM with order := 2 }), well (.ld { exampleM with order := 1, obs := 1 }), well (.st { exampleM with obs := 1 }),
     well (.ld { exampleM with na := true, prio := 1 }), well (.ld { exampleM with space := .local, prio := 1 }),
     well (.dqpop { exampleM with size := 3, index := 1 }), well (.ld { exampleM with ed := true }), well (.ld { exampleM with size := 4, d := 2 }),
     well (.ld { exampleM with u := true, size := 5, d := 53 }), well (.ld { exampleM with u := true, kbase := true }),
     well (.ld { exampleM with kbase := true, base := 56 }), well (.ld { exampleM with base := 1 }),
     well (.ldline { exampleM with u := true, size := 6 }), well (.pref { exampleM with size := 6, d := 1 }),
     well (.fence { exampleM with u := true, order := 2 }), well (.fence { exampleM with u := true, order := 1, obs := 1 }),
     well (.fence { exampleM with u := true, order := 3, obs := 1, d := 1 })]
    = true :: List.replicate 20 false := by decide +kernel

/-- R34, R35, R37: Formats B, S and E. -/
theorem test_wellFormed_formatsBSE :
    [well (.bru { guard := 15, gn := false, kind := 0, offset := 1 }),
     well (.br { guard := 15, gn := false, kind := 1, offset := 1 }), well (.bru { guard := 14, gn := false, kind := 0, offset := 1 }),
     well (.bru { guard := 15, gn := false, kind := 4, offset := 1 }), well (.call { guard := 15, gn := false, kind := 0, offset := 1 }),
     well (.mts { u := false, reg := 0, kr := false, sreg := .sid, er := false, guard := 15, gn := false }),
     well (.mfs { u := false, reg := 0, kr := true, sreg := .sid, er := false, guard := 15, gn := false }),
     well (.mts { u := true, reg := 0, kr := true, sreg := .pkr, er := false, guard := 15, gn := false }),
     well (.mts { u := false, reg := 0, kr := true, sreg := .pkr, er := true, guard := 15, gn := false }),
     well (.mfs { u := false, reg := 1, kr := false, sreg := .gt, er := false, guard := 15, gn := false }),
     well (.cpy { fieldsE with d := 49 }), well (.cpy { fieldsE with zd := 1 }), well (.cpyr { fieldsE with spec := 3 }),
     well (.mma { fieldsE with spec := 1 }), well (.msca { fieldsE with d := 1 }), well (.acz { fieldsE with d := 1, spec := 2 }),
     well (.acrd { fieldsE with zs := 1 })]
    = true :: List.replicate 16 false := by decide +kernel

/-- R41, R42: the header, the counts, a test's kind and condition, its immediate, a leaf's offset, an arc operation. -/
theorem test_wellFormed_tree :
    [legalTree treeNeg,
     legalTree { treeNeg with present := [false, true, false, false, false, false, false] },
     legalTree { treeNeg with counts := [0, 0, 1, 0, 0, 0, 0, 0, 0, 0, 0, 0, 0, 0] },
     legalTree { treeNeg with tests := treeNeg.tests.take 1 }, legalTree { treeNeg with leaves := treeNeg.leaves.take 2 },
     legalTree { treeNeg with ops := [] },
     legalTree { treeNeg with tests := treeNeg.tests.map (fun t => { t with cond := .bs }) },
     legalTree { treeNeg with tests := treeNeg.tests.map (fun t => { t with bimm := false }) },
     legalTree { treeNeg with tests := treeNeg.tests.map (fun t => { t with ty := .i8, imm := 0x80 }) },
     legalTree { treeNeg with leaves := treeNeg.leaves.map (fun l => { l with offset := 1 }) },
     legalTree { treeNeg with ops := treeNeg.ops.map (fun o => { o with f := { o.f with u := true } }) },
     legalTree { treeNeg with ops := treeNeg.ops.map (fun o => { o with f := { o.f with guard := 3 } }) },
     legalTree { treeNeg with ops := treeNeg.ops.map (fun o => { o with op := .rcp, f := { o.f with ty := .f32 } }) }]
    = true :: List.replicate 12 false := by decide +kernel

/-! ## Arithmetic, worked out by hand -/

/-- The low 32 bits of an operation's d result, on the values of its sources. -/
def dOf (op : AluOp) (f : FmtA) (a b c : W64) : Option W32 :=
  (aluVal op f 0 { a := a, b := b, c := c, q := 0 }).d.map (fun v => v.truncate 32)

def i32 : FmtA := { exampleA with d := 3, a := 1, b := 2, c := 4, ty := .i32 }
def n32 : FmtA := { i32 with ty := .n32 }
def f32 : FmtA := { i32 with ty := .f32 }

/-- R89: wrapping at the ends of i32 and n32, saturation, the high half, and the absolute value of the most negative number.
The results are the exact integers, wrapped or held at the bounds by hand. -/
theorem test_integer_results :
    dOf .add i32 0x7FFFFFFF 1 0 = some 0x80000000 ∧ dOf .add { i32 with mode := .satRne } 0x7FFFFFFF 1 0 = some 0x7FFFFFFF
    ∧ dOf .sub { n32 with mode := .satRne } 0 1 0 = some 0 ∧ dOf .mul n32 0x10001 0x10001 0 = some 0x20001
    ∧ dOf .mulh n32 0xFFFFFFFE 3 0 = some 2 ∧ dOf .mulh i32 0xFFFFFFFE 3 0 = some 0xFFFFFFFF
    ∧ dOf .mad i32 5 6 7 = some 37 ∧ dOf .abs i32 0x80000000 0 0 = some 0x80000000
    ∧ dOf .abs { i32 with mode := .satRne } 0xFFFFFFFF80000000 0 0 = some 0x7FFFFFFF
    ∧ dOf .min n32 0xFFFFFFFF 1 0 = some 1 ∧ dOf .max i32 0xFFFFFFFFFFFFFFFF 1 0 = some 1 := by decide +kernel

/-- R91, R93, R94, R95: logic, shifts at and beyond the width, fields and counts. -/
theorem test_bit_results :
    dOf .andn n32 0b1100 0b1010 0 = some 0b0100 ∧ dOf .shl n32 1 32 0 = some 0 ∧ dOf .shr n32 0x80000000 31 0 = some 1
    ∧ dOf .sar i32 0xFFFFFFFF80000000 40 0 = some 0xFFFFFFFF ∧ dOf .rot n32 0x80000001 33 0 = some 3
    ∧ dOf .bfx n32 0xABCD1234 0x0808 0 = some 0x12 ∧ dOf .popc n32 0xF0F0 0 0 = some 8 ∧ dOf .clz n32 1 0 0 = some 31
    ∧ dOf .clz n32 0 0 0 = some 32 ∧ dOf .ctz n32 8 0 0 = some 3 ∧ dOf .brev n32 1 0 0 = some 0x80000000 := by decide +kernel

/-- R100 to R103: exact sums, products and roots, and the fixed points of the special functions. -/
theorem test_float_results :
    dOf .fadd f32 0x3FC00000 0x40100000 0 = some 0x40700000 ∧ dOf .fmul f32 0x40400000 0x3F000000 0 = some 0x3FC00000
    ∧ dOf .fsub f32 0x3F800000 0x3F800000 0 = some 0 ∧ dOf .ffma f32 0x40000000 0x40400000 0x3F800000 = some 0x40E00000
    ∧ dOf .fmin f32 0x80000000 0 0 = some 0x80000000 ∧ dOf .fmax f32 0x7FC00000 0x3F800000 0 = some 0x3F800000
    ∧ dOf .sqrt f32 0x40800000 0 0 = some 0x40000000 ∧ dOf .fadd f32 0x7F800000 0xFF800000 0 = some 0x7FC00000 := by decide +kernel

/-- R96, R98, R99: predicate results; R92: the table of the text's BLUT, the majority of three bits. -/
theorem test_predicate_results :
    (aluVal .cmp { i32 with d := 2, fn := 2 } 0 { a := 0xFFFFFFFFFFFFFFFF, b := 0, c := 0, q := 0 }).p = [(2, true)]
    ∧ (aluVal .cmp { n32 with d := 2, fn := 2 } 0 { a := 0xFFFFFFFF, b := 0, c := 0, q := 0 }).p = [(2, false)]
    ∧ (aluVal .plog { exampleA with d := 3, a := 1, b := 2, fn := 8 } 0 { a := 0, b := 0, c := 0, q := 6 }).p = [(3, true)]
    ∧ (aluVal .addc { n32 with c := 5 } 0 { a := 0xFFFFFFFF, b := 0, c := 0, q := 0x20 }).p = [(5, true)]
    ∧ (aluVal .blut { exampleA with d := 3, a := 0, b := 1, c := 2 } 0xE8 { a := 0b0011, b := 0b0101, c := 0b1001, q := 0 }).d = some 1 := by
  decide +kernel

/-- R104, R107, R108: conversions with rounding and saturation, packed elements and the dot product of bytes. -/
theorem test_convert_results :
    dOf .cvt { exampleA with ty := .f32, c := 2 } 7 0 0 = some 0x40E00000
    ∧ dOf .cvt { exampleA with ty := .i32, c := 10 } 0x40200000 0 0 = some 2
    ∧ dOf .cvt { exampleA with ty := .i32, c := 10, mode := .rup } 0x40200000 0 0 = some 3
    ∧ dOf .cvt { exampleA with ty := .f16, c := 10 } 0x3F800000 0 0 = some 0x3C00
    ∧ dOf .dot4 { exampleA with ty := .n8 } 0x01020304 0x01010101 5 = some 15 := by decide +kernel

/-! ## One step on a small machine -/

def vOf (s : State) (sid n : Nat) : W32 := (s.vreg 0 0 sid n).val
def kOf (s : State) (n : Nat) : W64 := (s.kreg 0 0 n).val
def after (i : Instr) (s : State) : State := outGet (exec i s)

/-- R49, R82: the active strands take the sum in their own registers, another strand keeps its own, and the PC goes on. -/
theorem test_add_strands :
    (vOf (after (.add fadd) s1) 0 3, vOf (after (.add fadd) s1) 1 3, vOf (after (.add fadd) s1) 3 3) = (12, 6, 0)
    ∧ ((after (.add fadd) s1).frag r0).pc = 0x1008 := by decide +kernel

/-- R84: the uniform form writes a k register once. -/
theorem test_add_uniform :
    kOf (after (.add { fadd with u := true, ty := .i64 }) (st { group4 with k := [(1, { val := 0xFFFFFFFFFFFFFFFF }), (2, { val := 2 })] } team4)) 3
      = 1 := by decide +kernel

/-- R111: %sid is a strand's number in its team, and its slot in its group. -/
theorem test_mfs :
    let t := after (.mfs { u := false, reg := 5, kr := false, sreg := .sid, er := false, guard := 15, gn := false }) s1
    (vOf t 0 5, vOf t 1 5, vOf t 2 5, vOf t 3 5) = (0, 1, 2, 0) := by decide +kernel

/-- R123: the strands whose guard holds go to PC + 8 × offset, the others go on behind the branch. -/
theorem test_br :
    let t := after (.br { guard := 0, gn := false, kind := 0, offset := 4 }) s1
    ((t.group 0 0).frags.map (fun p => (p.2.pc, p.2.e))).all
      (fun p => p = (0x1020, 5) || p = (0x1008, 2) || p = (0x1008, 0xA)) = true
    ∧ ((t.group 0 0).frags.map (fun p => p.2.pc)).contains 0x1020 = true := by decide +kernel

/-- R126, R127: CALL slides the window by 8 × kind registers and leaves the return address below it. -/
theorem test_call :
    let t := after (.call { guard := 15, gn := false, kind := 2, offset := 20 }) (st { group4 with frags := [(0, { frag4 with e := 7 })] } { team4 with budgets := [(0, 128)] })
    (t.frag r0).pc = 0x10A0 ∧ (t.frag r0).wbase = 16 ∧ vOf t 0 15 = 0 ∧ vOf t 0 14 = 0x1008 + 2 := by decide +kernel

/-- R130: EXIT ends the active strands and frees their slots. -/
theorem test_exit :
    let t := after (.exit exampleA) s1
    ((t.strand 0 0 0).live, (t.strand 0 0 2).live, (t.strand 0 0 3).live) = (false, false, true) := by decide +kernel

/-- R163, R158: TRAP raises cause 25 with fn as its code at the next instruction's address. -/
theorem test_trap :
    let g := (after (.trap { exampleA with fn := 5 }) s1).group 0 0
    (g.cause, g.faddr, g.fpc) = (25, 5, 0x1008) := by decide +kernel

/-- R133: each strand reads the register of the slot it names. -/
theorem test_xchg :
    let s := st { group4 with frags := [(0, { frag4 with e := 7 })] } { team4 with strands := (List.range 4).map (fun i => (i, { regs := [(1, { val := .ofNat 32 (100 + i) }), (2, { val := .ofNat 32 (2 - i) })] })) }
    let t := after (.xchg { exampleA with d := 3, a := 1, b := 2, c := 4, ty := .i32 }) s
    (vOf t 0 3, vOf t 1 3, vOf t 2 3) = (102, 101, 100) := by decide +kernel

/-- R134, R135: a sum over the active strands, and the mask of the strands whose predicate holds. -/
theorem test_red_vote :
    let s := st { group4 with frags := [(0, { frag4 with e := 7 })] } { team4 with strands := (List.range 4).map (fun i => (i, { preds := .ofNat 15 (i % 2), regs := [(1, { val := .ofNat 32 (100 + i) })] })) }
    kOf (after (.red { exampleA with d := 6, a := 1, ty := .i32 }) s) 6 = 303
    ∧ kOf (after (.vote { exampleA with d := 6, a := 0 }) s) 6 = 2 := by decide +kernel

def localTeam : Team := { team4 with strands := (List.range 4).map (fun i => (i, { regs := [(1, { val := .ofNat 32 i }), (4, { val := 0x11223344 })] })),
                                     mem := [(0x104, 7), (0x105, 0x80)] }
def localState : State := st { group4 with frags := [(0, { frag4 with e := 7 })], k := [(0, { val := 0x100 })] } localTeam
def fLocal : FmtM := { exampleM with d := 4, base := 0, index := 1, kbase := true, size := 2, space := .local }

/-- R138, R143: a store to local memory places its bytes little-endian at base + index × size. -/
theorem test_store_local :
    let t := after (.st fLocal) localState
    ((List.range 4).map (fun j => (t.team 0 0).mem.get 0 (0x104 + j)), (t.team 0 0).mem.get 0 0x10C) = ([0x44, 0x33, 0x22, 0x11], 0) := by
  decide +kernel

/-- R55, R143: a load empties its register at issue, and the fill brings the word. -/
theorem test_load_local :
    let t := after (.ld fLocal) localState
    ((t.vreg 0 0 1 4).full, (t.fills.filter (fun q => q.sid == 1)).map (fun q => q.words)) = (false, [[0x8007]]) := by decide +kernel

/-- R199: an atomic add leaves the sum. -/
theorem test_aadd_local :
    let t := after (.aadd fLocal) localState
    (List.range 4).map (fun j => (t.team 0 0).mem.get 0 (0x104 + j)) = [0x4B, 0xB3, 0x22, 0x11] := by decide +kernel

/-- R358: at power-on the machine waits for its first event: no instruction, nothing started. -/
theorem test_reset_steps : (State.reset.powered, State.reset.cur, State.reset.agenda) = (true, none, []) := by decide +kernel

/-- `withFetchWord` puts an instruction where the next step fetches: NOP (R87) completes there. -/
theorem test_step_fetches :
    (match step (State.reset.withFetchWord 64 0x0000000001E00000) with | .next _ => true | _ => false) = true := by decide +kernel

end Sys2Proof.Tests
end

