-- ==== Sys2Proof/Tests/Witness.lean ====
section
/-! SUPPORT. For each statement that has hypotheses, states and operands that meet all hypotheses of each of its clauses
together. -/

open Sys2Proof Sys2Proof.Machine

namespace Sys2Proof.Tests

set_option linter.all false
set_option Elab.async false

namespace Front


theorem witness_DecodeEncode :
    ∃ (i : Instr) (rest : List W64), (i.wellFormed = true) ∧ (windowOk 64 i = true) ∧ (i.isEvent = false) :=
  ⟨(.tree { present := [true,false,false,false,false,false,false], counts := [0,0,0,0,0,0,0,0,0,0,0,0,0,0], dtype := .i8, tests := [{ kind := .bit, cond := .bs, ty := .i32, ka := false, kb := false, ea := false, eb := false, bimm := true, a := 3, b := 0, imm := 31 }], leaves := [{kind := .next, offset := 0}, {kind := .exit, offset := 0}], ops := [] }), [], by decide +kernel⟩

theorem witness_StepOrder :
    (∃ (s : State) (r : FragRef) (i : Instr), (s.agenda = []) ∧ (s.powered = true) ∧ (s.cur = some r) ∧ ((s.frag r).mid = true) ∧ ((s.frag r).instr = some i))
    ∧ (∃ (s : State) (i : Instr) (rest : List Instr), (s.agenda = i :: rest) ∧ (s.powered = true) ∧ (i.isEvent = true) ∧ (isRequest i = false))
    ∧ (∃ (s : State) (i : Instr) (rest : List Instr), (s.agenda = i :: rest) ∧ (s.powered = true) ∧ (i.isEvent = true) ∧ (isRequest i = true)) :=
  ⟨⟨{ s1 with cores := [(0, { groups := [(0, { group4 with frags := [(0, { frag4 with mid := true, resume := 2, instr := some (.add fadd) })] })], teams := [(0, team4)] })] }, r0, (.add fadd), by decide +kernel⟩,
   ⟨{ s1 with agenda := [.powerOff, .issueCycle 3], cur := none }, .powerOff, [.issueCycle 3], by decide +kernel⟩,
   ⟨{ s1 with agenda := [.hostRead (.management 0) 8, .issueCycle 3], cur := none }, (.hostRead (.management 0) 8), [.issueCycle 3], by decide +kernel⟩⟩

end Front

namespace Fetch


theorem witness_StepRunsTheDecodedInstruction :
    ∃ (s s1 s2 : State) (r : FragRef) (i : Instr) (fol : Option (BitVec 56 × W64)), (s.agenda = []) ∧ (s.powered = true) ∧ (s.cur = some r) ∧ ((s.frag r).mid = false) ∧ (fetchFrom r.core (s.teamOf r.core r.hslot).ctx.asid (windowOf (s.teamOf r.core r.hslot) (s.group r.core r.hslot).role) (s.frag r).pc maxWords [] s = (.run i, s1)) ∧ (if needsRegion i then fol.isSome = true ∧ fetchFollow { s1 with cur := none } r (s.teamOf r.core r.hslot).ctx.asid i = (fol, s2) else fol = none ∧ s2 = s1) ∧ ((s.frag r).skip.isSome = true ∨ bareIret (s.group r.core r.hslot) r.entry i = true ∨ comparatorHit { s2 with follow := fol, cur := some r } r = none) :=
  ⟨sf, (fetchFrom 0 1 64 0x1000 maxWords [] sf).2, (fetchFrom 0 1 64 0x1000 maxWords [] sf).2, r0, (.add fadd), none, by decide +kernel⟩

theorem witness_FetchRules_1 :
    (∃ (s s1 : State) (c asid win n : Nat) (pc w : W64) (e : SliceEntry) (i : Instr),
      let line := pc.toNat / 256
      let lc := l1Core s1 c line
      let held : Option CacheLine := (findLine (s1.core lc).l1 asid line).filter (fun l => !l.lane && decide (s1.gt < l.expiry) && l.sectors.getLsbD (pc.toNat % 256 / 64))
      (pc.toNat < 2 ^ 57) ∧ (translate s (dieOf c) asid pc.toNat c = (some e, s1)) ∧ (e.leaf.x = true) ∧ (e.leaf.attr = 0) ∧ (bufferedWord s1 c asid pc.toNat = some w) ∧ (w = .ofNat 64 (Memory.word s1.mem (leafAddr e.bits pc.toNat e.leaf) 8)) ∧ (decode win [w] = .ok i))
    ∧ (∃ (s s1 : State) (c asid win n : Nat) (pc w : W64) (e : SliceEntry) (i : Instr),
      let line := pc.toNat / 256
      let lc := l1Core s1 c line
      let held : Option CacheLine := (findLine (s1.core lc).l1 asid line).filter (fun l => !l.lane && decide (s1.gt < l.expiry) && l.sectors.getLsbD (pc.toNat % 256 / 64))
      (pc.toNat < 2 ^ 57) ∧ (translate s (dieOf c) asid pc.toNat c = (some e, s1)) ∧ (e.leaf.x = true) ∧ (e.leaf.attr = 0) ∧ (bufferedWord s1 c asid pc.toNat = none) ∧ (held = none) ∧ (findLine (s1.die (dieOf c)).l2 asid line = none))
    ∧ (∃ (s s1 : State) (c asid win n : Nat) (pc w : W64) (e : SliceEntry) (i : Instr),
      let line := pc.toNat / 256
      let lc := l1Core s1 c line
      let held : Option CacheLine := (findLine (s1.core lc).l1 asid line).filter (fun l => !l.lane && decide (s1.gt < l.expiry) && l.sectors.getLsbD (pc.toNat % 256 / 64))
      ∃ (l : CacheLine),
      (pc.toNat < 2 ^ 57) ∧ (translate s (dieOf c) asid pc.toNat c = (some e, s1)) ∧ (e.leaf.x = true) ∧ (e.leaf.attr = 0) ∧ (bufferedWord s1 c asid pc.toNat = none) ∧ (held = some l) ∧ (l.poison.getLsbD (pc.toNat % 256 / 32) = false) ∧ (w = .ofNat 64 (bytesVal ((l.bytes.drop (pc.toNat % 256)).take 8))) ∧ (decode win [w] = .ok i))
    ∧ (∃ (s : State) (c asid k : Nat) (pc : W64), (2 ^ 61 ≤ pc.toNat ∨ 2 ^ 57 ≤ pc.toNat % 2 ^ 57 + 8 * k))
    ∧ (∃ (s : State) (c asid k : Nat) (pc : W64), (pc.toNat < 2 ^ 61) ∧ (pc.toNat % 2 ^ 57 + 8 * k < 2 ^ 57) ∧ ((translate s (dieOf c) asid (pc.toNat % 2 ^ 57 + 8 * k) c (pc.toNat / 2 ^ 57 * 2 ^ 57 + (pc.toNat % 2 ^ 57 + 8 * k))).1 = none)) :=
  ⟨⟨sf, (translate sf 0 1 0x1000 0).2, 0, 1, 64, 12, 0x1000, 0x0206084001E10000, page, (.add fadd), by refine ⟨?_, ?_, ?_, ?_, ?_, ?_, ?_⟩ <;> first | decide +kernel | exact eq_ok (by decide +kernel) | exact eq_next (by decide +kernel) | (intro _ h; cases h; done)⟩,
   ⟨sfm, (translate sfm 0 1 0x1000 0).2, 0, 1, 64, 12, 0x1000, 0x0206084001E10000, page, (.add fadd), by decide +kernel⟩,
   ⟨sfl, (translate sfl 0 1 0x1000 0).2, 0, 1, 64, 12, 0x1000, 0x0206084001E10000, page, (.add fadd), lineI, by refine ⟨?_, ?_, ?_, ?_, ?_, ?_, ?_, ?_, ?_⟩ <;> first | decide +kernel | exact eq_ok (by decide +kernel) | exact eq_next (by decide +kernel) | (intro _ h; cases h; done)⟩,
   ⟨sf, 0, 1, 0, (2^61), by decide +kernel⟩,
   ⟨sf, 0, 1, 0, 0x1000000, by decide +kernel⟩⟩

end Fetch

namespace Alu

def sEmpty : State := st { group4 with frags := [(0, { frag4 with e := 0x7 })] } { team4 with strands := (strands4.set 0 { regs := [(1, { full := false })] }) }
def mvp : FmtA := { exampleA with u := true, d := 5, b := 59, kb := false, ty := .i64 }
def mvq : FmtA := { exampleA with u := true, d := 59, b := 5, kb := false, ty := .i64 }
def sPort : State := { st group4 { team4 with queues := [(3, [{ val := 77, clk := 9 }, { val := 78, clk := 10 }])] } with follow := some (3, 5) }
def insOf (a b c : W64) (q : BitVec 16) : Ins := { a := a, b := b, c := c, q := q }
def qb : FmtA := { exampleA with d := 8, a := 0, b := 4, kb := true, ty := .i8 }
def sQ : State := st { group4 with frags := [(0, { frag4 with e := 0x7 })] } { team4 with strands := [(0, { regs := [(0, {val := 0x3F800000}), (3, { val := 0xC0490FDB })] }), (1, {regs := [(1, {val := 0x42F60000})]})] }
def sEmptyD : State := st { group4 with frags := [(0, { frag4 with e := 0x7 })] } { team4 with strands := (strands4.set 0 { regs := [(1, { val := 5 }), (3, { full := false })] }) }

theorem witness_EmptySourcesAndPorts :
    (∃ (f : FmtA) (s : State) (r : FragRef) (sl : Nat) (rest : List Nat),
      let reg (n : Nat) : VReg := s.vreg r.core (s.group r.core r.hslot).team (sidAt s r sl) ((s.frag r).wbase + n)
      let parks (w : Wait) : Prop := ∃ t, exec (.add f) s = .next t ∧ (t.frag r).mid = true ∧ (t.frag r).resume = sl ∧ (t.frag r).pc = (s.frag r).pc ∧ (t.frag r).wait = w ∧ StrandsSame s t r [] ∧ KSame s t r [] ∧ FlagsSame s t r
      (f.u = false) ∧ (f.ka = false) ∧ (f.ty = .i32) ∧ (Starts s r) ∧ (activeSlots s r f.guard f.gn 0 = sl :: rest) ∧ (∀ y ∈ (srcB .add f).toList, SourcesReady s r sl [y]) ∧ (∀ y ∈ (srcA .add f).toList, SourcesReady s r sl [y]) ∧ (vLive (s.frag r) ((s.frag r).wbase + f.d.toNat) = false) ∧ ((reg f.d.toNat).full = false))
    ∧ (∃ (f : FmtA) (s : State) (r : FragRef) (sl : Nat) (rest : List Nat),
      let reg (n : Nat) : VReg := s.vreg r.core (s.group r.core r.hslot).team (sidAt s r sl) ((s.frag r).wbase + n)
      let parks (w : Wait) : Prop := ∃ t, exec (.add f) s = .next t ∧ (t.frag r).mid = true ∧ (t.frag r).resume = sl ∧ (t.frag r).pc = (s.frag r).pc ∧ (t.frag r).wait = w ∧ StrandsSame s t r [] ∧ KSame s t r [] ∧ FlagsSame s t r
      (f.u = false) ∧ (f.ka = false) ∧ (f.ty = .i32) ∧ (Starts s r) ∧ (activeSlots s r f.guard f.gn 0 = sl :: rest) ∧ (∀ y ∈ (srcB .add f).toList, SourcesReady s r sl [y]) ∧ (VDestReady s r sl [f.d.toNat]) ∧ ((reg f.a.toNat).full = false) ∧ (f.ea = false))
    ∧ (∃ (f : FmtA) (s : State) (r : FragRef) (sl : Nat) (rest : List Nat),
      let reg (n : Nat) : VReg := s.vreg r.core (s.group r.core r.hslot).team (sidAt s r sl) ((s.frag r).wbase + n)
      let parks (w : Wait) : Prop := ∃ t, exec (.add f) s = .next t ∧ (t.frag r).mid = true ∧ (t.frag r).resume = sl ∧ (t.frag r).pc = (s.frag r).pc ∧ (t.frag r).wait = w ∧ StrandsSame s t r [] ∧ KSame s t r [] ∧ FlagsSame s t r
      (f.u = false) ∧ (f.ka = false) ∧ (f.ty = .i32) ∧ (Starts s r) ∧ (activeSlots s r f.guard f.gn 0 = sl :: rest) ∧ (∀ y ∈ (srcB .add f).toList, SourcesReady s r sl [y]) ∧ (VDestReady s r sl [f.d.toNat]) ∧ ((reg f.a.toNat).full = false) ∧ (f.ea = true) ∧ (NoFault s r))
    ∧ (∃ (f : FmtA) (s : State) (r : FragRef) (e : QEntry) (rest : List QEntry), ∃ (kl : BitVec 56) (vl : W64), (f.u = true) ∧ (f.lit = none) ∧ (56 ≤ f.b.toNat) ∧ (Starts s r) ∧ (Unmerged s r (nextPc (s.frag r) (.mov f))) ∧ (guardHolds (strandAt s r (s.frag r).refSlot) f.guard f.gn = true) ∧ (KDestReady s r f.d.toNat) ∧ (queueOf (s.teamOf r.core r.hslot) (f.b.toNat - 56) = e :: rest) ∧ (checkPorts s r (aluSources .mov f) = none) ∧ (((s.core r.core).regs.get 0 0x408).getLsbD 7 = false) ∧ (s.follow = some (kl, vl)))
    ∧ (∃ (f : FmtA) (s : State) (r : FragRef), ∃ (kl : BitVec 56) (vl : W64), (f.u = true) ∧ (56 ≤ f.d.toNat) ∧ (Starts s r) ∧ (Unmerged s r (nextPc (s.frag r) (.mov f))) ∧ (guardHolds (strandAt s r (s.frag r).refSlot) f.guard f.gn = true) ∧ (SourcesReady s r (s.frag r).refSlot (aluSources .mov f)) ∧ (checkKDest s r (s.frag r).refSlot [f.d.toNat] (aluSources .mov f) = none) ∧ (((s.core r.core).regs.get 0 0x408).getLsbD 6 = false) ∧ (s.follow = some (kl, vl))) :=
  ⟨⟨fadd, sEmptyD, r0, 0, [1,2], by decide +kernel⟩,
   ⟨fadd, sEmpty, r0, 0, [1,2], by decide +kernel⟩,
   ⟨{fadd with ea := true}, sEmpty, r0, 0, [1,2], by decide +kernel⟩,
   ⟨mvp, sPort, r0, { val := 77, clk := 9 }, [{ val := 78, clk := 10 }], 3, 5, by decide +kernel⟩,
   ⟨mvq, sPort, r0, 3, 5, by decide +kernel⟩⟩

theorem witness_ArithmeticResults_2 :
    (∃ (f : FmtA) (tb : Byte) (x : Ins),
      let res (op : AluOp) : Option W64 := (aluVal op f tb x).d
      let le : Bool := if f.ty = .i64 then x.a.sle x.b else x.a.ule x.b
      (f.ty = .i64 ∨ f.ty = .n64) ∧ (f.mode ∈ [Mode.rne, .rtz, .rdn, .rup, .rna]))
    ∧ (∃ (f : FmtA) (tb : Byte) (x : Ins) (op : AluOp) (e : Int),
      let a := Num.intOf f.ty x.a
      let b := Num.intOf f.ty x.b
      (f.ty ∈ [Ty.i8, .i16, .i32, .i64, .n8, .n16, .n32, .n64]) ∧ ((op, e) ∈ [(AluOp.add, a + b), (.sub, a - b), (.mul, a * b), (.mad, a * b + Num.intOf f.ty x.c), (.neg, -a), (.abs, if a < 0 then -a else a)]) ∧ (f.mode ∈ [Mode.rne, .rtz, .rdn, .rup, .rna]))
    ∧ (∃ (f : FmtA) (tb : Byte) (x : Ins) (op : AluOp) (e : Int),
      let a := Num.intOf f.ty x.a
      let b := Num.intOf f.ty x.b
      (f.ty ∈ [Ty.i8, .i16, .i32, .i64, .n8, .n16, .n32, .n64]) ∧ ((op, e) ∈ [(AluOp.add, a + b), (.sub, a - b), (.mul, a * b), (.mad, a * b + Num.intOf f.ty x.c), (.neg, -a), (.abs, if a < 0 then -a else a)]) ∧ (f.mode ∈ [Mode.satRne, .satRtz]))
    ∧ (∃ (f : FmtA) (tb : Byte) (x : Ins) (nan : W64), ∃ (op : AluOp), ((f.ty, nan) ∈ [(Ty.f32, 0x7FC00000#64), (.f16, 0x7E00), (.bf16, 0x7FC0)]) ∧ (Num.fval f.ty (x.a.toNat % 2 ^ f.ty.width) = .nan ∨ Num.fval f.ty (x.b.toNat % 2 ^ f.ty.width) = .nan) ∧ (op ∈ [AluOp.fadd, .fsub, .fmul, .ffma])) :=
  ⟨⟨{fadd with ty := .i64}, 0, (insOf 0x8000000000000000 0xFFFFFFFFFFFFFFFF 3 0), by decide +kernel⟩,
   ⟨{fadd with mode := .rup, ty := .i8}, 0, (insOf 0x7F 0x1 3 0), .add, 128, by decide +kernel⟩,
   ⟨{fadd with mode := .satRne}, 0, (insOf 0x7FFFFFFF 0x1 3 0), .add, 0x80000000, by decide +kernel⟩,
   ⟨{fadd with ty := .f32}, 0, (insOf 0x7F800001 2 3 0), 0x7FC00000, .fmul, by decide +kernel⟩⟩

theorem witness_PredicateAndTableResults :
    (∃ (f : FmtA) (tb : Byte) (x : Ins),
      let a : W32 := x.a.truncate 32
      let b : W32 := x.b.truncate 32
      let cin : Nat := if x.q.getLsbD (f.c.toNat % 16) then 1 else 0
      (f.ty = .i32))
    ∧ (∃ (f : FmtA) (tb : Byte) (x : Ins),
      let a : W32 := x.a.truncate 32
      let b : W32 := x.b.truncate 32
      let cin : Nat := if x.q.getLsbD (f.c.toNat % 16) then 1 else 0
      (f.fn = 0))
    ∧ (∃ (f : FmtA) (tb : Byte) (x : Ins),
      let a : W32 := x.a.truncate 32
      let b : W32 := x.b.truncate 32
      let cin : Nat := if x.q.getLsbD (f.c.toNat % 16) then 1 else 0
      (f.fn = 1))
    ∧ (∃ (f : FmtA) (tb : Byte) (x : Ins),
      let a : W32 := x.a.truncate 32
      let b : W32 := x.b.truncate 32
      let cin : Nat := if x.q.getLsbD (f.c.toNat % 16) then 1 else 0
      (f.fn = 2))
    ∧ (∃ (f : FmtA) (tb : Byte) (x : Ins),
      let a : W32 := x.a.truncate 32
      let b : W32 := x.b.truncate 32
      let cin : Nat := if x.q.getLsbD (f.c.toNat % 16) then 1 else 0
      ∃ (j : Nat),
      (f.fn = 3) ∧ (j < 15))
    ∧ (∃ (f : FmtA) (tb : Byte) (x : Ins),
      let a : W32 := x.a.truncate 32
      let b : W32 := x.b.truncate 32
      let cin : Nat := if x.q.getLsbD (f.c.toNat % 16) then 1 else 0
      (f.ty = .n32) ∧ (f.c.toNat < 15))
    ∧ (∃ (f : FmtA) (tb : Byte) (x : Ins),
      let a : W32 := x.a.truncate 32
      let b : W32 := x.b.truncate 32
      let cin : Nat := if x.q.getLsbD (f.c.toNat % 16) then 1 else 0
      (f.ty = .n32) ∧ (15 ≤ f.c.toNat))
    ∧ (∃ (f : FmtA) (tb : Byte) (x : Ins),
      let w := if f.fn = 0 then 32 else 64
      (f.fn = 0 ∨ f.fn = 1))
    ∧ (∃ (f : FmtA) (tb : Byte) (win : Nat) (w : W64) (ws : List W64), (decode win (w :: ws) = .ok (.blut f tb))) :=
  ⟨⟨{fadd with ty := .i32, c := 2, fn := 2}, 0, (insOf 0xFFFFFFFF 0 3 4), by decide +kernel⟩,
   ⟨{fadd with ty := .n32, c := 2}, 0, (insOf 0xFFFFFFFF 0 3 4), by decide +kernel⟩,
   ⟨{fadd with ty := .i32, c := 15, fn := 1}, 0, (insOf 0xFFFFFFFF 0 3 4), by decide +kernel⟩,
   ⟨{fadd with ty := .i32, c := 2, fn := 2}, 0, (insOf 0xFFFFFFFF 0 3 4), by decide +kernel⟩,
   ⟨{fadd with ty := .i32, c := 2, fn := 3}, 0, (insOf 0xFFFFFFFF 0 3 4), 14, by decide +kernel⟩,
   ⟨{fadd with ty := .n32, c := 2}, 0, (insOf 0xFFFFFFFF 0 3 4), by decide +kernel⟩,
   ⟨{fadd with ty := .n32, c := 15, fn := 0}, 0, (insOf 0xFFFFFFFF 0 3 4), by decide +kernel⟩,
   ⟨{fadd with fn := 0}, 0xAC, (insOf 0xFFFFFFFFFFFF 0x7777 0x1234 4), by decide +kernel⟩,
   ⟨{ exampleA with d := 3, a := 0, b := 1, c := 2, ty := .i8 }, 0xAC, 64, 0x3706002101EAC000, [], by refine ?_ <;> first | decide +kernel | exact eq_ok (by decide +kernel) | exact eq_next (by decide +kernel) | (intro _ h; cases h; done)⟩⟩

theorem witness_QblkCompletes :
    ∃ (f : FmtA) (s : State) (r : FragRef),
      let act := activeSlots s r f.guard f.gn 0
      let elems (sl : Nat) : List Num.FVal := (List.range 4).map (fun j => Num.fval .f32 (s.vreg r.core (s.group r.core r.hslot).team (sidAt s r sl) ((s.frag r).wbase + f.a.toNat + j)).val.toNat)
      let q := if f.ty = .i8 then 127 else 7
      let w := if f.ty = .i8 then 8 else 4
      let scale := (qScale ((act.map (fun sl => (elems sl).map magnitude)).flatten.foldl fracMax (0, 1)) q).1
      (Starts s r) ∧ (Arrives s r (.qblk f)) ∧ (Distinct s r) ∧ (∀ sl ∈ activeSlots s r f.guard f.gn 0, SourcesReady s r sl ((List.range 4).map (fun j => { isK := false, num := f.a.toNat + j, trap := f.ea })) ∧ VDestReady s r sl [f.d.toNat]) ∧ (KDestReady s r f.b.toNat) ∧ (act ≠ []) :=
  ⟨qb, sQ, r0, by decide +kernel⟩

end Alu

namespace MinMax

def insOf (a b c : W64) (q : BitVec 16) : Ins := { a := a, b := b, c := c, q := q }

theorem witness_MinMaxResults_2 :
    (∃ (f : FmtA) (tb : Byte) (x : Ins) (et : Ty) (ew n nan : Nat),
      let code (v : W64) (k : Nat) : Nat := v.toNat / 2 ^ (ew * k) % 2 ^ ew
      let val (c : Nat) : Num.FVal := Num.fval et c
      let below (c d : Nat) : Prop := Num.cmpF (val c) (val d) = some .lt ∨ (Num.cmpF (val c) (val d) = some .eq ∧ Num.signOf (val c) = true ∧ Num.signOf (val d) = false)
      ∃ (k : Nat),
      ∃ (op : AluOp),
      let a := code x.a k
      let b := code x.b k
      let res := code ((aluVal op f tb x).d.getD 0) k
      ((f.ty, et, ew, n, nan) ∈ [(Ty.f32, Ty.f32, 32, 1, 0x7FC00000), (.f16, .f16, 16, 1, 0x7E00), (.bf16, .bf16, 16, 1, 0x7FC0), (.h2, .f16, 16, 2, 0x7E00), (.bh2, .bf16, 16, 2, 0x7FC0)]) ∧ (k < n) ∧ (op ∈ [AluOp.fmin, .fmax]) ∧ (val a = .nan) ∧ (val b = .nan))
    ∧ (∃ (f : FmtA) (tb : Byte) (x : Ins) (et : Ty) (ew n nan : Nat),
      let code (v : W64) (k : Nat) : Nat := v.toNat / 2 ^ (ew * k) % 2 ^ ew
      let val (c : Nat) : Num.FVal := Num.fval et c
      let below (c d : Nat) : Prop := Num.cmpF (val c) (val d) = some .lt ∨ (Num.cmpF (val c) (val d) = some .eq ∧ Num.signOf (val c) = true ∧ Num.signOf (val d) = false)
      ∃ (k : Nat),
      ∃ (op : AluOp),
      let a := code x.a k
      let b := code x.b k
      let res := code ((aluVal op f tb x).d.getD 0) k
      ((f.ty, et, ew, n, nan) ∈ [(Ty.f32, Ty.f32, 32, 1, 0x7FC00000), (.f16, .f16, 16, 1, 0x7E00), (.bf16, .bf16, 16, 1, 0x7FC0), (.h2, .f16, 16, 2, 0x7E00), (.bh2, .bf16, 16, 2, 0x7FC0)]) ∧ (k < n) ∧ (op ∈ [AluOp.fmin, .fmax]) ∧ (val a = .nan) ∧ (val b ≠ .nan))
    ∧ (∃ (f : FmtA) (tb : Byte) (x : Ins) (et : Ty) (ew n nan : Nat),
      let code (v : W64) (k : Nat) : Nat := v.toNat / 2 ^ (ew * k) % 2 ^ ew
      let val (c : Nat) : Num.FVal := Num.fval et c
      let below (c d : Nat) : Prop := Num.cmpF (val c) (val d) = some .lt ∨ (Num.cmpF (val c) (val d) = some .eq ∧ Num.signOf (val c) = true ∧ Num.signOf (val d) = false)
      ∃ (k : Nat),
      ∃ (op : AluOp),
      let a := code x.a k
      let b := code x.b k
      let res := code ((aluVal op f tb x).d.getD 0) k
      ((f.ty, et, ew, n, nan) ∈ [(Ty.f32, Ty.f32, 32, 1, 0x7FC00000), (.f16, .f16, 16, 1, 0x7E00), (.bf16, .bf16, 16, 1, 0x7FC0), (.h2, .f16, 16, 2, 0x7E00), (.bh2, .bf16, 16, 2, 0x7FC0)]) ∧ (k < n) ∧ (op ∈ [AluOp.fmin, .fmax]) ∧ (val a ≠ .nan) ∧ (val b = .nan)) :=
  ⟨⟨{fadd with ty := .bf16}, 0, (insOf 0x7FC1 0x7FFF 3 4), .bf16, 16, 1, 0x7FC0, 0, .fmin, by decide +kernel⟩,
   ⟨{fadd with ty := .h2}, 0, (insOf 0x7C018000 0x3C000000 3 4), .f16, 16, 2, 0x7E00, 1, .fmax, by decide +kernel⟩,
   ⟨{fadd with ty := .f32}, 0, (insOf 0 0x7F800001 3 4), .f32, 32, 1, 0x7FC00000, 0, .fmin, by decide +kernel⟩⟩

end MinMax

namespace Results

def insOf (a b c : W64) (q : BitVec 16) : Ins := { a := a, b := b, c := c, q := q }
def fb : FmtB := { guard := 0, gn := false, kind := 0, offset := 5 }
def fj : FmtA := { exampleA with u := true, a := 8 }
def sK (v : W64) : State := st { group4 with k := [(8, { val := v })] } team4
def sJ : State := st { group4 with frags := [(0, { frag4 with e := 0x7 })] } { team4 with strands := [(0, { regs := [(4, {val := 0x2000})] }), (1, { regs := [(4, {val := 0x2008})] }), (2, { regs := [(4, {val := 0x1008})] })] }
def sR : State := st { group4 with frags := [(0, { frag4 with e := 0x5, wbase := 16 })] } { team4 with strands := (List.range 4).map (fun i => (i, { regs := [(14, {val := 0x3002 + 0x100 * (i / 2)})] })) }

theorem witness_EncodingRules :
    (∃ i : Instr, (i.wellFormed = true) ∧ (i.isEvent = false))
    ∧ (∃ (win : Nat) (w : W64) (ws : List W64), ((0x3A ≤ opByte w ∧ opByte w ≤ 0x3F) ∨ (0x60 ≤ opByte w ∧ opByte w ≤ 0x7F) ∨ (0x89 ≤ opByte w ∧ opByte w ≤ 0x8F) ∨ (0x9D ≤ opByte w ∧ opByte w ≤ 0x9F) ∨ (0xAA ≤ opByte w ∧ opByte w ≤ 0xBF) ∨ (0xC5 ≤ opByte w ∧ opByte w ≤ 0xC7) ∨ 0xCE ≤ opByte w))
    ∧ (∃ (win : Nat) (w : W64) (ws : List W64), (opByte w ≤ 0x37 ∨ opByte w = 0x43 ∨ (0x45 ≤ opByte w ∧ opByte w ≤ 0x49) ∨ (0x4B ≤ opByte w ∧ opByte w ≤ 0x5F) ∨ (0xA1 ≤ opByte w ∧ opByte w ≤ 0xA4) ∨ opByte w = 0xA9) ∧ (w.toNat % 128 ≠ 0)) :=
  ⟨⟨(.add fadd), by decide +kernel⟩,
   ⟨5, 0x3A00000001E00001, [], by decide +kernel⟩,
   ⟨5, 0x0200000000000001, [], by decide +kernel⟩⟩

theorem witness_FetchRules_2 :
    ∃ (s : State) (c asid k : Nat) (pc : W64), ∃ (e : SliceEntry), (pc.toNat < 2 ^ 61) ∧ (pc.toNat % 2 ^ 57 + 8 * k < 2 ^ 57) ∧ ((translate s (dieOf c) asid (pc.toNat % 2 ^ 57 + 8 * k) c (pc.toNat / 2 ^ 57 * 2 ^ 57 + (pc.toNat % 2 ^ 57 + 8 * k))).1 = some e) ∧ (e.leaf.x = false) :=
  ⟨(withPage s1 { page with leaf := { page.leaf with x := false } } 0x1000), 0, 1, 0, 0x1000, { page with leaf := { page.leaf with x := false } }, by decide +kernel⟩

theorem witness_StepKeepsMemoryForm :
    (∃ s t : State, (MemoryOk s) ∧ (step s = .next t))
    ∧ (∃ s t : State, (LocalMemoryOk s) ∧ (step s = .next t)) :=
  ⟨⟨s1, (outGet (step s1)), by refine ⟨?_, ?_⟩ <;> first | decide +kernel | exact eq_ok (by decide +kernel) | exact eq_next (by decide +kernel) | (intro _ h; cases h; done)⟩,
   ⟨s1, (outGet (step s1)), by refine ⟨?_, ?_⟩ <;> first | decide +kernel | exact eq_ok (by decide +kernel) | exact eq_next (by decide +kernel) | (intro _ h; cases h; done)⟩⟩

theorem witness_OnlyVisibleStoresChangeMemory :
    ∃ (i : Instr) (s t : State), ∃ a : Nat, (∀ line, i ≠ .storeVisible line) ∧ (i ≠ .powerOff) ∧ (i ≠ .powerOnReset) ∧ (exec i s = .next t) :=
  ⟨(.add fadd), s1, (outGet (exec (.add fadd) s1)), 5, by refine ⟨?_, ?_, ?_, ?_⟩ <;> first | decide +kernel | exact eq_ok (by decide +kernel) | exact eq_next (by decide +kernel) | (intro _ h; cases h; done)⟩

theorem witness_AluForms :
    (∃ (i : Instr) (op : AluOp) (f : FmtA) (tb : Byte) (s : State) (r : FragRef),
      let act := activeSlots s r f.guard f.gn 0
      let out (sl : Nat) : Outs := aluVal op f tb (readIns s r sl op f).1
      (i.alu? = some (op, f, tb)) ∧ (op ≠ .qblk) ∧ (f.u = false) ∧ (Starts s r) ∧ (Arrives s r i) ∧ (Distinct s r) ∧ (∀ sl ∈ activeSlots s r f.guard f.gn 0, SourcesReady s r sl (aluSources op f) ∧ VDestReady s r sl (vDests op f)))
    ∧ (∃ (i : Instr) (op : AluOp) (f : FmtA) (tb : Byte) (s : State) (r : FragRef),
      let out := aluVal op f tb (readIns s r (s.frag r).refSlot op f).1
      let go := guardHolds (strandAt s r (s.frag r).refSlot) f.guard f.gn
      (i.alu? = some (op, f, tb)) ∧ (op ≠ .qblk) ∧ (f.u = true) ∧ (Starts s r) ∧ (Arrives s r i) ∧ (Distinct s r) ∧ (SourcesReady s r (s.frag r).refSlot (aluSources op f)) ∧ (writesReg op f = true → KDestReady s r f.d.toNat)) :=
  ⟨⟨(.add fadd), .add, fadd, 0, s1, r0, by decide +kernel⟩,
   ⟨(.add {fadd with u := true}), .add, {fadd with u := true}, 0, s1, r0, by decide +kernel⟩⟩

theorem witness_ArithmeticResults_1 :
    ∃ (f : FmtA) (tb : Byte) (x : Ins),
      let a : W32 := x.a.truncate 32
      let b : W32 := x.b.truncate 32
      let c : W32 := x.c.truncate 32
      let res (op : AluOp) : Option W32 := (aluVal op f tb x).d.map (fun v => v.truncate 32)
      let le : Bool := if f.ty = .i32 then a.sle b else a.ule b
      ∃ (op : AluOp),
      (f.ty = .i32 ∨ f.ty = .n32) ∧ (f.mode ∈ [Mode.rne, .rtz, .rdn, .rup, .rna]) ∧ (op ∈ [AluOp.add, .sub, .mul, .mad, .neg, .mulh, .min, .max, .abs, .and, .or, .xor, .andn]) :=
  ⟨fadd, 0, (insOf 5 6 7 0), .mad, by decide +kernel⟩

theorem witness_ShiftResults :
    (∃ (f : FmtA) (tb : Byte) (x : Ins),
      let w := f.ty.width
      let n := x.b.toNat % 2 ^ 32
      let bit (op : AluOp) (j : Nat) : Bool := ((aluVal op f tb x).d.getD 0).getLsbD j
      ∃ (j : Nat),
      (f.ty ∈ [Ty.i8, .i16, .i32, .i64, .n8, .n16, .n32, .n64]) ∧ (j < w))
    ∧ (∃ (f : FmtA) (tb : Byte) (x : Ins),
      let w := f.ty.width
      let n := x.b.toNat % 2 ^ 32
      let bit (op : AluOp) (j : Nat) : Bool := ((aluVal op f tb x).d.getD 0).getLsbD j
      ∃ (op : AluOp),
      ∃ (y : SrcReg),
      (f.ty ∈ [Ty.i8, .i16, .i32, .i64, .n8, .n16, .n32, .n64]) ∧ (op ∈ [AluOp.shl, .shr, .sar, .rot]) ∧ (y ∈ (srcB op f).toList)) :=
  ⟨⟨{fadd with ty := .i8}, 0, (insOf 0xFFFFFFFFFFFFFF81 8 3 0), 7, by decide +kernel⟩,
   ⟨{fadd with ty := .n64}, 0, (insOf 0xFFFFFFFFFFFFFF81 8 3 0), .sar, { isK := false, num := 2 }, by decide +kernel⟩⟩

theorem witness_BitFields :
    (∃ (f : FmtA) (tb : Byte) (x : Ins),
      let w := f.ty.width
      let pos := x.b.toNat % 256
      let len := x.b.toNat / 256 % 256
      let fld : Int := Int.fdiv (Num.intOf f.ty x.a) (2 ^ pos) % 2 ^ len
      let v : Int := if f.ty.signed = true ∧ 2 ^ len ≤ 2 * fld then fld - 2 ^ len else fld
      (f.ty ∈ [Ty.i8, .i16, .i32, .i64, .n8, .n16, .n32, .n64]) ∧ (1 ≤ len))
    ∧ (∃ (f : FmtA) (tb : Byte) (x : Ins),
      let w := f.ty.width
      let pos := x.b.toNat % 256
      let len := x.b.toNat / 256 % 256
      let fld : Int := Int.fdiv (Num.intOf f.ty x.a) (2 ^ pos) % 2 ^ len
      let v : Int := if f.ty.signed = true ∧ 2 ^ len ≤ 2 * fld then fld - 2 ^ len else fld
      (f.ty ∈ [Ty.i8, .i16, .i32, .i64, .n8, .n16, .n32, .n64]) ∧ (len = 0))
    ∧ (∃ (f : FmtA) (tb : Byte) (x : Ins),
      let w := f.ty.width
      let pos := x.b.toNat % 256
      let len := x.b.toNat / 256 % 256
      let fld : Int := Int.fdiv (Num.intOf f.ty x.a) (2 ^ pos) % 2 ^ len
      let v : Int := if f.ty.signed = true ∧ 2 ^ len ≤ 2 * fld then fld - 2 ^ len else fld
      ∃ (j : Nat),
      (f.ty ∈ [Ty.i8, .i16, .i32, .i64, .n8, .n16, .n32, .n64]) ∧ (j < w)) :=
  ⟨⟨{fadd with ty := .n64}, 0, (insOf 0xFFFFFFFFFFFFFF81 0x0804 3 0), by decide +kernel⟩,
   ⟨{fadd with ty := .i8}, 0, (insOf 0xFFFFFFFFFFFFFF81 0x04 3 0), by decide +kernel⟩,
   ⟨{fadd with ty := .i8}, 0, (insOf 0xFFFFFFFFFFFFFF81 0x0804 3 0), 7, by decide +kernel⟩⟩

theorem witness_BitCounts :
    (∃ (f : FmtA) (tb : Byte) (x : Ins),
      let w := f.ty.width
      let up : List Nat := (List.range w).filter (fun j => x.a.getLsbD j)
      let n := x.b.toNat % 2 ^ 32
      let res (op : AluOp) : Nat := ((aluVal op f tb x).d.getD 0).toNat
      (f.ty ∈ [Ty.i8, .i16, .i32, .i64, .n8, .n16, .n32, .n64]) ∧ (up = []))
    ∧ (∃ (f : FmtA) (tb : Byte) (x : Ins),
      let w := f.ty.width
      let up : List Nat := (List.range w).filter (fun j => x.a.getLsbD j)
      let n := x.b.toNat % 2 ^ 32
      let res (op : AluOp) : Nat := ((aluVal op f tb x).d.getD 0).toNat
      (f.ty ∈ [Ty.i8, .i16, .i32, .i64, .n8, .n16, .n32, .n64]) ∧ (f.fn = 0))
    ∧ (∃ (f : FmtA) (tb : Byte) (x : Ins),
      let w := f.ty.width
      let up : List Nat := (List.range w).filter (fun j => x.a.getLsbD j)
      let n := x.b.toNat % 2 ^ 32
      let res (op : AluOp) : Nat := ((aluVal op f tb x).d.getD 0).toNat
      (f.ty ∈ [Ty.i8, .i16, .i32, .i64, .n8, .n16, .n32, .n64]) ∧ (f.fn = 1))
    ∧ (∃ (f : FmtA) (tb : Byte) (x : Ins),
      let w := f.ty.width
      let up : List Nat := (List.range w).filter (fun j => x.a.getLsbD j)
      let n := x.b.toNat % 2 ^ 32
      let res (op : AluOp) : Nat := ((aluVal op f tb x).d.getD 0).toNat
      ∃ (k : Nat),
      (f.ty ∈ [Ty.i8, .i16, .i32, .i64, .n8, .n16, .n32, .n64]) ∧ (k < w) ∧ (x.a.getLsbD k = true) ∧ (∀ j < w, k < j → x.a.getLsbD j = false))
    ∧ (∃ (f : FmtA) (tb : Byte) (x : Ins),
      let w := f.ty.width
      let up : List Nat := (List.range w).filter (fun j => x.a.getLsbD j)
      let n := x.b.toNat % 2 ^ 32
      let res (op : AluOp) : Nat := ((aluVal op f tb x).d.getD 0).toNat
      ∃ (k : Nat),
      (f.ty ∈ [Ty.i8, .i16, .i32, .i64, .n8, .n16, .n32, .n64]) ∧ (k < w) ∧ (x.a.getLsbD k = true) ∧ (∀ j < k, x.a.getLsbD j = false))
    ∧ (∃ (f : FmtA) (tb : Byte) (x : Ins),
      let w := f.ty.width
      let up : List Nat := (List.range w).filter (fun j => x.a.getLsbD j)
      let n := x.b.toNat % 2 ^ 32
      let res (op : AluOp) : Nat := ((aluVal op f tb x).d.getD 0).toNat
      ∃ (j : Nat),
      (f.ty ∈ [Ty.i8, .i16, .i32, .i64, .n8, .n16, .n32, .n64]) ∧ (j < w))
    ∧ (∃ (f : FmtA) (tb : Byte) (x : Ins),
      let w := f.ty.width
      let up : List Nat := (List.range w).filter (fun j => x.a.getLsbD j)
      let n := x.b.toNat % 2 ^ 32
      let res (op : AluOp) : Nat := ((aluVal op f tb x).d.getD 0).toNat
      ∃ (op : AluOp),
      (f.ty ∈ [Ty.i8, .i16, .i32, .i64, .n8, .n16, .n32, .n64]) ∧ (op ∈ [AluOp.popc, .clz, .ctz, .fnsb]))
    ∧ (∃ (f : FmtA) (tb : Byte) (x : Ins),
      let w := f.ty.width
      let up : List Nat := (List.range w).filter (fun j => x.a.getLsbD j)
      let n := x.b.toNat % 2 ^ 32
      let res (op : AluOp) : Nat := ((aluVal op f tb x).d.getD 0).toNat
      ∃ (y : SrcReg),
      (f.ty ∈ [Ty.i8, .i16, .i32, .i64, .n8, .n16, .n32, .n64]) ∧ (y ∈ (srcB .fnsb f).toList)) :=
  ⟨⟨{fadd with ty := .i8}, 0, (insOf 0 0x0804 3 0), by decide +kernel⟩,
   ⟨{fadd with ty := .i8}, 0, (insOf 0 0x0804 3 0), by decide +kernel⟩,
   ⟨{fadd with ty := .i8, fn := 1}, 0, (insOf 0x40 0x0804 3 0), by decide +kernel⟩,
   ⟨{fadd with ty := .i8}, 0, (insOf 0x40 0x0804 3 0), 6, by decide +kernel⟩,
   ⟨{fadd with ty := .i8}, 0, (insOf 0x48 0x0804 3 0), 3, by decide +kernel⟩,
   ⟨{fadd with ty := .n64}, 0, (insOf 0x48 0 3 0), 63, by decide +kernel⟩,
   ⟨{fadd with ty := .n64}, 0, (insOf 0x48 0 3 0), .clz, by decide +kernel⟩,
   ⟨{fadd with ty := .n64}, 0, (insOf 0x48 0 3 0), { isK := false, num := 2 }, by decide +kernel⟩⟩

theorem witness_SelectAndTable :
    (∃ (f : FmtA) (tb : Byte) (x : Ins),
      let q (i : BitVec 6) : Bool := x.q.getLsbD (i.toNat % 16)
      (f.ty.width = 64))
    ∧ (∃ (f : FmtA) (tb : Byte) (x : Ins),
      let q (i : BitVec 6) : Bool := x.q.getLsbD (i.toNat % 16)
      (f.ty.width ≤ 32))
    ∧ (∃ (f : FmtA) (tb : Byte) (x : Ins),
      let q (i : BitVec 6) : Bool := x.q.getLsbD (i.toNat % 16)
      ∃ (s : State) (r : FragRef) (sl : Nat),
      ∃ (j : Nat),
      (j < 15)) :=
  ⟨⟨{fadd with c := 2, fn := 6, ty := .n64}, 0, (insOf 0xFF81 8 3 4), by decide +kernel⟩,
   ⟨{fadd with c := 2, fn := 6, d := 14}, 0, (insOf 0xFF81 8 3 4), by decide +kernel⟩,
   ⟨{fadd with c := 2, fn := 6, d := 14}, 0, (insOf 0xFF81 8 3 4), s1, r0, 0, 14, by decide +kernel⟩⟩

theorem witness_MinMaxResults_1 :
    (∃ (f : FmtA) (tb : Byte) (x : Ins) (et : Ty) (ew n nan : Nat),
      let code (v : W64) (k : Nat) : Nat := v.toNat / 2 ^ (ew * k) % 2 ^ ew
      let val (c : Nat) : Num.FVal := Num.fval et c
      let below (c d : Nat) : Prop := Num.cmpF (val c) (val d) = some .lt ∨ (Num.cmpF (val c) (val d) = some .eq ∧ Num.signOf (val c) = true ∧ Num.signOf (val d) = false)
      ∃ (op : AluOp),
      ((f.ty, et, ew, n, nan) ∈ [(Ty.f32, Ty.f32, 32, 1, 0x7FC00000), (.f16, .f16, 16, 1, 0x7E00), (.bf16, .bf16, 16, 1, 0x7FC0), (.h2, .f16, 16, 2, 0x7E00), (.bh2, .bf16, 16, 2, 0x7FC0)]) ∧ (op ∈ [AluOp.fmin, .fmax]))
    ∧ (∃ (f : FmtA) (tb : Byte) (x : Ins) (et : Ty) (ew n nan : Nat),
      let code (v : W64) (k : Nat) : Nat := v.toNat / 2 ^ (ew * k) % 2 ^ ew
      let val (c : Nat) : Num.FVal := Num.fval et c
      let below (c d : Nat) : Prop := Num.cmpF (val c) (val d) = some .lt ∨ (Num.cmpF (val c) (val d) = some .eq ∧ Num.signOf (val c) = true ∧ Num.signOf (val d) = false)
      ∃ (k : Nat),
      ∃ (op : AluOp),
      let a := code x.a k
      let b := code x.b k
      let res := code ((aluVal op f tb x).d.getD 0) k
      ((f.ty, et, ew, n, nan) ∈ [(Ty.f32, Ty.f32, 32, 1, 0x7FC00000), (.f16, .f16, 16, 1, 0x7E00), (.bf16, .bf16, 16, 1, 0x7FC0), (.h2, .f16, 16, 2, 0x7E00), (.bh2, .bf16, 16, 2, 0x7FC0)]) ∧ (k < n) ∧ (op ∈ [AluOp.fmin, .fmax]) ∧ (val a ≠ .nan) ∧ (val b ≠ .nan) ∧ (op = .fmin) ∧ (below a b))
    ∧ (∃ (f : FmtA) (tb : Byte) (x : Ins) (et : Ty) (ew n nan : Nat),
      let code (v : W64) (k : Nat) : Nat := v.toNat / 2 ^ (ew * k) % 2 ^ ew
      let val (c : Nat) : Num.FVal := Num.fval et c
      let below (c d : Nat) : Prop := Num.cmpF (val c) (val d) = some .lt ∨ (Num.cmpF (val c) (val d) = some .eq ∧ Num.signOf (val c) = true ∧ Num.signOf (val d) = false)
      ∃ (k : Nat),
      ∃ (op : AluOp),
      let a := code x.a k
      let b := code x.b k
      let res := code ((aluVal op f tb x).d.getD 0) k
      ((f.ty, et, ew, n, nan) ∈ [(Ty.f32, Ty.f32, 32, 1, 0x7FC00000), (.f16, .f16, 16, 1, 0x7E00), (.bf16, .bf16, 16, 1, 0x7FC0), (.h2, .f16, 16, 2, 0x7E00), (.bh2, .bf16, 16, 2, 0x7FC0)]) ∧ (k < n) ∧ (op ∈ [AluOp.fmin, .fmax]) ∧ (val a ≠ .nan) ∧ (val b ≠ .nan) ∧ (op = .fmin) ∧ (below b a))
    ∧ (∃ (f : FmtA) (tb : Byte) (x : Ins) (et : Ty) (ew n nan : Nat),
      let code (v : W64) (k : Nat) : Nat := v.toNat / 2 ^ (ew * k) % 2 ^ ew
      let val (c : Nat) : Num.FVal := Num.fval et c
      let below (c d : Nat) : Prop := Num.cmpF (val c) (val d) = some .lt ∨ (Num.cmpF (val c) (val d) = some .eq ∧ Num.signOf (val c) = true ∧ Num.signOf (val d) = false)
      ∃ (k : Nat),
      ∃ (op : AluOp),
      let a := code x.a k
      let b := code x.b k
      let res := code ((aluVal op f tb x).d.getD 0) k
      ((f.ty, et, ew, n, nan) ∈ [(Ty.f32, Ty.f32, 32, 1, 0x7FC00000), (.f16, .f16, 16, 1, 0x7E00), (.bf16, .bf16, 16, 1, 0x7FC0), (.h2, .f16, 16, 2, 0x7E00), (.bh2, .bf16, 16, 2, 0x7FC0)]) ∧ (k < n) ∧ (op ∈ [AluOp.fmin, .fmax]) ∧ (val a ≠ .nan) ∧ (val b ≠ .nan) ∧ (op = .fmax) ∧ (below a b))
    ∧ (∃ (f : FmtA) (tb : Byte) (x : Ins) (et : Ty) (ew n nan : Nat),
      let code (v : W64) (k : Nat) : Nat := v.toNat / 2 ^ (ew * k) % 2 ^ ew
      let val (c : Nat) : Num.FVal := Num.fval et c
      let below (c d : Nat) : Prop := Num.cmpF (val c) (val d) = some .lt ∨ (Num.cmpF (val c) (val d) = some .eq ∧ Num.signOf (val c) = true ∧ Num.signOf (val d) = false)
      ∃ (k : Nat),
      ∃ (op : AluOp),
      let a := code x.a k
      let b := code x.b k
      let res := code ((aluVal op f tb x).d.getD 0) k
      ((f.ty, et, ew, n, nan) ∈ [(Ty.f32, Ty.f32, 32, 1, 0x7FC00000), (.f16, .f16, 16, 1, 0x7E00), (.bf16, .bf16, 16, 1, 0x7FC0), (.h2, .f16, 16, 2, 0x7E00), (.bh2, .bf16, 16, 2, 0x7FC0)]) ∧ (k < n) ∧ (op ∈ [AluOp.fmin, .fmax]) ∧ (val a ≠ .nan) ∧ (val b ≠ .nan) ∧ (op = .fmax) ∧ (below b a)) :=
  ⟨⟨{fadd with ty := .f32}, 0, (insOf 0x80000000 0 3 4), .f32, 32, 1, 0x7FC00000, .fmin, by decide +kernel⟩,
   ⟨{fadd with ty := .f32}, 0, (insOf 0x80000000 0 3 4), .f32, 32, 1, 0x7FC00000, 0, .fmin, by decide +kernel⟩,
   ⟨{fadd with ty := .f32}, 0, (insOf 0 0x80000000 3 4), .f32, 32, 1, 0x7FC00000, 0, .fmin, by decide +kernel⟩,
   ⟨{fadd with ty := .h2}, 0, (insOf 0x3C000000 0x40000000 3 4), .f16, 16, 2, 0x7E00, 1, .fmax, by decide +kernel⟩,
   ⟨{fadd with ty := .h2}, 0, (insOf 0x40000000 0x3C000000 3 4), .f16, 16, 2, 0x7E00, 1, .fmax, by decide +kernel⟩⟩

theorem witness_Branches :
    (∃ (f : FmtB) (s : State) (r : FragRef),
      let act := activeSlots s r f.guard f.gn 0
      (Starts s r) ∧ (Undivided s r) ∧ ((s.frag r).succs = []))
    ∧ (∃ (f : FmtB) (s : State) (r : FragRef),
      let hold (sl : Nat) : Bool := guardHolds (strandAt s r sl) f.guard f.gn
      let taken : Bool := match f.kind.toNat with | 0 => true | 1 => (slotsOf (s.frag r).e).any hold | 2 => (slotsOf (s.frag r).e).all hold | _ => !(slotsOf (s.frag r).e).any hold
      let pc := if taken then branchTarget (s.frag r).pc f.offset else nextPc (s.frag r) (.bru f)
      (Starts s r) ∧ (Unmerged s r pc)) :=
  ⟨⟨fb, s1, r0, by decide +kernel⟩,
   ⟨fb, s1, r0, by decide +kernel⟩⟩

theorem witness_IndirectJumps :
    (∃ (f : FmtA) (s : State) (r : FragRef),
      let tgt := (s.kreg r.core r.hslot f.a.toNat).val
      (f.u = true) ∧ (Starts s r) ∧ (guardHolds (strandAt s r (s.frag r).refSlot) f.guard f.gn = true) ∧ (SourcesReady s r (s.frag r).refSlot [targetSrc f]) ∧ (tgt.toNat < 2 ^ 61) ∧ (tgt.toNat % 8 = 0) ∧ (Unmerged s r tgt))
    ∧ (∃ (f : FmtA) (s : State) (r : FragRef),
      let tgt := (s.kreg r.core r.hslot f.a.toNat).val
      (f.u = true) ∧ (Starts s r) ∧ (guardHolds (strandAt s r (s.frag r).refSlot) f.guard f.gn = true) ∧ (SourcesReady s r (s.frag r).refSlot [targetSrc f]) ∧ (NoFault s r) ∧ (2 ^ 61 ≤ tgt.toNat ∨ tgt.toNat % 8 ≠ 0))
    ∧ (∃ (f : FmtA) (s : State) (r : FragRef),
      let act := activeSlots s r f.guard f.gn 0
      let tgt (sl : Nat) : W64 := (readSource s r sl (targetSrc f)).1
      (f.u = false) ∧ (Starts s r) ∧ (Undivided s r) ∧ ((s.frag r).succs = []) ∧ (Distinct s r) ∧ (∀ sl ∈ act, SourcesReady s r sl [targetSrc f] ∧ (tgt sl).toNat < 2 ^ 61 ∧ (tgt sl).toNat % 8 = 0)) :=
  ⟨⟨fj, (sK 0x1FFFFFFFFFFFFFF8), r0, by decide +kernel⟩,
   ⟨fj, (sK 0x2000000000000000), r0, by decide +kernel⟩,
   ⟨{fj with u := false, a := 4}, sJ, r0, by decide +kernel⟩⟩

theorem witness_CallsAndReturns_2 :
    ∃ (f : FmtA) (s : State) (r : FragRef),
      let wb := (s.frag r).wbase
      let reg (sl p : Nat) : VReg := s.vreg r.core (s.group r.core r.hslot).team (sidAt s r sl) p
      let link (sl : Nat) : W64 := (reg sl (wb - 1)).val ++ (reg sl (wb - 2)).val
      (Starts s r) ∧ (Undivided s r) ∧ ((s.frag r).succs = []) ∧ (8 ≤ wb) ∧ (∀ sl ∈ slotsOf (s.frag r).m, (reg sl (wb - 1)).full = true ∧ (reg sl (wb - 2)).full = true ∧ (reg sl (wb - 1)).poison = false ∧ (reg sl (wb - 2)).poison = false ∧ (link sl).toNat < 2 ^ 61 ∧ (link sl).toNat % 8 ≠ 0 ∧ 8 * ((link sl).toNat % 8) ≤ wb) :=
  ⟨fj, sR, r0, by decide +kernel⟩

end Results

namespace Flow

def fj : FmtA := { exampleA with u := true, a := 8 }
def sJ : State := st { group4 with frags := [(0, { frag4 with e := 0x7 })] } { team4 with strands := [(0, { regs := [(4, {val := 0x2000})] }), (1, { regs := [(4, {val := 0x2008})] }), (2, { regs := [(4, {val := 0x1008})] })] }
def sJg : State := st { group4 with frags := [(0, { frag4 with e := 0x7 })] } { team4 with strands := [(0, { preds := 1, regs := [(4, {val := 0x2000})] }), (1, { regs := [(4, {val := 0x2008})] }), (2, { preds := 1, regs := [(4, {val := 0x2000})] })] }
def sTwo : State := st { group4 with frags := [(0, { frag4 with m := 3, e := 3 }), (1, { frag4 with m := 12, e := 12, pc := 0x2000 })] } team4
def frj : Frag := { frag4 with wait := .rjn }
def frg : Frag := { frag4 with wait := .regroup }
def budget128 (t : Team) : Team := { t with budgets := [(0, 128)] }
def grp8 : GroupSlot := { group4 with gid := 1, flags := 3, sids := [(0, 4), (1, 5)], frags := [(0, {frg with m := 1, e := 0}), (3, {frg with m := 2, e := 2})] }
def sRG : State := ((st {group4 with flags := 4, frags := [(0, {frg with m := 5, e := 4})], spill := [{frg with m := 10, e := 10}.toSpill 0]} team4).setGroup 0 2 grp8)

theorem witness_CallsAndReturns_1 :
    (∃ (i : Instr) (n : Nat) (tgt : W64) (s : State) (r : FragRef),
      let nf : Frag := { s.passedAt r tgt with wbase := (s.frag r).wbase + n, xpc := (s.frag r).pc, xword := word0 i }
      let link := linkWord (nextPc (s.frag r) i) (n / 8)
      (Starts s r) ∧ (Distinct s r) ∧ (8 ≤ n) ∧ ((∃ f : FmtB, i = .call f ∧ n = 8 * f.kind.toNat ∧ tgt = branchTarget (s.frag r).pc f.offset ∧ guardHolds (strandAt s r (s.frag r).refSlot) f.guard f.gn = true) ∨ (∃ f : FmtA, i = .calli f ∧ f.u = true ∧ n = 8 * f.fn.toNat ∧ tgt = (s.kreg r.core r.hslot f.a.toNat).val ∧ SourcesReady s r (s.frag r).refSlot [targetSrc f] ∧ tgt.toNat < 2 ^ 61 ∧ tgt.toNat % 8 = 0 ∧ guardHolds (strandAt s r (s.frag r).refSlot) f.guard f.gn = true)) ∧ (stackLimit s r n = false) ∧ (∀ sl ∈ slotsOf (s.frag r).m, VDestReady s r sl [n - 2, n - 1]) ∧ (UnmergedAs s r nf))
    ∧ (∃ (f : FmtB) (s : State) (r : FragRef), (Starts s r) ∧ (NoFault s r) ∧ (stackLimit s r (8 * f.kind.toNat) = true) ∧ (guardHolds (strandAt s r (s.frag r).refSlot) f.guard f.gn = true))
    ∧ (∃ (f : FmtA) (s : State) (r : FragRef),
      let act := activeSlots s r f.guard f.gn 0
      let n := 8 * f.fn.toNat
      let tgt (sl : Nat) : W64 := (readSource s r sl (targetSrc f)).1
      let link := linkWord (nextPc (s.frag r) (.calli f)) (n / 8)
      (f.u = false) ∧ (Starts s r) ∧ (Undivided s r) ∧ ((s.frag r).succs = []) ∧ (Distinct s r) ∧ (f.fn ≠ 0) ∧ (stackLimit s r (8 * f.fn.toNat) = false) ∧ (∀ sl ∈ act, SourcesReady s r sl [targetSrc f] ∧ (tgt sl).toNat < 2 ^ 61 ∧ (tgt sl).toNat % 8 = 0 ∧ VDestReady s r sl [n - 2, n - 1]))
    ∧ (∃ (f : FmtA) (s : State) (r : FragRef),
      let wb := (s.frag r).wbase
      let reg (sl p : Nat) : VReg := s.vreg r.core (s.group r.core r.hslot).team (sidAt s r sl) p
      let link (sl : Nat) : W64 := (reg sl (wb - 1)).val ++ (reg sl (wb - 2)).val
      (Starts s r) ∧ (wb = 0) ∧ (NoFault s r)) :=
  ⟨⟨(.call { guard := 15, gn := false, kind := 2, offset := 20 }), 16, 0x10A0, (st {group4 with frags := [(0, {frag4 with e := 7})]} (budget128 team4)), r0, by (try dsimp only); exact ⟨by decide +kernel, by decide +kernel, by decide +kernel, .inl ⟨_, rfl, by decide +kernel, by decide +kernel, by decide +kernel⟩, by decide +kernel, by decide +kernel, by decide +kernel⟩⟩,
   ⟨{ guard := 15, gn := false, kind := 7, offset := 20 }, (st { group4 with frags := [(0, { frag4 with wbase := 480 })] } team4), r0, by decide +kernel⟩,
   ⟨{fj with u := false, a := 4, fn := 1}, (st (sJ.group 0 0) (budget128 (sJ.team 0 0))), r0, by decide +kernel⟩,
   ⟨{fj with u := false, a := 4, fn := 1}, (st (sJ.group 0 0) (budget128 (sJ.team 0 0))), r0, by decide +kernel⟩⟩

theorem witness_FragmentControl :
    (∃ (f : FmtA) (s : State) (r : FragRef), (Starts s r) ∧ (1 < (s.group r.core r.hslot).frags.length) ∧ (UnmergedAs s r { s.passedAt r (s.frag r).pc with wait := .rjn, lane := none }) ∧ ((s.group r.core r.hslot).frags.find? r.entry = some (s.frag r)))
    ∧ (∃ (c h : Nat) (s : State),
      let blocked (w : Wait) : Bool := match w with | .rjn | .bar .. | .barw .. | .regroup => true | _ => false
      ((s.group c h).alloc = true) ∧ ((s.group c h).fault = none) ∧ ((s.group c h).spill = []) ∧ (((s.group c h).frags.map Prod.fst).Pairwise (· < ·)))
    ∧ (∃ (f : FmtA) (s : State) (r : FragRef), (Starts s r) ∧ ((regroupBase s r.core (s.group r.core r.hslot).team (s.group r.core r.hslot).role).getD (s.frag r).wbase = (s.frag r).wbase))
    ∧ (∃ (c tm role wb : Nat) (pc : W64) (s : State),
      let gs := roleGroups s c tm role
      let sids := ((gs.map (fun q => (allPieces q.2).map (fun x => (slotsOf x.2.2.1).map (sidOf q.2)))).flatten.flatten).mergeSort (fun a b => a ≤ b)
      ∃ (k : Nat) (p : Nat × GroupSlot),
      let own := (sids.drop (32 * k)).take 32
      ((gs.map Prod.fst).Nodup) ∧ (∀ p ∈ gs, s.group c p.1 = p.2) ∧ (regroupReady gs = some (pc, wb)) ∧ (gs[k]? = some p) ∧ (own = []))
    ∧ (∃ (c tm role wb : Nat) (pc : W64) (s : State),
      let gs := roleGroups s c tm role
      let sids := ((gs.map (fun q => (allPieces q.2).map (fun x => (slotsOf x.2.2.1).map (sidOf q.2)))).flatten.flatten).mergeSort (fun a b => a ≤ b)
      ∃ (k : Nat) (p : Nat × GroupSlot),
      let own := (sids.drop (32 * k)).take 32
      ((gs.map Prod.fst).Nodup) ∧ (∀ p ∈ gs, s.group c p.1 = p.2) ∧ (regroupReady gs = some (pc, wb)) ∧ (gs[k]? = some p) ∧ (own ≠ []))
    ∧ (∃ (f : FmtA) (s : State) (r : FragRef),
      let act := activeSlots s r f.guard f.gn 0
      (Starts s r) ∧ (Undivided s r) ∧ ((s.frag r).succs = []) ∧ (Distinct s r) ∧ (∀ sl ∈ act, (s.frag r).m.getLsbD sl = true))
    ∧ (∃ (kl : BitVec 56) (vl : W64) (s : State) (r : FragRef),
      let rg : Region := { opening := s.nextId, pc := (s.frag r).pc, base := (s.frag r).wbase, vlive := vl, klive := kl, entryE := (slotsOf (s.frag r).e).map (sidAt s r), snap := snapshot (s.teamOf r.core r.hslot) (s.group r.core r.hslot) (s.frag r).m }
      (Starts s r) ∧ (Arrives s r (.region kl vl))) :=
  ⟨⟨exampleA, sTwo, r0, by decide +kernel⟩,
   ⟨0, 0, (st {group4 with frags := [(0, frj)]} team4), by decide +kernel⟩,
   ⟨exampleA, s1, r0, by decide +kernel⟩,
   ⟨0, 0, 0, 0, 0x1000, sRG, 1, ((roleGroups sRG 0 0 0).getD 1 (0,{})), by (try dsimp only); rw [role_two (a := ((sRG.teamGroups 0 0).filter (fun p => p.2.role == 0)).getD 0 (0, {})) (b := ((sRG.teamGroups 0 0).filter (fun p => p.2.role == 0)).getD 1 (0, {})) (by decide +kernel) (by decide +kernel) rfl]; exact ⟨by decide +kernel, by decide +kernel, by decide +kernel, by decide +kernel, own_nil (by decide +kernel)⟩⟩,
   ⟨0, 0, 0, 0, 0x1000, (st {group4 with frags := [(0, {frg with e := 0})]} team4), 0, (0, {group4 with frags := [(0, {frg with e := 0})]}), by (try dsimp only); exact ⟨by decide +kernel, by decide +kernel, by decide +kernel, by decide +kernel, own_ne (by decide +kernel)⟩⟩,
   ⟨{ exampleA with guard := 0 }, sJg, r0, by decide +kernel⟩,
   ⟨3, 9, s1, r0, by decide +kernel⟩⟩

end Flow

namespace Faults

def fs (lit : Option W64) : FmtA := { exampleA with ty := .n32, lit := lit }
def sSig : State := st { group4 with sig := [(0, 0x1234)] } team4
def tEn : Team := { team4 with ctx := { asid := 1, enable := 0x3FFFFFF, ebase := 0x8000 }, farea := 0x100000 }
def frH : FaultRec := { entry := 0, cause := 4, fslot := 1, fpc := 0x1000, faddr := 0, fword := 0, heldE := 7, pc := 0x1000, slot := 1, entered := true, supervisor := false }
def fr (cause slot : Nat) (pc : W64) : FaultRec := { entry := 0, cause := cause, fslot := slot, fpc := pc, faddr := 0, fword := 0, heldE := 0x6, pc := pc, slot := slot, entered := true, keep := { frag4 with pc := pc, e := 6 } }
def acc0 : Acc := { asid := 1, kind := .load, core := 0, hslot := 0, sid := 2, slot := 2, uni := false, addr := 0x5000, ea := 0x5000, pc := 0x900, word := 0x77, size := 4, pos := 3 }
def lr : LogRec := { acc := acc0, cause := 11 }
def gLog : GroupSlot := { group4 with log := [lr, lr] }
def ef : EngFault := { cause := 17, slot := 1, faddr := 9, fword := 8 }
def sp : SpillRec := { pc := 0x3000, m := 0x10, e := 0x10, wbase := 0, region := {}, since := 0 }

theorem witness_SignatureInstructions_1 :
    (∃ (f : FmtA) (s : State) (r : FragRef),
      let v := sigOf (s.group r.core r.hslot) (s.frag r)
      let lit : W32 := (f.lit.getD 0).truncate 32
      (Starts s r) ∧ (v = lit) ∧ (Arrives s r (.sigchk f)))
    ∧ (∃ (f : FmtA) (s : State) (r : FragRef),
      let v := sigOf (s.group r.core r.hslot) (s.frag r)
      let lit : W32 := (f.lit.getD 0).truncate 32
      (Starts s r) ∧ (v ≠ lit) ∧ (NoFault s r))
    ∧ (∃ (f : FmtA) (s : State) (r : FragRef),
      let v := sigOf (s.group r.core r.hslot) (s.frag r)
      let lit : W32 := (f.lit.getD 0).truncate 32
      (Starts s r) ∧ (Arrives s r (.sigrst f)))
    ∧ (∃ (win : Nat) (w : W64) (ws : List W64), (opByte w = 0x4E) ∧ (w ≠ 0x4E00000001E30080#64))
    ∧ (∃ (win : Nat) (w : W64) (ws : List W64), (opByte w = 0x4F) ∧ (w ≠ 0x4F00000001E00000#64) ∧ (w ≠ 0x4F00000001E30080#64)) :=
  ⟨⟨(fs (some 0x1234)), sSig, r0, by decide +kernel⟩,
   ⟨(fs (some 0xFFFFFFFF)), sSig, r0, by decide +kernel⟩,
   ⟨(fs (some 0x1234)), sSig, r0, by decide +kernel⟩,
   ⟨64, 0x4E00000001E30000, [7], by decide +kernel⟩,
   ⟨64, 0x4F00000001E00080, [7], by decide +kernel⟩⟩

theorem witness_BkptRaises :
    (∃ (win : Nat) (w : W64) (ws : List W64) (i : Instr), (opByte w = 0x4D) ∧ (decode win (w :: ws) = .ok i))
    ∧ (∃ (f : FmtA) (s : State) (r : FragRef), (Starts s r) ∧ (NoFault s r)) :=
  ⟨⟨64, 0x4D00000001E00F00, [], (.bkpt { exampleA with fn := 15 }), by refine ⟨?_, ?_⟩ <;> first | decide +kernel | exact eq_ok (by decide +kernel) | exact eq_next (by decide +kernel) | (intro _ h; cases h; done)⟩,
   ⟨{ exampleA with fn := 15 }, (st { group4 with frags := [(0, { frag4 with e := 0 })] } team4), r0, by decide +kernel⟩⟩

theorem witness_ExceptionEntryAndNestedFault :
    (∃ (i : Instr) (f : FmtA) (s : State) (r : FragRef) (cause slot : Nat) (fpc : W64),
      let tm := s.teamOf r.core r.hslot
      (Starts s r) ∧ (NoFault s r) ∧ ((s.group r.core r.hslot).halted = false) ∧ ((s.group r.core r.hslot).frags.find? r.entry = some (s.frag r)) ∧ ((i = .trap f ∧ cause = 25 ∧ fpc = nextPc (s.frag r) (.trap f) ∧ ((f.u = true ∧ slot = (s.frag r).refSlot ∧ guardHolds (strandAt s r slot) f.guard f.gn = true) ∨ (f.u = false ∧ ∃ rest, activeSlots s r f.guard f.gn 0 = slot :: rest))) ∨ (i = .bkpt f ∧ cause = 24 ∧ fpc = (s.frag r).pc ∧ slot = (s.frag r).refSlot)) ∧ (tm.ctx.enable.getLsbD cause = true))
    ∧ (∃ (i : Instr) (f : FmtA) (s : State) (r : FragRef) (cause slot : Nat) (fpc : W64),
      let tm := s.teamOf r.core r.hslot
      (Starts s r) ∧ (NoFault s r) ∧ ((s.group r.core r.hslot).halted = false) ∧ ((s.group r.core r.hslot).frags.find? r.entry = some (s.frag r)) ∧ ((i = .trap f ∧ cause = 25 ∧ fpc = nextPc (s.frag r) (.trap f) ∧ ((f.u = true ∧ slot = (s.frag r).refSlot ∧ guardHolds (strandAt s r slot) f.guard f.gn = true) ∨ (f.u = false ∧ ∃ rest, activeSlots s r f.guard f.gn 0 = slot :: rest))) ∨ (i = .bkpt f ∧ cause = 24 ∧ fpc = (s.frag r).pc ∧ slot = (s.frag r).refSlot)) ∧ (tm.ctx.enable.getLsbD cause = false))
    ∧ (∃ (f : FmtA) (s : State) (r : FragRef), (Starts s r) ∧ (runsHandler (s.group r.core r.hslot) r.entry = true) ∧ ((s.group r.core r.hslot).killed = false)) :=
  ⟨⟨(.trap { exampleA with fn := 5, u := true }), { exampleA with fn := 5, u := true }, (st group4 tEn), r0, 25, 0, 0x1008, by (try dsimp only); exact ⟨by decide +kernel, by decide +kernel, by decide +kernel, by decide +kernel, .inl ⟨rfl, rfl, by decide +kernel, .inl ⟨rfl, by decide +kernel, by decide +kernel⟩⟩, by decide +kernel⟩⟩,
   ⟨(.trap { exampleA with fn := 5 }), { exampleA with fn := 5 }, s1, r0, 25, 0, 0x1008, by (try dsimp only); exact ⟨by decide +kernel, by decide +kernel, by decide +kernel, by decide +kernel, .inl ⟨rfl, rfl, by decide +kernel, .inr ⟨rfl, [1, 2], by decide +kernel⟩⟩, by decide +kernel⟩⟩,
   ⟨exampleA, (st { group4 with inHandler := true, fault := some frH, frags := [(0, { frag4 with m := 3, e := 1 }), (1, { frag4 with m := 4, e := 4, pc := 0x2000 })], spill := [{ frag4 with m := 8, e := 8 }.toSpill 0] } team4), r0, by decide +kernel⟩⟩

theorem witness_IretCompletes :
    (∃ (f : FmtA) (s : State) (r : FragRef),
      let g := s.group r.core r.hslot
      (Starts s r) ∧ (NoFault s r))
    ∧ (∃ (f : FmtA) (s : State) (r : FragRef),
      let g := s.group r.core r.hslot
      ∃ (x : FaultRec),
      (Starts s r) ∧ (g.fault = some x) ∧ (x.entry = r.entry) ∧ (g.inHandler = true) ∧ (x.supervisor = false) ∧ (x.away = false) ∧ (g.log = []) ∧ (g.fpc.toNat < 2 ^ 61) ∧ (g.fpc.toNat % 8 = 0) ∧ (g.spill = []) ∧ (∀ p ∈ g.frags, p.1 ≠ r.entry → p.2.pc ≠ g.fpc) ∧ (g.fpc ≠ x.pc ∨ x.keep.wait = .ready) ∧ (g.frags.find? r.entry = some (s.frag r)) ∧ (g.fpc ≠ x.pc))
    ∧ (∃ (f : FmtA) (s : State) (r : FragRef),
      let g := s.group r.core r.hslot
      ∃ (x : FaultRec),
      (Starts s r) ∧ (g.fault = some x) ∧ (x.entry = r.entry) ∧ (g.inHandler = true) ∧ (x.supervisor = false) ∧ (x.away = false) ∧ (g.log = []) ∧ (g.fpc.toNat < 2 ^ 61) ∧ (g.fpc.toNat % 8 = 0) ∧ (g.spill = []) ∧ (∀ p ∈ g.frags, p.1 ≠ r.entry → p.2.pc ≠ g.fpc) ∧ (g.fpc ≠ x.pc ∨ x.keep.wait = .ready) ∧ (g.frags.find? r.entry = some (s.frag r)) ∧ (g.fpc = x.pc)) :=
  ⟨⟨exampleA, s1, r0, by decide +kernel⟩,
   ⟨exampleA, (st { group4 with inHandler := true, fpc := 0x3000, heldSig := [(0, 3)], frags := [(0, { frag4 with pc := 0x8640, e := 1 })], fault := some (fr 24 1 0x1008) } tEn), r0, (fr 24 1 0x1008), by decide +kernel⟩,
   ⟨exampleA, (st { group4 with inHandler := true, fpc := 0x1008, heldSig := [(0, 3)], frags := [(0, { frag4 with pc := 0x8640, e := 1 })], fault := some (fr 25 0 0x1008) } tEn), r0, (fr 25 0 0x1008), by decide +kernel⟩⟩

theorem witness_BoundaryEvents :
    (∃ (c h e sl : Nat) (l : LogRec) (rest : List LogRec) (q : Frag) (s : State), ((s.group c h).alloc = true) ∧ ((s.group c h).inHandler = false) ∧ ((s.team c (s.group c h).team).preempting = 0) ∧ ((s.group c h).fault = none) ∧ ((s.group c h).log = l :: rest) ∧ (slotOfSid (s.group c h) l.acc.sid = some sl) ∧ (List.find? (fun p => p.2.m.getLsbD sl) (s.group c h).frags = some (e, q)) ∧ ((s.group c h).frags.find? e = some q))
    ∧ (∃ (c h e : Nat) (y : EngFault) (q : Frag) (s : State), ((s.group c h).alloc = true) ∧ ((s.group c h).inHandler = false) ∧ ((s.team c (s.group c h).team).preempting = 0) ∧ ((s.group c h).fault = none) ∧ ((s.group c h).log = []) ∧ ((s.group c h).heldEng.find? (fun z => !z.notice) = some y) ∧ (List.find? (fun p => p.2.m.getLsbD y.slot) (s.group c h).frags = some (e, q)) ∧ ((s.group c h).frags.find? e = some q))
    ∧ (∃ (c h e : Nat) (p : SpillRec) (f : Frag) (rest : List SpillRec) (s : State), ((s.group c h).spill = p :: rest) ∧ (p.since + 4096 ≤ (s.core c).cycle) ∧ (rotationChoice (s.group c h) none = some e) ∧ (freeEntry (s.group c h) = none) ∧ ((s.group c h).frags.find? e = some f) ∧ (∀ q ∈ (s.group c h).frags, q.1 ≠ e → q.2.pc ≠ p.pc)) :=
  ⟨⟨0, 0, 0, 2, lr, [lr], frag4, (st gLog team4), by decide +kernel⟩,
   ⟨0, 0, 0, ef, frag4, (st { group4 with heldEng := [{ ef with notice := true }, ef] } team4), by decide +kernel⟩,
   ⟨0, 0, 0, sp, { frag4 with m := 1, e := 1 }, [], ((st { group4 with frags := (List.range 8).map (fun i => (i, { frag4 with m := 1#32 <<< i, e := 1#32 <<< i, pc := 0x1000 + 8 * .ofNat 64 i })), spill := [sp] } team4).modCore 0 (fun k => { k with cycle := 4096 })), by decide +kernel⟩⟩

end Faults

namespace Special

def fms (u : Bool) (reg : BitVec 6) (sreg : SReg) : FmtS := { u := u, reg := reg, kr := false, sreg := sreg, er := false, guard := 15, gn := false }
def sK2 (k : SMap KReg) : State := st { group4 with k := k, pkr := 77, flags := 5 } team4
def fu (d a b : BitVec 6) : FmtA := { exampleA with u := true, d := d, a := a, b := b }
def sTwoT : State := { cur := some r0, nextId := 5, cores := [(0, { groups := [(0, { group4 with k := [(12, { val := 0x100 })] }), (1, { group4 with team := 1, gid := 0 }), (2, { group4 with team := 2 })], teams := [(0, team4), (1, { team4 with index := 1 }), (2, { team4 with ctx := { asid := 2, addr := 77 } })] })] }
def sBusy : State := sTwoT.modGroup 0 1 (fun g => { g with frags := [(0, { frag4 with lane := some 1, mid := true })] })

theorem witness_SignatureInstructions_2 :
    (∃ (win : Nat) (w : W64) (ws : List W64), ∃ (v : W64) (rest : List W64), (ws = v :: rest) ∧ (v.toNat < 2 ^ 32) ∧ (w = 0x4E00000001E30080#64))
    ∧ (∃ (win : Nat) (w : W64) (ws : List W64), ∃ (v : W64) (rest : List W64), (ws = v :: rest) ∧ (v.toNat < 2 ^ 32) ∧ (w = 0x4F00000001E30080#64))
    ∧ (∃ (win : Nat) (w : W64) (ws : List W64), ∃ (v : W64) (rest : List W64), (ws = v :: rest) ∧ (v.toNat < 2 ^ 32) ∧ (w = 0x4F00000001E00000#64)) :=
  ⟨⟨64, 0x4E00000001E30080, [7], 7, [], by decide +kernel⟩,
   ⟨64, 0x4F00000001E30080, [7], 7, [], by decide +kernel⟩,
   ⟨64, 0x4F00000001E00000, [7], 7, [], by decide +kernel⟩⟩

theorem witness_SpecialRegisterMoves :
    (∃ (f : FmtS) (s : State) (r : FragRef),
      let act := activeSlots s r f.guard f.gn 0
      let v := mfsSeen s r f
      (Starts s r) ∧ (Arrives s r (.mfs f)) ∧ (Distinct s r) ∧ (f.sreg ∈ [SReg.gt, .flags, .carat] → f.guard = 15 ∨ (s.core r.core).made = []) ∧ (f.u = false) ∧ (∀ sl ∈ act, VDestReady s r sl (if f.sreg.is64 then [f.reg.toNat, f.reg.toNat + 1] else [f.reg.toNat])))
    ∧ (∃ (f : FmtS) (s : State) (r : FragRef),
      let act := activeSlots s r f.guard f.gn 0
      let v := mfsSeen s r f
      (Starts s r) ∧ (Arrives s r (.mfs f)) ∧ (Distinct s r) ∧ (f.sreg ∈ [SReg.gt, .flags, .carat] → f.guard = 15 ∨ (s.core r.core).made = []) ∧ (f.u = true) ∧ (guardHolds (strandAt s r (s.frag r).refSlot) f.guard f.gn = true) ∧ (KDestReady s r f.reg.toNat))
    ∧ (∃ (f : FmtS) (s : State) (r : FragRef),
      let v := (readSource s r (s.frag r).refSlot (mtsSrc f)).1
      let n := if f.u then 1 else (activeSlots s r f.guard f.gn 0).length
      let nf : Frag := if f.sreg = .exm then { s.passedAt r (nextPc (s.frag r) (.mts f)) with e := v.truncate 32 &&& (s.frag r).m } else s.passedAt r (nextPc (s.frag r) (.mts f))
      (Starts s r) ∧ (if f.u then guardHolds (strandAt s r (s.frag r).refSlot) f.guard f.gn = true else activeSlots s r f.guard f.gn 0 ≠ []) ∧ (SourcesReady s r (s.frag r).refSlot [mtsSrc f]) ∧ (UnmergedAs s r nf)) :=
  ⟨⟨(fms false 4 .sid), s1, r0, by decide +kernel⟩,
   ⟨(fms true 4 .step), s1, r0, by decide +kernel⟩,
   ⟨(fms true 4 .exm), (sK2 [(4, { val := 0xFFFFFFFFFFFFFFF5 })]), r0, by decide +kernel⟩⟩

theorem witness_StepClockAndTrace :
    (∃ (i : Instr) (f : FmtA) (s : State) (r : FragRef),
      let w := (s.kreg r.core r.hslot f.a.toNat).val.toNat
      let b := (s.kreg r.core r.hslot f.b.toNat).val.toNat
      let x := (s.group r.core r.hslot).step
      (i = .stepRel f ∨ i = .stepAbs f ∨ i = .stepEnd f) ∧ (Starts s r) ∧ (guardHolds (strandAt s r (s.frag r).refSlot) f.guard f.gn = true) ∧ (NoTrace s r) ∧ (UnmergedAs s r (s.regionAt r i)) ∧ (i ≠ .stepEnd f → SourcesReady s r (s.frag r).refSlot [{ isK := true, num := f.a.toNat }, { isK := true, num := f.b.toNat }]) ∧ (i = .stepRel f))
    ∧ (∃ (i : Instr) (f : FmtA) (s : State) (r : FragRef),
      let w := (s.kreg r.core r.hslot f.a.toNat).val.toNat
      let b := (s.kreg r.core r.hslot f.b.toNat).val.toNat
      let x := (s.group r.core r.hslot).step
      (i = .stepRel f ∨ i = .stepAbs f ∨ i = .stepEnd f) ∧ (Starts s r) ∧ (guardHolds (strandAt s r (s.frag r).refSlot) f.guard f.gn = true) ∧ (NoTrace s r) ∧ (UnmergedAs s r (s.regionAt r i)) ∧ (i ≠ .stepEnd f → SourcesReady s r (s.frag r).refSlot [{ isK := true, num := f.a.toNat }, { isK := true, num := f.b.toNat }]) ∧ (i = .stepAbs f))
    ∧ (∃ (i : Instr) (f : FmtA) (s : State) (r : FragRef),
      let w := (s.kreg r.core r.hslot f.a.toNat).val.toNat
      let b := (s.kreg r.core r.hslot f.b.toNat).val.toNat
      let x := (s.group r.core r.hslot).step
      (i = .stepRel f ∨ i = .stepAbs f ∨ i = .stepEnd f) ∧ (Starts s r) ∧ (guardHolds (strandAt s r (s.frag r).refSlot) f.guard f.gn = true) ∧ (NoTrace s r) ∧ (UnmergedAs s r (s.regionAt r i)) ∧ (i ≠ .stepEnd f → SourcesReady s r (s.frag r).refSlot [{ isK := true, num := f.a.toNat }, { isK := true, num := f.b.toNat }]) ∧ (i = .stepEnd f))
    ∧ (∃ (i : Instr) (f : FmtA) (s : State) (r : FragRef),
      let now := (s.group r.core r.hslot).lclk
      let v := (if i = .lclk f then now + 1 else Nat.max now (s.kreg r.core r.hslot f.a.toNat).val.toNat + 1) % 2 ^ 64
      (i = .lclk f ∨ i = .lclkMrg f) ∧ (Starts s r) ∧ (Arrives s r i) ∧ (guardHolds (strandAt s r (s.frag r).refSlot) f.guard f.gn = true) ∧ (KDestReady s r f.d.toNat) ∧ (i = .lclkMrg f → SourcesReady s r (s.frag r).refSlot [{ isK := true, num := f.a.toNat }]))
    ∧ (∃ (f : FmtA) (s : State) (r : FragRef),
      let act := activeSlots s r f.guard f.gn 0
      let src : SrcReg := { isK := f.u || f.ka, num := f.a.toNat, trap := f.ea }
      (Starts s r) ∧ (Arrives s r (.trc f)) ∧ (f.u = false) ∧ (NoTrace s r) ∧ (∀ sl ∈ act, SourcesReady s r sl [src]))
    ∧ (∃ (f : FmtA) (s : State) (r : FragRef),
      let act := activeSlots s r f.guard f.gn 0
      let src : SrcReg := { isK := f.u || f.ka, num := f.a.toNat, trap := f.ea }
      let base := ((s.die (dieOf r.core)).regs.get 0 0x4000).toNat / 4096 % 2 ^ 40 * 4096
      let w0 := f.fn.toNat * 2 ^ 56 + r.core * 2 ^ 48 + r.hslot * 2 ^ 42 + (s.frag r).refSlot * 2 ^ 37 + (s.frag r).e.toNat
      let rec_ := [w0, (s.frag r).pc.toNat, (s.kreg r.core r.hslot f.a.toNat).val.toNat, ((s.group r.core r.hslot).lclk + 1) % 2 ^ 64]
      (Starts s r) ∧ (Arrives s r (.trc f)) ∧ (f.u = true) ∧ (guardHolds (strandAt s r (s.frag r).refSlot) f.guard f.gn = true) ∧ (SourcesReady s r (s.frag r).refSlot [src]) ∧ ((s.core r.core).regs.get 0 0x408 = 1) ∧ ((s.die (dieOf r.core)).traceTimes = []) ∧ ((s.die (dieOf r.core)).traced = 0)) :=
  ⟨⟨(.stepRel (fu 0 20 21)), (fu 0 20 21), {sK2 [(20, { val := 7 }), (21, { val := 900 })] with gt := 50}, r0, by decide +kernel⟩,
   ⟨(.stepAbs (fu 0 20 21)), (fu 0 20 21), {sK2 [(20, { val := 7 }), (21, { val := 900 })] with gt := 50}, r0, by decide +kernel⟩,
   ⟨(.stepEnd (fu 0 20 21)), (fu 0 20 21), {sK2 [(20, { val := 7 }), (21, { val := 900 })] with gt := 50}, r0, by decide +kernel⟩,
   ⟨(.lclk (fu 3 0 0)), (fu 3 0 0), (st {group4 with lclk := 8} team4), r0, by decide +kernel⟩,
   ⟨{ exampleA with a := 1, fn := 3 }, s1, r0, by decide +kernel⟩,
   ⟨{ exampleA with u := true, a := 1, fn := 3 }, ({ (sK2 [(1, { val := 100 })]) with dies := [(0, { regs := [(0x4000, 0x5001)] })] }.modCore 0 (fun k => { k with regs := [(0, 0xFFFFFFFF), (0x10, 1), (0x408, 1)] })), r0, by decide +kernel⟩⟩

theorem witness_HaltAndInspect_1 :
    (∃ (i : Instr) (f : FmtA) (s : State) (r : FragRef) (on whole : Bool),
      let v := (s.kreg r.core r.hslot f.a.toNat).val
      let tc := v.toNat % 256
      let th := v.toNat / 256 % 64
      let aim := s.teamOf tc th
      let picked (c h : Nat) : Bool := (s.group c h).alloc && !(c == r.core && (s.group c h).team == (s.group r.core r.hslot).team) && (if whole then (s.teamOf c h).ctx.asid == aim.ctx.asid && (s.teamOf c h).part == aim.part else c == tc && (s.group c h).team == (s.group tc th).team)
      let busy (c h : Nat) : Prop := on = true ∧ picked c h = true ∧ runsPass s c h = true
      ((i = .haltbTeam f ∧ on = true ∧ whole = false) ∨ (i = .haltbTrel f ∧ on = false ∧ whole = false) ∨ (i = .haltbCtx f ∧ on = true ∧ whole = true) ∨ (i = .haltbCrel f ∧ on = false ∧ whole = true)) ∧ (Starts s r) ∧ (Arrives s r i) ∧ (guardHolds (strandAt s r (s.frag r).refSlot) f.guard f.gn = true) ∧ (SourcesReady s r (s.frag r).refSlot [{ isK := true, num := f.a.toNat }]) ∧ (targetStop s r v whole = none) ∧ ((s.group r.core r.hslot).alloc = true) ∧ (∀ c h, ¬ busy c h))
    ∧ (∃ (i : Instr) (f : FmtA) (s : State) (r : FragRef) (on whole : Bool),
      let v := (s.kreg r.core r.hslot f.a.toNat).val
      let tc := v.toNat % 256
      let th := v.toNat / 256 % 64
      let aim := s.teamOf tc th
      let picked (c h : Nat) : Bool := (s.group c h).alloc && !(c == r.core && (s.group c h).team == (s.group r.core r.hslot).team) && (if whole then (s.teamOf c h).ctx.asid == aim.ctx.asid && (s.teamOf c h).part == aim.part else c == tc && (s.group c h).team == (s.group tc th).team)
      let busy (c h : Nat) : Prop := on = true ∧ picked c h = true ∧ runsPass s c h = true
      ∃ (c h : Nat),
      ((i = .haltbTeam f ∧ on = true ∧ whole = false) ∨ (i = .haltbTrel f ∧ on = false ∧ whole = false) ∨ (i = .haltbCtx f ∧ on = true ∧ whole = true) ∨ (i = .haltbCrel f ∧ on = false ∧ whole = true)) ∧ (Starts s r) ∧ (Arrives s r i) ∧ (guardHolds (strandAt s r (s.frag r).refSlot) f.guard f.gn = true) ∧ (SourcesReady s r (s.frag r).refSlot [{ isK := true, num := f.a.toNat }]) ∧ (targetStop s r v whole = none) ∧ ((s.group r.core r.hslot).alloc = true) ∧ (busy c h)) :=
  ⟨⟨(.haltbTrel (fu 0 12 0)), (fu 0 12 0), (sTwoT.modGroup 0 1 (fun g => { g with halted := true })), r0, false, false, by (try dsimp only); exact ⟨.inr (.inl ⟨rfl, rfl, rfl⟩), by decide +kernel, by decide +kernel, by decide +kernel, by decide +kernel, by decide +kernel, by decide +kernel, fun _ _ h => Bool.noConfusion h.1⟩⟩,
   ⟨(.haltbTeam (fu 0 12 0)), (fu 0 12 0), sBusy, r0, true, false, 0, 1, by decide +kernel⟩⟩

end Special

namespace System

def fu (d a b : BitVec 6) : FmtA := { exampleA with u := true, d := d, a := a, b := b }
def teamS : Team := { team4 with ctx := { asid := 1, sys := true } }
def sTwoS : State := { cur := some r0, nextId := 5, cores := [(0, { groups := [(0, { group4 with k := [(12, { val := 0x100 }), (13, { val := 0x2 })] }), (1, { group4 with team := 1, gid := 0, halted := true, k := [(2, { val := 99 })] }), (2, { group4 with team := 2 })], teams := [(0, teamS), (1, { teamS with index := 1 }), (2, { team4 with ctx := { asid := 2, addr := 77 } })], ibuf := [(1, 0x1000, 7)], atlb := [{ asid := 1, va := 0, bits := 15, leaf := none }, { asid := 2, va := 0, bits := 15, leaf := none }] }), (30, { ibuf := [(1, 0x1000, 7)] })], mscDirty := [3, 16, 40] }
def lreg : FmtA := { exampleA with d := 6, a := 4 }
def sL : State := st { group4 with frags := [(0, { frag4 with e := 0x7 })], cx := 254 } { team4 with strands := (List.range 3).map (fun i => (i, { regs := [(4, {val := 0x40 + 64 * i})] })) }
def tr1 : Tree := { present := [true,false,false,false,false,false,false], counts := [1,0,0,0,0,0,0,0,0,0,0,0,0,0], dtype := .i32, tests := [{ kind := .regImm, cond := .lt, ty := .i32, ka := false, kb := false, ea := false, eb := false, bimm := true, a := 1, b := 0, imm := 0 }], leaves := [{kind := .branch, offset := 8}, {kind := .exit, offset := 0}], ops := [{ op := .neg, f := { exampleA with d := 1, a := 1, ty := .i32 }, table := 0 }] }
def sT : State := st { group4 with frags := [(0, { frag4 with e := 0x7 })] } { team4 with strands := [(0, { regs := [(1, { val := 0xFFFFFFFB })] }), (1, { regs := [(1, { val := 3 })] }), (2, { regs := [(1, { val := 0xFFFFFFFE })] })] }
def trT : Tree := { tr1 with present := [false,false,false,false,false,false,false], counts := List.replicate 14 0, tests := [], leaves := [{kind := .trap, offset := 0}], ops := [] }
def fx : FmtA := { exampleA with d := 3, a := 1, b := 2, c := 4, ty := .i32 }
def sX : State := st { group4 with frags := [(0, { frag4 with e := 0x7 })], k := [(5, { val := 3 })] } { team4 with strands := [(0, { regs := [(1, { val := 100 }), (2, { val := 2 })] }), (1, { preds := 1, regs := [(1, { val := 101 }), (2, { val := 40 }), (4, { val := 9 })] }), (2, { regs := [(1, { val := 102 }), (2, { val := 3 }), (5, { val := 9 })] }), (3, { regs := [(1, { val := 103 }), (2, { val := 0 })] })] }
def fsc : FmtA := { exampleA with d := 6, a := 1, ty := .i32 }
def fq (a : Nat) : Fetch := { id := 4, core := 0, asid := a, line := 0, sector := 1, accs := [], stage := .home 0x8000 }
def tr2 : Tree := { tr1 with leaves := [{kind := .branch, offset := 8}, {kind := .trap, offset := 3}] }
def pt2 (s : State) (sl : Nat) : Nat × Path := match descend s r0 sl tr2 3 0 { preds := (strandAt s r0 sl).preds } with | .ok x => x | .error _ => (9, {preds := 0})

theorem witness_HaltAndInspect_2 :
    ∃ (i : Instr) (f : FmtA) (form : Nat) (s : State) (r : FragRef),
      let v := (s.kreg r.core r.hslot f.a.toNat).val
      let tc := v.toNat % 256
      let th := v.toNat / 256 % 64
      let g := s.group tc th
      let w := inspWord s tc th form (s.kreg r.core r.hslot f.b.toNat).val.toNat
      ((i, form) ∈ [(Instr.inspKreg f, 0), (.inspVreg f, 1), (.inspGrp f, 2), (.inspFrag f, 3), (.inspLmem f, 4), (.inspLfe f, 5), (.inspBar f, 6), (.inspQueue f, 7)]) ∧ (Starts s r) ∧ (Arrives s r i) ∧ (guardHolds (strandAt s r (s.frag r).refSlot) f.guard f.gn = true) ∧ (KDestReady s r f.d.toNat) ∧ (SourcesReady s r (s.frag r).refSlot [{ isK := true, num := f.a.toNat }, { isK := true, num := f.b.toNat }]) ∧ (targetStop s r v false = none) ∧ (g.halted = true ∨ (g.fault.isSome = true ∧ g.inHandler = false) ∨ (tc, th) = (r.core, r.hslot)) ∧ ((tc, th) = (r.core, r.hslot) → form ≠ 2 ∧ form ≠ 3) :=
  ⟨(.inspLmem (fu 9 12 13)), (fu 9 12 13), 4, sTwoS, r0, by decide +kernel⟩

theorem witness_MaintenanceCompletes :
    (∃ (f : FmtA) (s : State) (r : FragRef), (Starts s r) ∧ (guardHolds (strandAt s r (s.frag r).refSlot) f.guard f.gn = true) ∧ (Arrives s r (.cmntInst f)))
    ∧ (∃ (f : FmtA) (s : State) (r : FragRef), (Starts s r) ∧ (guardHolds (strandAt s r (s.frag r).refSlot) f.guard f.gn = true) ∧ (Arrives s r (.cmntIpkg f)))
    ∧ (∃ (f : FmtA) (s : State) (r : FragRef), ∃ (i : Instr), (Starts s r) ∧ (guardHolds (strandAt s r (s.frag r).refSlot) f.guard f.gn = true) ∧ ((s.teamOf r.core r.hslot).ctx.sys = false) ∧ (NoFault s r) ∧ (i ∈ [Instr.cmntWb f, .atlbiPage f, .atlbiAsid f, .atlbiAll f]))
    ∧ (∃ (f : FmtA) (s : State) (r : FragRef),
      let pa := (s.kreg r.core r.hslot f.a.toNat).val.toNat
      (Starts s r) ∧ (guardHolds (strandAt s r (s.frag r).refSlot) f.guard f.gn = true) ∧ ((s.teamOf r.core r.hslot).ctx.sys = true) ∧ (Arrives s r (.cmntWb f)) ∧ (SourcesReady s r (s.frag r).refSlot [{ isK := true, num := f.a.toNat }]) ∧ (pa < 2 ^ 38))
    ∧ (∃ (f : FmtA) (s : State) (r : FragRef),
      let asid := (s.kreg r.core r.hslot f.a.toNat).val.toNat % 2 ^ 16
      (Starts s r) ∧ (guardHolds (strandAt s r (s.frag r).refSlot) f.guard f.gn = true) ∧ ((s.teamOf r.core r.hslot).ctx.sys = true) ∧ (Arrives s r (.atlbiAsid f)) ∧ (SourcesReady s r (s.frag r).refSlot [{ isK := true, num := f.a.toNat }]) ∧ (∀ q ∈ s.fetches, q.asid ≠ asid))
    ∧ (∃ (f : FmtA) (s : State) (r : FragRef),
      let asid := (s.kreg r.core r.hslot f.a.toNat).val.toNat % 2 ^ 16
      (Starts s r) ∧ (guardHolds (strandAt s r (s.frag r).refSlot) f.guard f.gn = true) ∧ ((s.teamOf r.core r.hslot).ctx.sys = true) ∧ (Arrives s r (.atlbiAsid f)) ∧ (SourcesReady s r (s.frag r).refSlot [{ isK := true, num := f.a.toNat }]) ∧ ((∃ q ∈ s.fetches, q.asid = asid) ∨ (∃ q ∈ s.posted, q.asid = asid)))
    ∧ (∃ (f : FmtA) (s : State) (r : FragRef), (Starts s r) ∧ (guardHolds (strandAt s r (s.frag r).refSlot) f.guard f.gn = true) ∧ ((s.teamOf r.core r.hslot).ctx.sys = true) ∧ (Arrives s r (.atlbiAll f)) ∧ (s.fetches = []))
    ∧ (∃ (f : FmtA) (s : State) (r : FragRef), (Starts s r) ∧ (guardHolds (strandAt s r (s.frag r).refSlot) f.guard f.gn = true) ∧ ((s.teamOf r.core r.hslot).ctx.sys = true) ∧ (Arrives s r (.atlbiAll f)) ∧ (s.fetches ≠ [] ∨ s.posted ≠ []))
    ∧ (∃ (f : FmtA) (s : State) (r : FragRef),
      let va := (s.kreg r.core r.hslot f.a.toNat).val.toNat % 2 ^ 57
      let asid := (s.kreg r.core r.hslot f.b.toNat).val.toNat % 2 ^ 16
      let paged (a bits line : Nat) : Prop := a = asid ∧ leafBase bits (line * 256) = leafBase bits va
      (Starts s r) ∧ (guardHolds (strandAt s r (s.frag r).refSlot) f.guard f.gn = true) ∧ ((s.teamOf r.core r.hslot).ctx.sys = true) ∧ (Arrives s r (.atlbiPage f)) ∧ (SourcesReady s r (s.frag r).refSlot [{ isK := true, num := f.a.toNat }, { isK := true, num := f.b.toNat }]) ∧ (s.fetches = []))
    ∧ (∃ (f : FmtA) (s : State) (r : FragRef),
      let va := (s.kreg r.core r.hslot f.a.toNat).val.toNat % 2 ^ 57
      let asid := (s.kreg r.core r.hslot f.b.toNat).val.toNat % 2 ^ 16
      let paged (a bits line : Nat) : Prop := a = asid ∧ leafBase bits (line * 256) = leafBase bits va
      (Starts s r) ∧ (guardHolds (strandAt s r (s.frag r).refSlot) f.guard f.gn = true) ∧ ((s.teamOf r.core r.hslot).ctx.sys = true) ∧ (Arrives s r (.atlbiPage f)) ∧ (SourcesReady s r (s.frag r).refSlot [{ isK := true, num := f.a.toNat }, { isK := true, num := f.b.toNat }]) ∧ ((∃ q ∈ s.fetches, q.stage ≠ .walk ∧ paged q.asid q.bits q.line) ∨ (∃ q ∈ s.posted, q.stage ≠ .walk ∧ paged q.asid q.bits q.line))) :=
  ⟨⟨(fu 0 13 12), sTwoS, r0, by decide +kernel⟩,
   ⟨(fu 0 13 12), sTwoS, r0, by decide +kernel⟩,
   ⟨(fu 0 13 12), (st { group4 with k := [(13, { val := 3 })] } team4), r0, (.cmntWb (fu 0 13 12)), by decide +kernel⟩,
   ⟨(fu 0 13 12), sTwoS, r0, by decide +kernel⟩,
   ⟨(fu 0 13 12), sTwoS, r0, by decide +kernel⟩,
   ⟨(fu 0 13 12), { sTwoS with fetches := [fq 2] }, r0, by decide +kernel⟩,
   ⟨(fu 0 13 12), sTwoS, r0, by decide +kernel⟩,
   ⟨(fu 0 13 12), { sTwoS with fetches := [fq 2] }, r0, by decide +kernel⟩,
   ⟨(fu 0 13 12), sTwoS, r0, by decide +kernel⟩,
   ⟨(fu 0 13 12), { sTwoS with fetches := [fq 256] }, r0, by decide +kernel⟩⟩

theorem witness_LaunchCompletes :
    ∃ (f : FmtA) (s : State) (r : FragRef),
      let act := activeSlots s r f.guard f.gn 0
      let src : SrcReg := { isK := f.ka, num := f.a.toNat, pair := !f.ka, trap := f.ea }
      let a (sl : Nat) : W64 := (readSource s r sl src).1
      (Starts s r) ∧ ((s.frag r).acquires = []) ∧ (Distinct s r) ∧ (UnmergedAs s r (s.regionAt r (.launch f))) ∧ (act ≠ []) ∧ ((s.group r.core r.hslot).cx < 255) ∧ (∀ sl ∈ act, SourcesReady s r sl [src] ∧ sidAt s r sl < 2 ^ 64 ∧ (a sl).toNat < 2 ^ 61 ∧ (a sl).toNat % 64 = 0 ∧ VDestReady s r sl [f.d.toNat, f.d.toNat + 1]) :=
  ⟨lreg, sL, r0, by decide +kernel⟩

theorem witness_Trees :
    (∃ (tr : Tree) (s : State) (r : FragRef) (leaf : Nat → Nat) (p : Nat → Path),
      let act := slotsOf (s.frag r).e
      let start (sl : Nat) : Path := { preds := (strandAt s r sl).preds }
      let kind (sl : Nat) : LeafKind := (tr.leaves.getD (leaf sl) { kind := .next, offset := 0 }).kind
      let off (sl : Nat) : BitVec 30 := (tr.leaves.getD (leaf sl) { kind := .next, offset := 0 }).offset
      let out (sl : Nat) : Bool := act.contains sl && kind sl == .exit
      let traps := act.filter (fun sl => kind sl == .trap)
      (Starts s r) ∧ (Undivided s r) ∧ (Distinct s r) ∧ ((s.frag r).succs = []) ∧ (KAllSettled s r) ∧ (traps ≠ [] → NoFault s r) ∧ (∀ sl ∈ act, (s.frag r).m.getLsbD sl = true ∧ (p sl).pops = [] ∧ VDestReady s r sl (p sl).order ∧ (if tr.has 0 then descend s r sl tr 3 0 (start sl) else .ok (0, { start sl with cost := 1, steps := 1 })) = .ok (leaf sl, p sl)) ∧ (traps ≠ []))
    ∧ (∃ (tr : Tree) (s : State) (r : FragRef) (l : BitVec 30), (Starts s r) ∧ (Undivided s r) ∧ (Distinct s r) ∧ (NoFault s r) ∧ ((s.frag r).succs = []) ∧ ((s.frag r).e ≠ 0) ∧ ((s.frag r).e = (s.frag r).m) ∧ (tr.has 0 = false) ∧ (tr.leaves = [{ kind := .trap, offset := l }])) :=
  ⟨⟨tr2, sT, r0, (fun sl => (pt2 sT sl).1), (fun sl => (pt2 sT sl).2), by (try dsimp only); exact ⟨by decide +kernel, by decide +kernel, by decide +kernel, by decide +kernel, by decide +kernel, fun _ => by decide +kernel, allSlots (by decide +kernel) ⟨by decide +kernel, by decide +kernel, by decide +kernel, eq_ok (by decide +kernel)⟩ ⟨by decide +kernel, by decide +kernel, by decide +kernel, eq_ok (by decide +kernel)⟩ ⟨by decide +kernel, by decide +kernel, by decide +kernel, eq_ok (by decide +kernel)⟩, by decide +kernel⟩⟩,
   ⟨trT, s0, r0, 0, by decide +kernel⟩⟩

theorem witness_ExchangeCompletes :
    ∃ (i : Instr) (op : Nat) (f : FmtA) (s : State) (r : FragRef),
      let act := activeSlots s r f.guard f.gn 0
      let isrc : SrcReg := { isK := f.kb, num := f.b.toNat }
      let idx (sl : Nat) : Nat := match f.lit with | some v => v.toNat % 2 ^ 32 | none => (readSource s r (if i = .bcst f then act.headD 0 else sl) isrc).1.toNat % 2 ^ 32
      let src (sl : Nat) : Option Nat := if i = .xshf f then shiftSlot f.fn.toNat sl (idx sl) else if i = .shfx f then (if idx sl < 32 * (f.fn.toNat + 1) then some (idx sl % 32) else none) else some (idx sl)
      let reg (sl : Nat) : Nat := if i = .shfx f then f.a.toNat + idx sl / 32 else f.a.toNat
      let ok (sl : Nat) : Bool := match src sl with | some j => decide (j < 32) && (s.frag r).m.getLsbD j | none => false
      let val (sl : Nat) : W32 := if !ok sl then 0 else if f.ka then (s.kreg r.core r.hslot f.a.toNat).val.truncate 32 else (s.vreg r.core (s.group r.core r.hslot).team (sidAt s r ((src sl).getD 0)) ((s.frag r).wbase + reg sl)).val
      ((i, op) ∈ [(Instr.xchg f, 0x50), (.xshf f, 0x51), (.shfx f, 0x57), (.bcst f, 0x55)]) ∧ (i = .shfx f → f.ka = false) ∧ (Starts s r) ∧ (Arrives s r i) ∧ (Distinct s r) ∧ (∀ sl ∈ act, (f.lit = none → SourcesReady s r sl [isrc]) ∧ (f.ka = true → SourcesReady s r sl [{ isK := true, num := f.a.toNat }]) ∧ (f.ka = false → ok sl = true → SourcesReady s r ((src sl).getD 0) [{ isK := false, num := reg sl }]) ∧ VDestReady s r sl [f.d.toNat]) :=
  ⟨(.xchg fx), 0x50, fx, sX, r0, by (try dsimp only); exact ⟨by decide +kernel, by decide +kernel, by decide +kernel, by decide +kernel, by decide +kernel, allSlots (by decide +kernel) ⟨by decide +kernel, by decide +kernel, fun _ _ => by decide +kernel, by decide +kernel⟩ ⟨by decide +kernel, by decide +kernel, fun _ _ => by decide +kernel, by decide +kernel⟩ ⟨by decide +kernel, by decide +kernel, fun _ _ => by decide +kernel, by decide +kernel⟩⟩⟩

theorem witness_Collectives :
    (∃ (f : FmtA) (s : State) (r : FragRef),
      let act := activeSlots s r f.guard f.gn 0
      let ds := if f.ty.is64 then [f.d.toNat, f.d.toNat + 1] else [f.d.toNat]
      let op := f.fn.toNat % 8
      let run (l : List Nat) : Int := l.foldl (fun acc sl => (scanCombine f.ty f.mode op acc (readSource s r sl (scanSrc f)).1).1) (scanIdentity f.ty op)
      let upto (sl : Nat) : List Nat := act.filter (fun j => if f.fn.getLsbD 3 then decide (j < sl) else decide (j ≤ sl))
      (Starts s r) ∧ (Arrives s r (.scan f)) ∧ (Distinct s r) ∧ (∀ sl ∈ act, SourcesReady s r sl [scanSrc f] ∧ VDestReady s r sl ds))
    ∧ (∃ (f : FmtA) (s : State) (r : FragRef),
      let act := activeSlots s r f.guard f.gn 0
      let v (sl : Nat) : W64 := (readSource s r sl (scanSrc f)).1
      let out := act.foldl (fun acc sl => (scanCombine f.ty f.mode f.fn.toNat acc (v sl)).1) (scanIdentity f.ty f.fn.toNat)
      (Starts s r) ∧ (Arrives s r (.red f)) ∧ (Distinct s r) ∧ (∀ sl ∈ act, SourcesReady s r sl [scanSrc f]) ∧ (KDestReady s r f.d.toNat) ∧ (act ≠ []))
    ∧ (∃ (f : FmtA) (s : State) (r : FragRef),
      let act := activeSlots s r f.guard f.gn 0
      let q (sl : Nat) : Bool := (strandAt s r sl).preds16.getLsbD (f.a.toNat % 16)
      (Starts s r) ∧ (Arrives s r (.vote f)) ∧ (Distinct s r) ∧ (KDestReady s r f.d.toNat) ∧ (act ≠ []))
    ∧ (∃ (f : FmtA) (s : State) (r : FragRef),
      let act := activeSlots s r f.guard f.gn 0
      let src : SrcReg := { isK := f.ka, num := f.a.toNat, trap := f.ea }
      let rows := act.map (fun sl => (sl, (readSource s r sl src).1.toNat % 2 ^ 32))
      let cur := (s.kreg r.core r.hslot f.c.toNat).val.toNat
      let pair (k : Nat) : W64 × W64 := rbalFind rows (cur + k)
      (Starts s r) ∧ (Arrives s r (.rbal f)) ∧ (Distinct s r) ∧ (∀ sl ∈ act, SourcesReady s r sl [src] ∧ VDestReady s r sl [f.d.toNat, f.d.toNat + 1]) ∧ (KDestReady s r f.c.toNat) ∧ (KSettled s r f.c.toNat) ∧ ((s.kreg r.core r.hslot f.c.toNat).poison = false) ∧ (act ≠ [])) :=
  ⟨⟨fsc, sX, r0, by decide +kernel⟩,
   ⟨{fsc with ty := .n32}, sX, r0, by decide +kernel⟩,
   ⟨{exampleA with d := 7, a := 0}, sX, r0, by decide +kernel⟩,
   ⟨{exampleA with d := 6, a := 2, c := 5, kc := true, ty := .n32}, sX, r0, by decide +kernel⟩⟩

end System

namespace Accesses

def fm : FmtM := { exampleM with d := 4, base := 0, index := 1, kbase := true, size := 2, space := .local }
def tm50 : Team := { team4 with strands := [(0, { regs := [(1, { val := 0 }), (4, { val := 0xAABBCCDD }), (5, {val := 0x01020304})] }), (1, { regs := [(1, { val := 1 }), (4, { val := 0x11223344 })] }), (2, { regs := [(1, { val := 2 }), (4, { val := 0x55667788 })] }), (3, { regs := [(1, {val := 2})] })], mem := [(0x101, 3), (0x104, 7), (0x10B, 0x80)], full := [0x10], members := [(0, 0)] }
def g50 : GroupSlot := { group4 with frags := [(0, { frag4 with e := 0x7 })], k := [(0, { val := 0x100 }), (3, { val := 0x123456789 })] }
def s50 : State := st g50 tm50
def pl (s : State) (f : FmtM) (sl : Nat) : LocalAt := (localAt 0 0 (s.team 0 0) (f.space == .gang) (memAddr s r0 sl f true).toNat).getD ⟨9,9,9,false⟩
def tmA : Team := { tm50 with gangSize := 2, members := [(0, 0), (1, 0)] }
def tmB : Team := { team4 with gangSize := 2, gangPos := 1, index := 1, members := [(0, 0), (1, 0)], mem := [(0x101, 3), (0x104, 7), (0x10B, 0x80)], full := [0x10], strands := [] }
def sFar : State := (st { g50 with k := [(0, { val := 0x1100 }), (3, { val := 0x123456789 })] } tmA).setCore 1 { teams := [(0, tmB)] }
def fg : FmtM := { fm with space := .global }
def s51 : State := s50.modCore 0 (fun k => { k with atlb := [{ asid := 1, va := 0, bits := 15, leaf := some { frame := 1, rd := true, w := true, reach := 0 } }] })
def fl : FmtM := { fm with space := .lane, kbase := true, base := 5 }
def s52 : State := ((st { g50 with k := [(5, { val := 8 })] } { tm50 with pbase := 0x2000 }).modCore 0 (fun k => { k with atlb := [{ asid := 1, va := 0, bits := 15, leaf := some { frame := 1, rd := true, w := true, reach := 0 } }] }))
def ga (k : AccKind) (w : GangWhat) : GangAcc := { acc := { kind := k, core := 0, hslot := 0, sid := 1, slot := 1, uni := false, addr := 0x1104, pc := 0x1000, word := 0, size := 8, pos := 4, asid := 1, data := 0xAABBCCDD11223344 }, core := 1, team := 0, off := 0x100, at_ := 4, what := w, clk := 2 }
def sGang (x : GangAcc) : State := { sFar with gang := [x] }.modCore 0 (fun k => { k with cycle := 4 })
def sLdf (x : GangAcc) (fl : List Nat) : State := { (sGang x).modCore 1 (fun k => { k with teams := [(0, { tmB with full := fl })] }) with }.modGroup 0 0 (fun g => { g with frags := [(0, { frag4 with e := 7, wait := .remote false, resume := 1, instr := some (.ldf { fm with space := .gang }) })] })

theorem witness_LocalAccesses :
    (∃ (i : Instr) (f : FmtM) (s : State) (r : FragRef) (p : Nat → LocalAt),
      let act := memSlots s r f
      let n := memBytes f
      let grans (sl : Nat) : List Nat := granules (p sl).off n
      let clear : Bool := match i with | .ldf f => f.prio == 1 | _ => false
      let far (sl : Nat) : Bool := (p sl).far r
      (i = .ld f ∨ i = .ldf f) ∧ (MemStarts s r i f) ∧ (∀ sl ∈ act, SourcesReady s r sl (addrSrcs f true) ∧ FillReady s r sl f.u (dataRegs f) ∧ LocalGood s r sl f (memAddr s r sl f true) n true false (p sl) ∧ (i = .ldf f → (p sl).far r = false ∧ localFull (s.team (p sl).core (p sl).team) (grans sl) = true)) ∧ (clear = true → ∀ sl ∈ act, ∀ sl' ∈ act, sl ≠ sl' → (p sl).core = (p sl').core → (p sl).team = (p sl').team → ∀ g ∈ grans sl, g ∉ grans sl'))
    ∧ (∃ (i : Instr) (f : FmtM) (s : State) (r : FragRef) (p : Nat → LocalAt),
      let act := memSlots s r f
      let n := memBytes f
      let near := act.filter (fun sl => !(p sl).far r)
      (i = .st f ∨ i = .stf f) ∧ (MemStarts s r i f) ∧ (NoClaspWait s r) ∧ (LocalMemoryOk s) ∧ (∀ sl ∈ act, SourcesReady s r sl (addrSrcs f true) ∧ SourcesReady s r sl (dataSrcs f (dataRegs f)) ∧ LocalGood s r sl f (memAddr s r sl f true) n false true (p sl)))
    ∧ (∃ (f : FmtM) (s : State) (r : FragRef) (sl : Nat) (rest : List Nat) (p : LocalAt), (MemStarts s r (.ldf f) f) ∧ (memSlots s r f = sl :: rest) ∧ (SourcesReady s r sl (addrSrcs f true)) ∧ (FillReady s r sl f.u (dataRegs f)) ∧ (LocalGood s r sl f (memAddr s r sl f true) (memBytes f) true false p) ∧ (p.far r = true))
    ∧ (∃ (s : State) (c : Nat) (x : GangAcc), (s.gang = [x]) ∧ (x.acc.core = c) ∧ (x.at_ ≤ (s.core c).cycle) ∧ (LocalMemoryOk s) ∧ (((s.core x.core).teams.find? x.team).isSome = true) ∧ (x.what = .read) ∧ (x.acc.kind = .load) ∧ (x.acc.dead = false) ∧ (localBad (s.team x.core x.team) x.off x.acc.size = false))
    ∧ (∃ (s : State) (c : Nat) (x : GangAcc), ∃ (clr : Bool),
      let gs := granules x.off x.acc.size
      (s.gang = [x]) ∧ (x.acc.core = c) ∧ (x.at_ ≤ (s.core c).cycle) ∧ (LocalMemoryOk s) ∧ (((s.core x.core).teams.find? x.team).isSome = true) ∧ (x.what = .ldf clr) ∧ (x.acc.kind = .load) ∧ ((s.frag (holder x)).wait = .remote false) ∧ ((s.frag (holder x)).instr.isSome = true) ∧ (localBad (s.team x.core x.team) x.off x.acc.size = false) ∧ (localFull (s.team x.core x.team) gs = true))
    ∧ (∃ (s : State) (c : Nat) (x : GangAcc), ∃ (clr : Bool),
      let gs := granules x.off x.acc.size
      (s.gang = [x]) ∧ (x.acc.core = c) ∧ (x.at_ ≤ (s.core c).cycle) ∧ (LocalMemoryOk s) ∧ (((s.core x.core).teams.find? x.team).isSome = true) ∧ (x.what = .ldf clr) ∧ (x.acc.kind = .load) ∧ ((s.frag (holder x)).wait = .remote false) ∧ ((s.frag (holder x)).instr.isSome = true) ∧ (localBad (s.team x.core x.team) x.off x.acc.size = false) ∧ (localFull (s.team x.core x.team) gs = false))
    ∧ (∃ (s : State) (c : Nat) (x : GangAcc), ∃ (clr : Bool),
      let gs := granules x.off x.acc.size
      ∃ (k : Nat) (u : Nat) (g : Nat),
      (s.gang = [x]) ∧ (x.acc.core = c) ∧ (x.at_ ≤ (s.core c).cycle) ∧ (LocalMemoryOk s) ∧ (((s.core x.core).teams.find? x.team).isSome = true) ∧ (x.what = .ldf clr) ∧ (x.acc.kind = .load) ∧ ((s.frag (holder x)).wait = .remote false) ∧ ((s.frag (holder x)).instr.isSome = true) ∧ (localBad (s.team x.core x.team) x.off x.acc.size = false) ∧ (localFull (s.team x.core x.team) gs = true))
    ∧ (∃ (s : State) (c : Nat) (x : GangAcc), ∃ (clr : Bool),
      let gs := granules x.off x.acc.size
      ∃ (k : Nat) (u : Nat),
      (s.gang = [x]) ∧ (x.acc.core = c) ∧ (x.at_ ≤ (s.core c).cycle) ∧ (LocalMemoryOk s) ∧ (((s.core x.core).teams.find? x.team).isSome = true) ∧ (x.what = .ldf clr) ∧ (x.acc.kind = .load) ∧ ((s.frag (holder x)).wait = .remote false) ∧ ((s.frag (holder x)).instr.isSome = true) ∧ (localBad (s.team x.core x.team) x.off x.acc.size = false) ∧ (localFull (s.team x.core x.team) gs = false))
    ∧ (∃ (s : State) (c : Nat) (x : GangAcc), ∃ (fill : Bool), ∃ (j : Nat), (s.gang = [x]) ∧ (x.acc.core = c) ∧ (x.at_ ≤ (s.core c).cycle) ∧ (LocalMemoryOk s) ∧ (((s.core x.core).teams.find? x.team).isSome = true) ∧ (x.what = .write fill) ∧ (x.acc.kind = .store) ∧ (j < x.acc.size))
    ∧ (∃ (s : State) (c : Nat) (x : GangAcc), ∃ (fill : Bool), ∃ (k : Nat) (u : Nat) (o : Nat), (s.gang = [x]) ∧ (x.acc.core = c) ∧ (x.at_ ≤ (s.core c).cycle) ∧ (LocalMemoryOk s) ∧ (((s.core x.core).teams.find? x.team).isSome = true) ∧ (x.what = .write fill) ∧ (x.acc.kind = .store) ∧ (¬ (k = x.core ∧ u = x.team ∧ x.off ≤ o ∧ o < x.off + x.acc.size))) :=
  ⟨⟨(.ld fm), fm, s50, r0, (pl s50 fm), by refine ⟨?_, ?_, ?_, ?_⟩ <;> first | decide +kernel | exact eq_ok (by decide +kernel) | exact eq_next (by decide +kernel) | (intro _ h; cases h; done)⟩,
   ⟨(.st fm), fm, s50, r0, (pl s50 fm), by refine ⟨?_, ?_, ?_, ?_, ?_⟩ <;> first | decide +kernel | exact noClasp (by decide +kernel)⟩,
   ⟨{fm with space := .gang}, sFar, r0, 0, [1,2], (pl sFar {fm with space := .gang} 0), by decide +kernel⟩,
   ⟨(sGang (ga .load .read)), 0, (ga .load .read), by decide +kernel⟩,
   ⟨(sLdf (ga .load (.ldf true)) [0x10]), 0, (ga .load (.ldf true)), true, by decide +kernel⟩,
   ⟨(sLdf (ga .load (.ldf true)) []), 0, (ga .load (.ldf true)), true, by decide +kernel⟩,
   ⟨(sLdf (ga .load (.ldf true)) [0x10]), 0, (ga .load (.ldf true)), true, 0, 0, 16, by decide +kernel⟩,
   ⟨(sLdf (ga .load (.ldf true)) []), 0, (ga .load (.ldf true)), true, 0, 0, by decide +kernel⟩,
   ⟨(sGang (ga .store (.write true))), 0, (ga .store (.write true)), true, 0, by decide +kernel⟩,
   ⟨(sGang (ga .store (.write true))), 0, (ga .store (.write true)), true, 0, 0, 5, by decide +kernel⟩⟩

theorem witness_GlobalAccesses :
    (∃ (f : FmtM) (s : State) (r : FragRef),
      let act := memSlots s r f
      let a (sl : Nat) : W64 := memAddr s r sl f true
      (MemStarts s r (.ld f) f) ∧ (f.space = .global ∨ f.space = .lane) ∧ (∀ sl ∈ act, SourcesReady s r sl (addrSrcs f true) ∧ FillReady s r sl f.u (dataRegs f) ∧ ReachGood s r sl f (a sl) true false .load) ∧ (AccessRoom s r (2 * act.length) (2 * act.length)))
    ∧ (∃ (f : FmtM) (s : State) (r : FragRef),
      let act := memSlots s r f
      let n := memBytes f
      let a (sl : Nat) : W64 := memAddr s r sl f true
      let data (sl : Nat) : Nat := memData s r sl f (dataRegs f) % 2 ^ (8 * n)
      (MemStarts s r (.st f) f) ∧ (f.space = .global ∨ f.space = .lane) ∧ (∀ sl ∈ act, SourcesReady s r sl (addrSrcs f true) ∧ SourcesReady s r sl (dataSrcs f (dataRegs f)) ∧ ReachGood s r sl f (a sl) false true .store) ∧ (AccessRoom s r (2 * act.length) (2 * act.length)) ∧ (f.space = .global))
    ∧ (∃ (f : FmtM) (s : State) (r : FragRef),
      let act := memSlots s r f
      let n := memBytes f
      let a (sl : Nat) : W64 := memAddr s r sl f true
      let data (sl : Nat) : Nat := memData s r sl f (dataRegs f) % 2 ^ (8 * n)
      (MemStarts s r (.st f) f) ∧ (f.space = .global ∨ f.space = .lane) ∧ (∀ sl ∈ act, SourcesReady s r sl (addrSrcs f true) ∧ SourcesReady s r sl (dataSrcs f (dataRegs f)) ∧ ReachGood s r sl f (a sl) false true .store) ∧ (AccessRoom s r (2 * act.length) (2 * act.length)) ∧ (f.space = .lane)) :=
  ⟨⟨fg, s51, r0, by (try dsimp only); refine ⟨?_, ?_, ?_, ?_⟩ <;> first | decide +kernel | exact allSlots (by decide +kernel) (reachGood (by decide +kernel) (by decide +kernel) (by decide +kernel)) (reachGood (by decide +kernel) (by decide +kernel) (by decide +kernel)) (reachGood (by decide +kernel) (by decide +kernel) (by decide +kernel)) | exact allSlots (by decide +kernel) (And.intro (by decide +kernel) (And.intro (by decide +kernel) (reachGood (by decide +kernel) (by decide +kernel) (by decide +kernel)))) (And.intro (by decide +kernel) (And.intro (by decide +kernel) (reachGood (by decide +kernel) (by decide +kernel) (by decide +kernel)))) (And.intro (by decide +kernel) (And.intro (by decide +kernel) (reachGood (by decide +kernel) (by decide +kernel) (by decide +kernel))))⟩,
   ⟨fg, s51, r0, by (try dsimp only); refine ⟨?_, ?_, ?_, ?_, ?_⟩ <;> first | decide +kernel | exact allSlots (by decide +kernel) (reachGood (by decide +kernel) (by decide +kernel) (by decide +kernel)) (reachGood (by decide +kernel) (by decide +kernel) (by decide +kernel)) (reachGood (by decide +kernel) (by decide +kernel) (by decide +kernel)) | exact allSlots (by decide +kernel) (And.intro (by decide +kernel) (And.intro (by decide +kernel) (reachGood (by decide +kernel) (by decide +kernel) (by decide +kernel)))) (And.intro (by decide +kernel) (And.intro (by decide +kernel) (reachGood (by decide +kernel) (by decide +kernel) (by decide +kernel)))) (And.intro (by decide +kernel) (And.intro (by decide +kernel) (reachGood (by decide +kernel) (by decide +kernel) (by decide +kernel))))⟩,
   ⟨fl, s52, r0, by (try dsimp only); refine ⟨?_, ?_, ?_, ?_, ?_⟩ <;> first | decide +kernel | exact allSlots (by decide +kernel) (reachGood (by decide +kernel) (by decide +kernel) (by decide +kernel)) (reachGood (by decide +kernel) (by decide +kernel) (by decide +kernel)) (reachGood (by decide +kernel) (by decide +kernel) (by decide +kernel)) | exact allSlots (by decide +kernel) (And.intro (by decide +kernel) (And.intro (by decide +kernel) (reachGood (by decide +kernel) (by decide +kernel) (by decide +kernel)))) (And.intro (by decide +kernel) (And.intro (by decide +kernel) (reachGood (by decide +kernel) (by decide +kernel) (by decide +kernel)))) (And.intro (by decide +kernel) (And.intro (by decide +kernel) (reachGood (by decide +kernel) (by decide +kernel) (by decide +kernel))))⟩⟩

end Accesses

namespace Lines

def fm : FmtM := { exampleM with d := 4, base := 0, index := 1, kbase := true, size := 2, space := .local }
def tm50 : Team := { team4 with strands := [(0, { regs := [(1, { val := 0 }), (4, { val := 0xAABBCCDD }), (5, {val := 0x01020304})] }), (1, { regs := [(1, { val := 1 }), (4, { val := 0x11223344 })] }), (2, { regs := [(1, { val := 2 }), (4, { val := 0x55667788 })] }), (3, { regs := [(1, {val := 2})] })], mem := [(0x101, 3), (0x104, 7), (0x10B, 0x80)], full := [0x10], members := [(0, 0)] }
def g50 : GroupSlot := { group4 with frags := [(0, { frag4 with e := 0x7 })], k := [(0, { val := 0x100 }), (3, { val := 0x123456789 })] }
def s50 : State := st g50 tm50
def fg : FmtM := { fm with space := .global }
def s51 : State := s50.modCore 0 (fun k => { k with atlb := [{ asid := 1, va := 0, bits := 15, leaf := some { frame := 1, rd := true, w := true, reach := 0 } }] })
def oneE (s : State) : State := s.modGroup 0 0 (fun g => { g with frags := [(0, { frag4 with e := 1 })] })
def fln : FmtM := { fm with size := 6, index := 0, d := 4, base := 0 }
def pln (s : State) (f : FmtM) : LocalAt := (localAt 0 0 (s.team 0 0) (f.space == .gang) 0x100).getD ⟨9,9,9,false⟩
def fpf : FmtM := { fm with size := 6, index := 0, d := 0, base := 0, space := .global }
def kb (a : W64) (f : FmtM) (at_ : List TlbEntry) : State := (st { g50 with k := [(0, { val := a })], pkr := 0xFFFFFFFFFFFFFFFF } tm50).modCore 0 (fun k => { k with atlb := at_ })
def pk (rd : Bool) : TlbEntry := { asid := 1, va := 0, bits := 15, leaf := some { frame := 1, rd := rd, w := true, reach := 0, key := 3 } }

theorem witness_LinePrefetchAndTagAccesses :
    (∃ (f : FmtM) (s : State) (r : FragRef) (p : LocalAt),
      let act := activeSlots s r f.guard f.gn 0
      let a := memAddr s r (act.headD 0) f true
      let ns := [f.d.toNat, f.d.toNat + 1]
      (MemStarts s r (.ldline f) f) ∧ (f.u = false) ∧ (act ≠ [] → SourcesReady s r (act.headD 0) (addrSrcs f true)) ∧ (∀ sl ∈ act, VDestReady s r sl ns) ∧ (act ≠ [] → (f.space = .global ∧ a.toNat < 2 ^ 61 ∧ a.toNat % 256 = 0 ∧ PageGood s r (act.headD 0) a 256 true false .line ∧ AccessRoom s r act.length 4) ∨ LocalGood s r (act.headD 0) f a 256 true false p) ∧ (f.space = .global))
    ∧ (∃ (f : FmtM) (s : State) (r : FragRef) (p : LocalAt),
      let act := activeSlots s r f.guard f.gn 0
      let a := memAddr s r (act.headD 0) f true
      let ns := [f.d.toNat, f.d.toNat + 1]
      (MemStarts s r (.ldline f) f) ∧ (f.u = false) ∧ (act ≠ [] → SourcesReady s r (act.headD 0) (addrSrcs f true)) ∧ (∀ sl ∈ act, VDestReady s r sl ns) ∧ (act ≠ [] → (f.space = .global ∧ a.toNat < 2 ^ 61 ∧ a.toNat % 256 = 0 ∧ PageGood s r (act.headD 0) a 256 true false .line ∧ AccessRoom s r act.length 4) ∨ LocalGood s r (act.headD 0) f a 256 true false p) ∧ (f.space ≠ .global))
    ∧ (∃ (f : FmtM) (s : State) (r : FragRef) (p : LocalAt),
      let act := activeSlots s r f.guard f.gn 0
      let a := memAddr s r (act.headD 0) f true
      let v (sl k : Nat) : W32 := (s.vreg r.core (s.group r.core r.hslot).team (sidAt s r sl) ((s.frag r).wbase + f.d.toNat + k)).val
      (MemStarts s r (.stline f) f) ∧ (f.u = false) ∧ (NoClaspWait s r) ∧ (LocalMemoryOk s) ∧ (act ≠ [] → SourcesReady s r (act.headD 0) (addrSrcs f true)) ∧ (∀ sl ∈ act, SourcesReady s r sl (dataSrcs f [f.d.toNat, f.d.toNat + 1])) ∧ (act ≠ [] → (f.space = .global ∧ a.toNat < 2 ^ 61 ∧ a.toNat % 256 = 0 ∧ PageGood s r (act.headD 0) a 256 false true .sline ∧ AccessRoom s r act.length 1) ∨ LocalGood s r (act.headD 0) f a 256 false true p) ∧ (f.space = .global))
    ∧ (∃ (f : FmtM) (s : State) (r : FragRef) (p : LocalAt),
      let act := activeSlots s r f.guard f.gn 0
      let a := memAddr s r (act.headD 0) f true
      let v (sl k : Nat) : W32 := (s.vreg r.core (s.group r.core r.hslot).team (sidAt s r sl) ((s.frag r).wbase + f.d.toNat + k)).val
      (MemStarts s r (.stline f) f) ∧ (f.u = false) ∧ (NoClaspWait s r) ∧ (LocalMemoryOk s) ∧ (act ≠ [] → SourcesReady s r (act.headD 0) (addrSrcs f true)) ∧ (∀ sl ∈ act, SourcesReady s r sl (dataSrcs f [f.d.toNat, f.d.toNat + 1])) ∧ (act ≠ [] → (f.space = .global ∧ a.toNat < 2 ^ 61 ∧ a.toNat % 256 = 0 ∧ PageGood s r (act.headD 0) a 256 false true .sline ∧ AccessRoom s r act.length 1) ∨ LocalGood s r (act.headD 0) f a 256 false true p) ∧ (f.space ≠ .global))
    ∧ (∃ (f : FmtM) (s : State) (r : FragRef),
      let act := memSlots s r f
      let a (sl : Nat) : W64 := memAddr s r sl f true
      (∀ sl ∈ act, SourcesReady s r sl (addrSrcs f true)) ∧ (MemStarts s r (.pref f) f))
    ∧ (∃ (f : FmtM) (s : State) (r : FragRef),
      let act := memSlots s r f
      let a (sl : Nat) : W64 := memAddr s r sl f true
      (∀ sl ∈ act, SourcesReady s r sl (addrSrcs f true)) ∧ (MemStarts s r (.tagst f) f) ∧ (AccessRoom s r act.length act.length) ∧ (∀ sl ∈ act, (a sl).toNat < 2 ^ 61 ∧ (a sl).toNat % 32 = 0 ∧ PageGood s r sl (a sl) 32 false true .tagst))
    ∧ (∃ (f : FmtM) (s : State) (r : FragRef),
      let act := memSlots s r f
      let a (sl : Nat) : W64 := memAddr s r sl f true
      (∀ sl ∈ act, SourcesReady s r sl (addrSrcs f true)) ∧ (MemStarts s r (.tagld f) f) ∧ (AccessRoom s r act.length act.length) ∧ (∀ sl ∈ act, (a sl).toNat < 2 ^ 61 ∧ (a sl).toNat % 32 = 0 ∧ PageGood s r sl (a sl) 32 true false .tagld ∧ FillReady s r sl f.u [f.d.toNat])) :=
  ⟨⟨{fln with space := .global}, ((st { g50 with k := [(0, { val := 0x100 })] } {tm50 with strands := []}).modCore 0 (fun k => { k with atlb := (s51.core 0).atlb })), r0, (pln s50 fln), by (try dsimp only); exact ⟨by decide +kernel, by decide +kernel, by decide +kernel, by decide +kernel, fun _ => .inl ⟨by decide +kernel, by decide +kernel, by decide +kernel, pageGood (by decide +kernel), by decide +kernel⟩, by decide +kernel⟩⟩,
   ⟨fln, (st { g50 with k := [(0, { val := 0x100 })] } {tm50 with strands := [(0, {regs := [(4, { val := 0xAABBCCDD })]}), (1, {regs := [(5, { val := 0xAABBCCDD })]})]}), r0, (pln s50 fln), by (try dsimp only); exact ⟨by decide +kernel, by decide +kernel, by decide +kernel, by decide +kernel, fun _ => .inr (by decide +kernel), by decide +kernel⟩⟩,
   ⟨{fln with space := .global}, ((st { g50 with k := [(0, { val := 0x100 })] } {tm50 with strands := [(0, {regs := [(4, { val := 0xAABBCCDD })]}), (1, {regs := [(5, { val := 0xAABBCCDD })]})]}).modCore 0 (fun k => { k with atlb := (s51.core 0).atlb })), r0, (pln s50 fln), by (try dsimp only); exact ⟨by decide +kernel, by decide +kernel, noClasp (by decide +kernel), by decide +kernel, by decide +kernel, by decide +kernel, fun _ => .inl ⟨by decide +kernel, by decide +kernel, by decide +kernel, pageGood (by decide +kernel), by decide +kernel⟩, by decide +kernel⟩⟩,
   ⟨fln, (st { g50 with k := [(0, { val := 0x100 })] } {tm50 with strands := [(0, {regs := [(4, { val := 0xAABBCCDD })]}), (1, {regs := [(5, { val := 0xAABBCCDD })]})]}), r0, (pln s50 fln), by (try dsimp only); exact ⟨by decide +kernel, by decide +kernel, noClasp (by decide +kernel), by decide +kernel, by decide +kernel, by decide +kernel, fun _ => .inr (by decide +kernel), by decide +kernel⟩⟩,
   ⟨fpf, (oneE ((st { g50 with k := [(0, { val := 0x100 })] } {tm50 with strands := []}).modCore 0 (fun k => { k with atlb := (s51.core 0).atlb }))), r0, by decide +kernel⟩,
   ⟨fpf, (oneE ((st { g50 with k := [(0, { val := 0x100 })] } {tm50 with strands := []}).modCore 0 (fun k => { k with atlb := (s51.core 0).atlb }))), r0, by refine ⟨?_, ?_, ?_, ?_⟩ <;> first | decide +kernel | exact eq_ok (by decide +kernel) | exact eq_next (by decide +kernel) | (intro _ h; cases h; done)⟩,
   ⟨fpf, (oneE ((st { g50 with k := [(0, { val := 0x100 })] } {tm50 with strands := []}).modCore 0 (fun k => { k with atlb := (s51.core 0).atlb }))), r0, by refine ⟨?_, ?_, ?_, ?_⟩ <;> first | decide +kernel | exact eq_ok (by decide +kernel) | exact eq_next (by decide +kernel) | (intro _ h; cases h; done)⟩⟩

theorem witness_AccessFaults :
    (∃ (f : FmtM) (s : State) (r : FragRef) (sl : Nat) (rest : List Nat),
      let a := memAddr s r sl f true
      let faults (cause : Nat) : Prop := ∃ t x, exec (.ld f) s = .next t ∧ (t.group r.core r.hslot).fault = some x ∧ x.cause = cause ∧ x.fslot = sl ∧ x.faddr = a ∧ x.fpc = (s.frag r).pc ∧ StrandsSame s t r [] ∧ FlagsSame s t r ∧ t.mem = s.mem ∧ t.fills = s.fills ∧ t.fetches = s.fetches
      (MemStarts s r (.ld f) f) ∧ (memSlots s r f = sl :: rest) ∧ (SourcesReady s r sl (addrSrcs f true)) ∧ (NoFault s r) ∧ (f.space = .global) ∧ (2 ^ 61 ≤ a.toNat))
    ∧ (∃ (f : FmtM) (s : State) (r : FragRef) (sl : Nat) (rest : List Nat),
      let a := memAddr s r sl f true
      let faults (cause : Nat) : Prop := ∃ t x, exec (.ld f) s = .next t ∧ (t.group r.core r.hslot).fault = some x ∧ x.cause = cause ∧ x.fslot = sl ∧ x.faddr = a ∧ x.fpc = (s.frag r).pc ∧ StrandsSame s t r [] ∧ FlagsSame s t r ∧ t.mem = s.mem ∧ t.fills = s.fills ∧ t.fetches = s.fetches
      (MemStarts s r (.ld f) f) ∧ (memSlots s r f = sl :: rest) ∧ (SourcesReady s r sl (addrSrcs f true)) ∧ (NoFault s r) ∧ (f.space = .lane) ∧ (2 ^ 32 ≤ a.toNat))
    ∧ (∃ (f : FmtM) (s : State) (r : FragRef) (sl : Nat) (rest : List Nat),
      let a := memAddr s r sl f true
      let faults (cause : Nat) : Prop := ∃ t x, exec (.ld f) s = .next t ∧ (t.group r.core r.hslot).fault = some x ∧ x.cause = cause ∧ x.fslot = sl ∧ x.faddr = a ∧ x.fpc = (s.frag r).pc ∧ StrandsSame s t r [] ∧ FlagsSame s t r ∧ t.mem = s.mem ∧ t.fills = s.fills ∧ t.fetches = s.fetches
      (MemStarts s r (.ld f) f) ∧ (memSlots s r f = sl :: rest) ∧ (SourcesReady s r sl (addrSrcs f true)) ∧ (NoFault s r) ∧ (f.space = .local) ∧ ((s.teamOf r.core r.hslot).lsize ≤ a.toNat))
    ∧ (∃ (f : FmtM) (s : State) (r : FragRef) (sl : Nat) (rest : List Nat),
      let a := memAddr s r sl f true
      let faults (cause : Nat) : Prop := ∃ t x, exec (.ld f) s = .next t ∧ (t.group r.core r.hslot).fault = some x ∧ x.cause = cause ∧ x.fslot = sl ∧ x.faddr = a ∧ x.fpc = (s.frag r).pc ∧ StrandsSame s t r [] ∧ FlagsSame s t r ∧ t.mem = s.mem ∧ t.fills = s.fills ∧ t.fetches = s.fetches
      (MemStarts s r (.ld f) f) ∧ (memSlots s r f = sl :: rest) ∧ (SourcesReady s r sl (addrSrcs f true)) ∧ (NoFault s r) ∧ (f.space = .lane) ∧ (a.toNat < 2 ^ 32) ∧ ((s.teamOf r.core r.hslot).laneWords ≤ (a.toNat + memBytes f - 1) / 4))
    ∧ (∃ (f : FmtM) (s : State) (r : FragRef) (sl : Nat) (rest : List Nat),
      let a := memAddr s r sl f true
      let faults (cause : Nat) : Prop := ∃ t x, exec (.ld f) s = .next t ∧ (t.group r.core r.hslot).fault = some x ∧ x.cause = cause ∧ x.fslot = sl ∧ x.faddr = a ∧ x.fpc = (s.frag r).pc ∧ StrandsSame s t r [] ∧ FlagsSame s t r ∧ t.mem = s.mem ∧ t.fills = s.fills ∧ t.fetches = s.fetches
      (MemStarts s r (.ld f) f) ∧ (memSlots s r f = sl :: rest) ∧ (SourcesReady s r sl (addrSrcs f true)) ∧ (NoFault s r) ∧ (f.space = .global) ∧ (a.toNat < 2 ^ 61) ∧ (a.toNat % memBytes f ≠ 0))
    ∧ (∃ (f : FmtM) (s : State) (r : FragRef) (sl : Nat) (rest : List Nat),
      let a := memAddr s r sl f true
      let faults (cause : Nat) : Prop := ∃ t x, exec (.ld f) s = .next t ∧ (t.group r.core r.hslot).fault = some x ∧ x.cause = cause ∧ x.fslot = sl ∧ x.faddr = a ∧ x.fpc = (s.frag r).pc ∧ StrandsSame s t r [] ∧ FlagsSame s t r ∧ t.mem = s.mem ∧ t.fills = s.fills ∧ t.fetches = s.fetches
      (MemStarts s r (.ld f) f) ∧ (memSlots s r f = sl :: rest) ∧ (SourcesReady s r sl (addrSrcs f true)) ∧ (NoFault s r) ∧ (f.space = .local) ∧ (a.toNat < (s.teamOf r.core r.hslot).lsize) ∧ (a.toNat % memBytes f ≠ 0))
    ∧ (∃ (f : FmtM) (s : State) (r : FragRef) (sl : Nat) (rest : List Nat),
      let a := memAddr s r sl f true
      let faults (cause : Nat) : Prop := ∃ t x, exec (.ld f) s = .next t ∧ (t.group r.core r.hslot).fault = some x ∧ x.cause = cause ∧ x.fslot = sl ∧ x.faddr = a ∧ x.fpc = (s.frag r).pc ∧ StrandsSame s t r [] ∧ FlagsSame s t r ∧ t.mem = s.mem ∧ t.fills = s.fills ∧ t.fetches = s.fetches
      ∃ (e : TlbEntry) (l : PageLeaf),
      (MemStarts s r (.ld f) f) ∧ (memSlots s r f = sl :: rest) ∧ (SourcesReady s r sl (addrSrcs f true)) ∧ (NoFault s r) ∧ (f.space = .global) ∧ (a.toNat < 2 ^ 61) ∧ (a.toNat % memBytes f = 0) ∧ (watched s r sl 0 (a.toNat % 2 ^ 57) (memBytes f) true false = none) ∧ (tlbFind s r.core (s.teamOf r.core r.hslot).ctx.asid (a.toNat % 2 ^ 57) = some e) ∧ (e.leaf = some l) ∧ (l.rd = false))
    ∧ (∃ (f : FmtM) (s : State) (r : FragRef) (sl : Nat) (rest : List Nat),
      let a := memAddr s r sl f true
      let faults (cause : Nat) : Prop := ∃ t x, exec (.ld f) s = .next t ∧ (t.group r.core r.hslot).fault = some x ∧ x.cause = cause ∧ x.fslot = sl ∧ x.faddr = a ∧ x.fpc = (s.frag r).pc ∧ StrandsSame s t r [] ∧ FlagsSame s t r ∧ t.mem = s.mem ∧ t.fills = s.fills ∧ t.fetches = s.fetches
      ∃ (e : TlbEntry) (l : PageLeaf),
      (MemStarts s r (.ld f) f) ∧ (memSlots s r f = sl :: rest) ∧ (SourcesReady s r sl (addrSrcs f true)) ∧ (NoFault s r) ∧ (f.space = .global) ∧ (a.toNat < 2 ^ 61) ∧ (a.toNat % memBytes f = 0) ∧ (watched s r sl 0 (a.toNat % 2 ^ 57) (memBytes f) true false = none) ∧ (tlbFind s r.core (s.teamOf r.core r.hslot).ctx.asid (a.toNat % 2 ^ 57) = some e) ∧ (e.leaf = some l) ∧ (l.rd = true) ∧ (keyDenies (passPkr s r) l.key false = true)) :=
  ⟨⟨fg, (kb 0x2000000000000000 fg []), r0, 0, [1,2], by decide +kernel⟩,
   ⟨{fm with space := .lane}, (kb 0x100000000 fg []), r0, 0, [1,2], by decide +kernel⟩,
   ⟨fm, (kb 0x1000 fg []), r0, 0, [1,2], by decide +kernel⟩,
   ⟨{fm with space := .lane}, (kb 0x100 fg []), r0, 0, [1,2], by decide +kernel⟩,
   ⟨fg, (kb 0x101 fg []), r0, 0, [1,2], by decide +kernel⟩,
   ⟨fm, (kb 0x101 fg []), r0, 0, [1,2], by decide +kernel⟩,
   ⟨fg, (kb 0x100 fg [pk false]), r0, 0, [1,2], (pk false), { frame := 1, rd := false, w := true, reach := 0, key := 3 }, by decide +kernel⟩,
   ⟨fg, (kb 0x100 fg [pk true]), r0, 0, [1,2], (pk true), { frame := 1, rd := true, w := true, reach := 0, key := 3 }, by decide +kernel⟩⟩

end Lines

namespace Atomics

def fm : FmtM := { exampleM with d := 4, base := 0, index := 1, kbase := true, size := 2, space := .local }
def tm50 : Team := { team4 with strands := [(0, { regs := [(1, { val := 0 }), (4, { val := 0xAABBCCDD }), (5, {val := 0x01020304})] }), (1, { regs := [(1, { val := 1 }), (4, { val := 0x11223344 })] }), (2, { regs := [(1, { val := 2 }), (4, { val := 0x55667788 })] }), (3, { regs := [(1, {val := 2})] })], mem := [(0x101, 3), (0x104, 7), (0x10B, 0x80)], full := [0x10], members := [(0, 0)] }
def g50 : GroupSlot := { group4 with frags := [(0, { frag4 with e := 0x7 })], k := [(0, { val := 0x100 }), (3, { val := 0x123456789 })] }
def s50 : State := st g50 tm50
def pl (s : State) (f : FmtM) (sl : Nat) : LocalAt := (localAt 0 0 (s.team 0 0) (f.space == .gang) (memAddr s r0 sl f true).toNat).getD ⟨9,9,9,false⟩
def s51 : State := s50.modCore 0 (fun k => { k with atlb := [{ asid := 1, va := 0, bits := 15, leaf := some { frame := 1, rd := true, w := true, reach := 0 } }] })
def oneE (s : State) : State := s.modGroup 0 0 (fun g => { g with frags := [(0, { frag4 with e := 1 })] })
def tmA : Team := { tm50 with gangSize := 2, members := [(0, 0), (1, 0)] }
def tmB : Team := { team4 with gangSize := 2, gangPos := 1, index := 1, members := [(0, 0), (1, 0)], mem := [(0x101, 3), (0x104, 7), (0x10B, 0x80)], full := [0x10], strands := [] }
def sFar : State := (st { g50 with k := [(0, { val := 0x1100 }), (3, { val := 0x123456789 })] } tmA).setCore 1 { teams := [(0, tmB)] }
def fat : FmtM := { fm with size := 2 }
def fdq : FmtM := { exampleM with d := 4, base := 0, kbase := true, size := 3 }
def ff : FmtM := { exampleM with u := true, order := 3, obs := 0x3f }
def fu (d a b : BitVec 6) : FmtA := { exampleA with u := true, d := d, a := a, b := b }
def tb (bs : SMap Barrier) : Team := { team4 with strands := (List.range 5).map (fun i => (i, {})), bars := bs }
def fc : FmtM := { exampleM with d := 4, base := 0, kbase := true, size := 4, space := .local }
def fcg : FmtM := { fc with space := .gang }
def gac (w : GangWhat) : GangAcc := { acc := { kind := .store, core := 0, hslot := 0, sid := 1, slot := 1, uni := false, addr := 0x1104, pc := 0x1000, word := 0, size := 16, pos := 4, asid := 1, data := 0x80000003 }, core := 1, team := 0, off := 0x100, at_ := 4, what := w, clk := 2 }
def gacw (w : GangWhat) (u : Bool) : GangAcc := { gac w with acc := { (gac w).acc with kind := .load, uni := u, data := 1 } }
def sWt : State := sFar.modGroup 0 0 (fun g => { g with frags := [(0, { frag4 with e := 7, wait := .remote false, resume := 1, instr := some (.clwait fcg) })] })
def sBr : State := (st { group4 with k := [(21, { val := 1 })] } { tb [(0, {phase := true, abandoned := true, arrived := [4], clk := 50})] with strands := (List.range 5).map (fun i => (i, { preds := 1 })) }).setGroup 0 1 { group4 with gid := 1, sids := [(0, 4)], frags := [(2, { frag4 with m := 1, e := 1, wait := .bar 0 true 7 })] }

theorem witness_AtomicsAndDeques :
    (∃ (i : Instr) (op : Nat) (f : FmtM) (s : State) (r : FragRef) (p : Nat → LocalAt),
      let act := memSlots s r f
      let n := memBytes f
      let a (sl : Nat) : W64 := memAddr s r sl f true
      let near := act.filter (fun sl => !(p sl).far r)
      let w := if f.u then 10 else if n = 8 ∨ op = 0x98 ∧ sgnBit f = true then 20 else 10
      ((i, op) ∈ atomics f) ∧ (MemStarts s r i f) ∧ (∀ sl ∈ act, SourcesReady s r sl (addrSrcs f true) ∧ SourcesReady s r sl (dataSrcs f (atomicIn op f)) ∧ FillReady s r sl f.u (atomicOut f)) ∧ (f.space = .global) ∧ ((s.group r.core r.hslot).cx < 255) ∧ (AccessRoom s r act.length 0) ∧ (∀ sl ∈ act, ReachGood s r sl f (a sl) true true (atomicKind op f)))
    ∧ (∃ (i : Instr) (op : Nat) (f : FmtM) (s : State) (r : FragRef) (p : Nat → LocalAt),
      let act := memSlots s r f
      let n := memBytes f
      let a (sl : Nat) : W64 := memAddr s r sl f true
      let near := act.filter (fun sl => !(p sl).far r)
      let w := if f.u then 10 else if n = 8 ∨ op = 0x98 ∧ sgnBit f = true then 20 else 10
      ((i, op) ∈ atomics f) ∧ (MemStarts s r i f) ∧ (∀ sl ∈ act, SourcesReady s r sl (addrSrcs f true) ∧ SourcesReady s r sl (dataSrcs f (atomicIn op f)) ∧ FillReady s r sl f.u (atomicOut f)) ∧ (NoClaspWait s r) ∧ (LocalMemoryOk s) ∧ (∀ sl ∈ act, LocalGood s r sl f (a sl) n true true (p sl)) ∧ (noResult f = true))
    ∧ (∃ (w old x : Nat) (sg : Bool),
      let lt (u v : Nat) : Prop := if sg then (BitVec.ofNat w u).toInt ≤ (BitVec.ofNat w v).toInt else u ≤ v
      (w = 32 ∨ w = 64) ∧ (old < 2 ^ w) ∧ (x < 2 ^ w) ∧ (lt old x))
    ∧ (∃ (w old x : Nat) (sg : Bool),
      let lt (u v : Nat) : Prop := if sg then (BitVec.ofNat w u).toInt ≤ (BitVec.ofNat w v).toInt else u ≤ v
      (w = 32 ∨ w = 64) ∧ (old < 2 ^ w) ∧ (x < 2 ^ w) ∧ (¬ lt old x))
    ∧ (∃ (w old x : Nat) (sg : Bool),
      let lt (u v : Nat) : Prop := if sg then (BitVec.ofNat w u).toInt ≤ (BitVec.ofNat w v).toInt else u ≤ v
      ∃ (y : Nat),
      (w = 32 ∨ w = 64) ∧ (old < 2 ^ w) ∧ (x < 2 ^ w) ∧ (y < 2 ^ w))
    ∧ (∃ (w old x : Nat) (sg : Bool),
      let lt (u v : Nat) : Prop := if sg then (BitVec.ofNat w u).toInt ≤ (BitVec.ofNat w v).toInt else u ≤ v
      let fsum (t : Ty) (a b : Nat) : Nat := (Num.deliverF t .rne (Num.sumX .rne [Num.fval t a, Num.fval t b]).1).1
      (w = 32 ∨ w = 64) ∧ (old < 2 ^ w) ∧ (x < 2 ^ w) ∧ (w = 32) ∧ (Num.fval .f32 old = .nan ∨ Num.fval .f32 x = .nan))
    ∧ (∃ (i : Instr) (kind : AccKind) (f : FmtM) (s : State) (r : FragRef),
      let act := memSlots s r f
      let a (sl : Nat) : W64 := memAddr s r sl f false
      let vals := (List.range (if f.u then 1 else 2)).map (f.d.toNat + ·)
      let outs := (if kind = .dqpush then [] else vals) ++ [f.d.toNat + (if f.u then 1 else 2)]
      ((i, kind) ∈ [(Instr.dqpush f, AccKind.dqpush), (.dqpop f, .dqpop), (.dqsteal f, .dqsteal)]) ∧ (MemStarts s r i f) ∧ (AccessRoom s r act.length 0) ∧ (∀ sl ∈ act, SourcesReady s r sl (addrSrcs f false) ∧ (kind = .dqpush → SourcesReady s r sl (dataSrcs f vals)) ∧ FillReady s r sl f.u outs ∧ (a sl).toNat < 2 ^ 61 ∧ (a sl).toNat % 64 = 0 ∧ PageGood s r sl (a sl) 64 true true kind)) :=
  ⟨⟨(.acas {fat with size := 3, space := .global}), 0x97, {fat with size := 3, space := .global}, s51, r0, (pl s50 fat), by (try dsimp only); refine ⟨?_, ?_, ?_, ?_, ?_, ?_, ?_⟩ <;> first | decide +kernel | exact allSlots (by decide +kernel) (reachGood (by decide +kernel) (by decide +kernel) (by decide +kernel)) (reachGood (by decide +kernel) (by decide +kernel) (by decide +kernel)) (reachGood (by decide +kernel) (by decide +kernel) (by decide +kernel)) | exact allSlots (by decide +kernel) (And.intro (by decide +kernel) (And.intro (by decide +kernel) (reachGood (by decide +kernel) (by decide +kernel) (by decide +kernel)))) (And.intro (by decide +kernel) (And.intro (by decide +kernel) (reachGood (by decide +kernel) (by decide +kernel) (by decide +kernel)))) (And.intro (by decide +kernel) (And.intro (by decide +kernel) (reachGood (by decide +kernel) (by decide +kernel) (by decide +kernel))))⟩,
   ⟨(.aadd {fat with prio := 3}), 0x90, {fat with prio := 3}, s50, r0, (pl s50 fat), by refine ⟨?_, ?_, ?_, ?_, ?_, ?_, ?_⟩ <;> first | decide +kernel | exact noClasp (by decide +kernel)⟩,
   ⟨32, 0xFFFFFFFF, 5, true, by decide +kernel⟩,
   ⟨32, 5, 0xFFFFFFFF, true, by decide +kernel⟩,
   ⟨64, 5, 9, false, 6, by decide +kernel⟩,
   ⟨32, 0x7FC00000, 0, false, by decide +kernel⟩,
   ⟨(.dqpop fdq), .dqpop, fdq, s51, r0, by (try dsimp only); exact ⟨by decide +kernel, by decide +kernel, by decide +kernel, allSlots (by decide +kernel) ⟨by decide +kernel, by decide +kernel, by decide +kernel, by decide +kernel, by decide +kernel, pageGood (by decide +kernel)⟩ ⟨by decide +kernel, by decide +kernel, by decide +kernel, by decide +kernel, by decide +kernel, pageGood (by decide +kernel)⟩ ⟨by decide +kernel, by decide +kernel, by decide +kernel, by decide +kernel, by decide +kernel, pageGood (by decide +kernel)⟩⟩⟩⟩

theorem witness_FencesAndBarriers :
    (∃ (s : State) (r : FragRef), ∃ f : FmtM,
      let upto := s.nextId + (if s.follow.isSome then 1 else 0)
      let done := fenceDone s r.core r.hslot upto (inHandlerAt s r) (f.order.getLsbD 0) (if f.order.getLsbD 1 then some f.obs else none)
      (Starts s r) ∧ ((s.frag r).acquires = []) ∧ (UnmergedAs s r (s.regionAt r (.fence f))) ∧ (done = true))
    ∧ (∃ (s : State) (r : FragRef), ∃ f : FmtM,
      let upto := s.nextId + (if s.follow.isSome then 1 else 0)
      let done := fenceDone s r.core r.hslot upto (inHandlerAt s r) (f.order.getLsbD 0) (if f.order.getLsbD 1 then some f.obs else none)
      (Starts s r) ∧ ((s.frag r).acquires = []) ∧ (UnmergedAs s r (s.regionAt r (.fence f))) ∧ (done = false))
    ∧ (∃ (s : State) (r : FragRef), ∃ (f : FmtA) (n : Byte),
      let count := match f.fn.toNat with | 0 => (s.group r.core r.hslot).cy | 1 => (s.group r.core r.hslot).cm | _ => (s.group r.core r.hslot).cx
      (Starts s r) ∧ (Arrives s r (.waitc f n)) ∧ (count ≤ n.toNat))
    ∧ (∃ (s : State) (r : FragRef), ∃ (f : FmtA) (n : Byte),
      let count := match f.fn.toNat with | 0 => (s.group r.core r.hslot).cy | 1 => (s.group r.core r.hslot).cm | _ => (s.group r.core r.hslot).cx
      (Starts s r) ∧ (Arrives s r (.waitc f n)) ∧ (n.toNat < count))
    ∧ (∃ (f : FmtA) (s : State) (r : FragRef),
      let tm := s.teamOf r.core r.hslot
      let b := f.fn.toNat
      let bar : Barrier := tm.bars.get {} b
      let ids := (slotsOf (s.frag r).e).map (sidAt s r)
      let here (t : State) : Barrier := (t.teamOf r.core r.hslot).bars.get {} b
      let arrived (t : State) : Prop := here t = { bar with arrived := bar.arrived ++ ids.filter (fun x => !bar.arrived.contains x), clk := Nat.max bar.clk (clockNext (s.group r.core r.hslot).lclk) }
      let short : Prop := ∃ x ∈ liveSids tm, x ∉ bar.arrived ∧ x ∉ ids
      (Starts s r) ∧ (KDestReady s r f.d.toNat) ∧ (short) ∧ (UnmergedAs s r (s.regionAt r (.bara f))))
    ∧ (∃ (f : FmtA) (s : State) (r : FragRef),
      let tm := s.teamOf r.core r.hslot
      let b := f.fn.toNat
      let bar : Barrier := tm.bars.get {} b
      let ids := (slotsOf (s.frag r).e).map (sidAt s r)
      let here (t : State) : Barrier := (t.teamOf r.core r.hslot).bars.get {} b
      let arrived (t : State) : Prop := here t = { bar with arrived := bar.arrived ++ ids.filter (fun x => !bar.arrived.contains x), clk := Nat.max bar.clk (clockNext (s.group r.core r.hslot).lclk) }
      let short : Prop := ∃ x ∈ liveSids tm, x ∉ bar.arrived ∧ x ∉ ids
      let after : Barrier := { phase := !bar.phase, status := bar.abandoned, relClk := Nat.max bar.clk (clockNext (s.group r.core r.hslot).lclk) }
      ∃ (h e : Nat) (q : Frag) (kd : Nat),
      (Starts s r) ∧ (KDestReady s r f.d.toNat) ∧ (∀ x ∈ liveSids tm, x ∈ bar.arrived ∨ x ∈ ids) ∧ (ids ≠ []) ∧ (Undivided s r) ∧ ((s.group r.core r.hslot).alloc = true) ∧ (NoTrace s r) ∧ (h ≠ r.hslot) ∧ ((s.group r.core h).alloc = true) ∧ ((s.group r.core h).team = (s.group r.core r.hslot).team) ∧ ((s.group r.core h).frags = [(e, q)]) ∧ ((s.group r.core h).spill = []) ∧ (q.wait = .bar b bar.phase kd ∨ q.wait = .barw b bar.phase kd))
    ∧ (∃ (f : FmtA) (s : State) (r : FragRef),
      let tm := s.teamOf r.core r.hslot
      let b := f.fn.toNat
      let bar : Barrier := tm.bars.get {} b
      let ids := (slotsOf (s.frag r).e).map (sidAt s r)
      let here (t : State) : Barrier := (t.teamOf r.core r.hslot).bars.get {} b
      let arrived (t : State) : Prop := here t = { bar with arrived := bar.arrived ++ ids.filter (fun x => !bar.arrived.contains x), clk := Nat.max bar.clk (clockNext (s.group r.core r.hslot).lclk) }
      let short : Prop := ∃ x ∈ liveSids tm, x ∉ bar.arrived ∧ x ∉ ids
      let ph := (s.kreg r.core r.hslot f.a.toNat).val.getLsbD 0
      (Starts s r) ∧ (KDestReady s r f.d.toNat) ∧ (SourcesReady s r (s.frag r).refSlot [{ isK := true, num := f.a.toNat, trap := f.ea }]) ∧ (bar.phase ≠ ph) ∧ (Arrives s r (.barw f)))
    ∧ (∃ (f : FmtA) (s : State) (r : FragRef),
      let tm := s.teamOf r.core r.hslot
      let b := f.fn.toNat
      let bar : Barrier := tm.bars.get {} b
      let ids := (slotsOf (s.frag r).e).map (sidAt s r)
      let here (t : State) : Barrier := (t.teamOf r.core r.hslot).bars.get {} b
      let arrived (t : State) : Prop := here t = { bar with arrived := bar.arrived ++ ids.filter (fun x => !bar.arrived.contains x), clk := Nat.max bar.clk (clockNext (s.group r.core r.hslot).lclk) }
      let short : Prop := ∃ x ∈ liveSids tm, x ∉ bar.arrived ∧ x ∉ ids
      let ph := (s.kreg r.core r.hslot f.a.toNat).val.getLsbD 0
      (Starts s r) ∧ (KDestReady s r f.d.toNat) ∧ (SourcesReady s r (s.frag r).refSlot [{ isK := true, num := f.a.toNat, trap := f.ea }]) ∧ (bar.phase = ph)) :=
  ⟨⟨s1, r0, {ff with order := 1}, by decide +kernel⟩,
   ⟨s1, r0, ff, by decide +kernel⟩,
   ⟨(st { group4 with cm := 3 } team4), r0, {fu 0 0 0 with fn := 1}, 3, by decide +kernel⟩,
   ⟨(st { group4 with cy := 3 } team4), r0, (fu 0 0 0), 2, by decide +kernel⟩,
   ⟨{fu 20 21 0 with fn := 3}, (st group4 (tb [(3, {phase := true})])), r0, by decide +kernel⟩,
   ⟨{fu 20 21 0 with fn := 0}, sBr, r0, 1, 2, { frag4 with m := 1, e := 1, wait := .bar 0 true 7 }, 7, by decide +kernel⟩,
   ⟨{fu 20 21 0 with fn := 3}, (st { group4 with k := [(21, { val := 0 })] } { tb [(3, {phase := true})] with strands := (List.range 5).map (fun i => (i, { preds := 1 })) }), r0, by decide +kernel⟩,
   ⟨{fu 20 21 0 with fn := 3}, (st { group4 with k := [(21, { val := 1 })] } { tb [(3, {phase := true})] with strands := (List.range 5).map (fun i => (i, { preds := 1 })) }), r0, by decide +kernel⟩⟩

theorem witness_ClaspsAndQueues :
    (∃ (f : FmtM) (s : State) (r : FragRef) (sl : Nat) (p : LocalAt),
      let a := memAddr s r sl f false
      let x : W64 := (readAll s r sl (dataSrcs f [f.d.toNat])).1.headD 0
      let tm := s.team p.core p.team
      let clasp := readClasp tm p.off
      let frame (t : State) (i : Instr) (w : Nat) : Prop := GoesOn s t r i ∧ GroupKept s t r ∧ t.mem = s.mem ∧ t.posted = s.posted ∧ t.fetches = s.fetches ∧ (i ≠ .cltry f → t.fills = s.fills) ∧ Ran s t r f.u [sl] w
      let memSame (t : State) (k : Nat) : Prop := ∀ c u o, p.covers k c u o = false → (t.team c u).mem.get 0 o = (s.team c u).mem.get 0 o
      let sent (t : State) (what : GangWhat) : Prop := ∃ y, t.gang = s.gang ++ [y] ∧ y.acc.core = r.core ∧ y.acc.hslot = r.hslot ∧ y.core = p.core ∧ y.team = p.team ∧ y.off = p.off ∧ y.what = what ∧ y.acc.data = x.toNat ∧ y.clk = (t.group r.core r.hslot).lclk ∧ (s.core r.core).cycle + 4 ≤ y.at_
      (memSlots s r f = [sl]) ∧ (NoClaspWait s r) ∧ (LocalMemoryOk s) ∧ (SourcesReady s r sl (addrSrcs f false)) ∧ (SourcesReady s r sl (dataSrcs f [f.d.toNat])) ∧ (MemStarts s r (.clinit f) f) ∧ (LocalGood s r sl f a 16 true true p) ∧ (p.far r = false))
    ∧ (∃ (f : FmtM) (s : State) (r : FragRef) (sl : Nat) (p : LocalAt),
      let a := memAddr s r sl f false
      let x : W64 := (readAll s r sl (dataSrcs f [f.d.toNat])).1.headD 0
      let tm := s.team p.core p.team
      let clasp := readClasp tm p.off
      let frame (t : State) (i : Instr) (w : Nat) : Prop := GoesOn s t r i ∧ GroupKept s t r ∧ t.mem = s.mem ∧ t.posted = s.posted ∧ t.fetches = s.fetches ∧ (i ≠ .cltry f → t.fills = s.fills) ∧ Ran s t r f.u [sl] w
      let memSame (t : State) (k : Nat) : Prop := ∀ c u o, p.covers k c u o = false → (t.team c u).mem.get 0 o = (s.team c u).mem.get 0 o
      let sent (t : State) (what : GangWhat) : Prop := ∃ y, t.gang = s.gang ++ [y] ∧ y.acc.core = r.core ∧ y.acc.hslot = r.hslot ∧ y.core = p.core ∧ y.team = p.team ∧ y.off = p.off ∧ y.what = what ∧ y.acc.data = x.toNat ∧ y.clk = (t.group r.core r.hslot).lclk ∧ (s.core r.core).cycle + 4 ≤ y.at_
      (memSlots s r f = [sl]) ∧ (NoClaspWait s r) ∧ (LocalMemoryOk s) ∧ (SourcesReady s r sl (addrSrcs f false)) ∧ (SourcesReady s r sl (dataSrcs f [f.d.toNat])) ∧ (MemStarts s r (.clarr f) f) ∧ (LocalGood s r sl f a 16 true true p) ∧ (p.far r = false))
    ∧ (∃ (f : FmtM) (s : State) (r : FragRef) (sl : Nat) (p : LocalAt),
      let a := memAddr s r sl f false
      let x : W64 := (readAll s r sl (dataSrcs f [f.d.toNat])).1.headD 0
      let tm := s.team p.core p.team
      let clasp := readClasp tm p.off
      let frame (t : State) (i : Instr) (w : Nat) : Prop := GoesOn s t r i ∧ GroupKept s t r ∧ t.mem = s.mem ∧ t.posted = s.posted ∧ t.fetches = s.fetches ∧ (i ≠ .cltry f → t.fills = s.fills) ∧ Ran s t r f.u [sl] w
      let memSame (t : State) (k : Nat) : Prop := ∀ c u o, p.covers k c u o = false → (t.team c u).mem.get 0 o = (s.team c u).mem.get 0 o
      let sent (t : State) (what : GangWhat) : Prop := ∃ y, t.gang = s.gang ++ [y] ∧ y.acc.core = r.core ∧ y.acc.hslot = r.hslot ∧ y.core = p.core ∧ y.team = p.team ∧ y.off = p.off ∧ y.what = what ∧ y.acc.data = x.toNat ∧ y.clk = (t.group r.core r.hslot).lclk ∧ (s.core r.core).cycle + 4 ≤ y.at_
      (memSlots s r f = [sl]) ∧ (NoClaspWait s r) ∧ (LocalMemoryOk s) ∧ (SourcesReady s r sl (addrSrcs f false)) ∧ (SourcesReady s r sl (dataSrcs f [f.d.toNat])) ∧ (p.far r = true) ∧ (LocalGood s r sl f a 16 true true p) ∧ (MemStarts s r (.clinit f) f))
    ∧ (∃ (f : FmtM) (s : State) (r : FragRef) (sl : Nat) (p : LocalAt),
      let a := memAddr s r sl f false
      let x : W64 := (readAll s r sl (dataSrcs f [f.d.toNat])).1.headD 0
      let tm := s.team p.core p.team
      let clasp := readClasp tm p.off
      let frame (t : State) (i : Instr) (w : Nat) : Prop := GoesOn s t r i ∧ GroupKept s t r ∧ t.mem = s.mem ∧ t.posted = s.posted ∧ t.fetches = s.fetches ∧ (i ≠ .cltry f → t.fills = s.fills) ∧ Ran s t r f.u [sl] w
      let memSame (t : State) (k : Nat) : Prop := ∀ c u o, p.covers k c u o = false → (t.team c u).mem.get 0 o = (s.team c u).mem.get 0 o
      let sent (t : State) (what : GangWhat) : Prop := ∃ y, t.gang = s.gang ++ [y] ∧ y.acc.core = r.core ∧ y.acc.hslot = r.hslot ∧ y.core = p.core ∧ y.team = p.team ∧ y.off = p.off ∧ y.what = what ∧ y.acc.data = x.toNat ∧ y.clk = (t.group r.core r.hslot).lclk ∧ (s.core r.core).cycle + 4 ≤ y.at_
      (memSlots s r f = [sl]) ∧ (NoClaspWait s r) ∧ (LocalMemoryOk s) ∧ (SourcesReady s r sl (addrSrcs f false)) ∧ (SourcesReady s r sl (dataSrcs f [f.d.toNat])) ∧ (p.far r = true) ∧ (LocalGood s r sl f a 16 true true p) ∧ (MemStarts s r (.clarr f) f))
    ∧ (∃ (f : FmtM) (s : State) (r : FragRef) (sl : Nat) (p : LocalAt),
      let a := memAddr s r sl f false
      let x : W64 := (readAll s r sl (dataSrcs f [f.d.toNat])).1.headD 0
      let tm := s.team p.core p.team
      let clasp := readClasp tm p.off
      let frame (t : State) (i : Instr) (w : Nat) : Prop := GoesOn s t r i ∧ GroupKept s t r ∧ t.mem = s.mem ∧ t.posted = s.posted ∧ t.fetches = s.fetches ∧ (i ≠ .cltry f → t.fills = s.fills) ∧ Ran s t r f.u [sl] w
      let memSame (t : State) (k : Nat) : Prop := ∀ c u o, p.covers k c u o = false → (t.team c u).mem.get 0 o = (s.team c u).mem.get 0 o
      let sent (t : State) (what : GangWhat) : Prop := ∃ y, t.gang = s.gang ++ [y] ∧ y.acc.core = r.core ∧ y.acc.hslot = r.hslot ∧ y.core = p.core ∧ y.team = p.team ∧ y.off = p.off ∧ y.what = what ∧ y.acc.data = x.toNat ∧ y.clk = (t.group r.core r.hslot).lclk ∧ (s.core r.core).cycle + 4 ≤ y.at_
      (memSlots s r f = [sl]) ∧ (NoClaspWait s r) ∧ (LocalMemoryOk s) ∧ (SourcesReady s r sl (addrSrcs f false)) ∧ (SourcesReady s r sl (dataSrcs f [f.d.toNat])) ∧ (p.far r = true) ∧ (LocalGood s r sl f a 16 true false p) ∧ (MemStarts s r (.clwait f) f))
    ∧ (∃ (f : FmtM) (s : State) (r : FragRef) (sl : Nat) (p : LocalAt),
      let a := memAddr s r sl f false
      let x : W64 := (readAll s r sl (dataSrcs f [f.d.toNat])).1.headD 0
      let tm := s.team p.core p.team
      let clasp := readClasp tm p.off
      let frame (t : State) (i : Instr) (w : Nat) : Prop := GoesOn s t r i ∧ GroupKept s t r ∧ t.mem = s.mem ∧ t.posted = s.posted ∧ t.fetches = s.fetches ∧ (i ≠ .cltry f → t.fills = s.fills) ∧ Ran s t r f.u [sl] w
      let memSame (t : State) (k : Nat) : Prop := ∀ c u o, p.covers k c u o = false → (t.team c u).mem.get 0 o = (s.team c u).mem.get 0 o
      let sent (t : State) (what : GangWhat) : Prop := ∃ y, t.gang = s.gang ++ [y] ∧ y.acc.core = r.core ∧ y.acc.hslot = r.hslot ∧ y.core = p.core ∧ y.team = p.team ∧ y.off = p.off ∧ y.what = what ∧ y.acc.data = x.toNat ∧ y.clk = (t.group r.core r.hslot).lclk ∧ (s.core r.core).cycle + 4 ≤ y.at_
      (memSlots s r f = [sl]) ∧ (NoClaspWait s r) ∧ (LocalMemoryOk s) ∧ (SourcesReady s r sl (addrSrcs f false)) ∧ (SourcesReady s r sl (dataSrcs f [f.d.toNat])) ∧ (p.far r = true) ∧ (LocalGood s r sl f a 16 true false p) ∧ (MemStarts s r (.cltry f) f) ∧ (FillReady s r sl f.u [f.d.toNat]))
    ∧ (∃ (f : FmtM) (s : State) (r : FragRef) (sl : Nat) (p : LocalAt),
      let a := memAddr s r sl f false
      let x : W64 := (readAll s r sl (dataSrcs f [f.d.toNat])).1.headD 0
      let tm := s.team p.core p.team
      let clasp := readClasp tm p.off
      let frame (t : State) (i : Instr) (w : Nat) : Prop := GoesOn s t r i ∧ GroupKept s t r ∧ t.mem = s.mem ∧ t.posted = s.posted ∧ t.fetches = s.fetches ∧ (i ≠ .cltry f → t.fills = s.fills) ∧ Ran s t r f.u [sl] w
      let memSame (t : State) (k : Nat) : Prop := ∀ c u o, p.covers k c u o = false → (t.team c u).mem.get 0 o = (s.team c u).mem.get 0 o
      let sent (t : State) (what : GangWhat) : Prop := ∃ y, t.gang = s.gang ++ [y] ∧ y.acc.core = r.core ∧ y.acc.hslot = r.hslot ∧ y.core = p.core ∧ y.team = p.team ∧ y.off = p.off ∧ y.what = what ∧ y.acc.data = x.toNat ∧ y.clk = (t.group r.core r.hslot).lclk ∧ (s.core r.core).cycle + 4 ≤ y.at_
      (memSlots s r f = [sl]) ∧ (NoClaspWait s r) ∧ (LocalMemoryOk s) ∧ (SourcesReady s r sl (addrSrcs f false)) ∧ (SourcesReady s r sl (dataSrcs f [f.d.toNat])) ∧ (LocalGood s r sl f a 16 true false p) ∧ (p.far r = false) ∧ (MemStarts s r (.clwait f) f) ∧ (claspPhase tm p.off ≠ x.getLsbD 0))
    ∧ (∃ (f : FmtM) (s : State) (r : FragRef) (sl : Nat) (p : LocalAt),
      let a := memAddr s r sl f false
      let x : W64 := (readAll s r sl (dataSrcs f [f.d.toNat])).1.headD 0
      let tm := s.team p.core p.team
      let clasp := readClasp tm p.off
      let frame (t : State) (i : Instr) (w : Nat) : Prop := GoesOn s t r i ∧ GroupKept s t r ∧ t.mem = s.mem ∧ t.posted = s.posted ∧ t.fetches = s.fetches ∧ (i ≠ .cltry f → t.fills = s.fills) ∧ Ran s t r f.u [sl] w
      let memSame (t : State) (k : Nat) : Prop := ∀ c u o, p.covers k c u o = false → (t.team c u).mem.get 0 o = (s.team c u).mem.get 0 o
      let sent (t : State) (what : GangWhat) : Prop := ∃ y, t.gang = s.gang ++ [y] ∧ y.acc.core = r.core ∧ y.acc.hslot = r.hslot ∧ y.core = p.core ∧ y.team = p.team ∧ y.off = p.off ∧ y.what = what ∧ y.acc.data = x.toNat ∧ y.clk = (t.group r.core r.hslot).lclk ∧ (s.core r.core).cycle + 4 ≤ y.at_
      (memSlots s r f = [sl]) ∧ (NoClaspWait s r) ∧ (LocalMemoryOk s) ∧ (SourcesReady s r sl (addrSrcs f false)) ∧ (SourcesReady s r sl (dataSrcs f [f.d.toNat])) ∧ (LocalGood s r sl f a 16 true false p) ∧ (p.far r = false) ∧ (MemStarts s r (.clwait f) f) ∧ (claspPhase tm p.off = x.getLsbD 0))
    ∧ (∃ (f : FmtM) (s : State) (r : FragRef) (sl : Nat) (p : LocalAt),
      let a := memAddr s r sl f false
      let x : W64 := (readAll s r sl (dataSrcs f [f.d.toNat])).1.headD 0
      let tm := s.team p.core p.team
      let clasp := readClasp tm p.off
      let frame (t : State) (i : Instr) (w : Nat) : Prop := GoesOn s t r i ∧ GroupKept s t r ∧ t.mem = s.mem ∧ t.posted = s.posted ∧ t.fetches = s.fetches ∧ (i ≠ .cltry f → t.fills = s.fills) ∧ Ran s t r f.u [sl] w
      let memSame (t : State) (k : Nat) : Prop := ∀ c u o, p.covers k c u o = false → (t.team c u).mem.get 0 o = (s.team c u).mem.get 0 o
      let sent (t : State) (what : GangWhat) : Prop := ∃ y, t.gang = s.gang ++ [y] ∧ y.acc.core = r.core ∧ y.acc.hslot = r.hslot ∧ y.core = p.core ∧ y.team = p.team ∧ y.off = p.off ∧ y.what = what ∧ y.acc.data = x.toNat ∧ y.clk = (t.group r.core r.hslot).lclk ∧ (s.core r.core).cycle + 4 ≤ y.at_
      let v : Nat := if claspPhase tm p.off ≠ x.getLsbD 0 then 1 else 0
      (memSlots s r f = [sl]) ∧ (NoClaspWait s r) ∧ (LocalMemoryOk s) ∧ (SourcesReady s r sl (addrSrcs f false)) ∧ (SourcesReady s r sl (dataSrcs f [f.d.toNat])) ∧ (LocalGood s r sl f a 16 true false p) ∧ (p.far r = false) ∧ (MemStarts s r (.cltry f) f) ∧ (FillReady s r sl f.u [f.d.toNat]) ∧ (f.u = true))
    ∧ (∃ (f : FmtM) (s : State) (r : FragRef) (sl : Nat) (p : LocalAt),
      let a := memAddr s r sl f false
      let x : W64 := (readAll s r sl (dataSrcs f [f.d.toNat])).1.headD 0
      let tm := s.team p.core p.team
      let clasp := readClasp tm p.off
      let frame (t : State) (i : Instr) (w : Nat) : Prop := GoesOn s t r i ∧ GroupKept s t r ∧ t.mem = s.mem ∧ t.posted = s.posted ∧ t.fetches = s.fetches ∧ (i ≠ .cltry f → t.fills = s.fills) ∧ Ran s t r f.u [sl] w
      let memSame (t : State) (k : Nat) : Prop := ∀ c u o, p.covers k c u o = false → (t.team c u).mem.get 0 o = (s.team c u).mem.get 0 o
      let sent (t : State) (what : GangWhat) : Prop := ∃ y, t.gang = s.gang ++ [y] ∧ y.acc.core = r.core ∧ y.acc.hslot = r.hslot ∧ y.core = p.core ∧ y.team = p.team ∧ y.off = p.off ∧ y.what = what ∧ y.acc.data = x.toNat ∧ y.clk = (t.group r.core r.hslot).lclk ∧ (s.core r.core).cycle + 4 ≤ y.at_
      let v : Nat := if claspPhase tm p.off ≠ x.getLsbD 0 then 1 else 0
      (memSlots s r f = [sl]) ∧ (NoClaspWait s r) ∧ (LocalMemoryOk s) ∧ (SourcesReady s r sl (addrSrcs f false)) ∧ (SourcesReady s r sl (dataSrcs f [f.d.toNat])) ∧ (LocalGood s r sl f a 16 true false p) ∧ (p.far r = false) ∧ (MemStarts s r (.cltry f) f) ∧ (FillReady s r sl f.u [f.d.toNat]) ∧ (f.u = false))
    ∧ (∃ (s : State) (y : GangAcc),
      let now := readClasp ((performGang s y).team y.core y.team) y.off
      let ph : Bool := y.acc.data % 2 = 1
      let moved : Prop := claspPhase (s.team y.core y.team) y.off ≠ ph
      (((s.core y.core).teams.find? y.team).isSome = true) ∧ (LocalMemoryOk s) ∧ (localBad (s.team y.core y.team) y.off 16 = false) ∧ (y.what = .clwait) ∧ ((s.frag (holder y)).wait = .remote false))
    ∧ (∃ (s : State) (y : GangAcc),
      let now := readClasp ((performGang s y).team y.core y.team) y.off
      let ph : Bool := y.acc.data % 2 = 1
      let moved : Prop := claspPhase (s.team y.core y.team) y.off ≠ ph
      (((s.core y.core).teams.find? y.team).isSome = true) ∧ (LocalMemoryOk s) ∧ (localBad (s.team y.core y.team) y.off 16 = false) ∧ (y.what = .clinit))
    ∧ (∃ (s : State) (y : GangAcc),
      let now := readClasp ((performGang s y).team y.core y.team) y.off
      let ph : Bool := y.acc.data % 2 = 1
      let moved : Prop := claspPhase (s.team y.core y.team) y.off ≠ ph
      (((s.core y.core).teams.find? y.team).isSome = true) ∧ (LocalMemoryOk s) ∧ (localBad (s.team y.core y.team) y.off 16 = false) ∧ (y.what = .clarr))
    ∧ (∃ (s : State) (y : GangAcc),
      let now := readClasp ((performGang s y).team y.core y.team) y.off
      let ph : Bool := y.acc.data % 2 = 1
      let moved : Prop := claspPhase (s.team y.core y.team) y.off ≠ ph
      (((s.core y.core).teams.find? y.team).isSome = true) ∧ (LocalMemoryOk s) ∧ (localBad (s.team y.core y.team) y.off 16 = false) ∧ (y.what = .cltry) ∧ (y.acc.dead = false) ∧ (y.acc.uni = true))
    ∧ (∃ (s : State) (y : GangAcc),
      let now := readClasp ((performGang s y).team y.core y.team) y.off
      let ph : Bool := y.acc.data % 2 = 1
      let moved : Prop := claspPhase (s.team y.core y.team) y.off ≠ ph
      (((s.core y.core).teams.find? y.team).isSome = true) ∧ (LocalMemoryOk s) ∧ (localBad (s.team y.core y.team) y.off 16 = false) ∧ (y.what = .cltry) ∧ (y.acc.dead = false) ∧ (y.acc.uni = false))
    ∧ (∃ (f : FmtA) (s : State) (r : FragRef), (Starts s r) ∧ (KDestReady s r f.d.toNat) ∧ (UnmergedAs s r (s.regionAt r (.qtry f))) ∧ (∀ e ∈ queueOf (s.teamOf r.core r.hslot) f.fn.toNat, e.at_ < (s.core r.core).cycle + 4)) :=
  ⟨⟨fc, (oneE s50), r0, 0, ⟨0,0,0x100,true⟩, by refine ⟨?_, ?_, ?_, ?_, ?_, ?_, ?_, ?_⟩ <;> first | decide +kernel | exact noClasp (by decide +kernel)⟩,
   ⟨fc, (oneE s50), r0, 0, ⟨0,0,0x100,true⟩, by refine ⟨?_, ?_, ?_, ?_, ?_, ?_, ?_, ?_⟩ <;> first | decide +kernel | exact noClasp (by decide +kernel)⟩,
   ⟨fcg, (oneE sFar), r0, 0, ⟨1,0,0x100,false⟩, by refine ⟨?_, ?_, ?_, ?_, ?_, ?_, ?_, ?_⟩ <;> first | decide +kernel | exact noClasp (by decide +kernel)⟩,
   ⟨fcg, (oneE sFar), r0, 0, ⟨1,0,0x100,false⟩, by refine ⟨?_, ?_, ?_, ?_, ?_, ?_, ?_, ?_⟩ <;> first | decide +kernel | exact noClasp (by decide +kernel)⟩,
   ⟨fcg, (oneE sFar), r0, 0, ⟨1,0,0x100,false⟩, by refine ⟨?_, ?_, ?_, ?_, ?_, ?_, ?_, ?_⟩ <;> first | decide +kernel | exact noClasp (by decide +kernel)⟩,
   ⟨fcg, (oneE sFar), r0, 0, ⟨1,0,0x100,false⟩, by refine ⟨?_, ?_, ?_, ?_, ?_, ?_, ?_, ?_, ?_⟩ <;> first | decide +kernel | exact noClasp (by decide +kernel)⟩,
   ⟨fc, (oneE s50), r0, 0, ⟨0,0,0x100,true⟩, by refine ⟨?_, ?_, ?_, ?_, ?_, ?_, ?_, ?_, ?_⟩ <;> first | decide +kernel | exact noClasp (by decide +kernel)⟩,
   ⟨fc, ((oneE s50).setStrand 0 0 0 { regs := [(4, {val := 4})] }), r0, 0, ⟨0,0,0x100,true⟩, by refine ⟨?_, ?_, ?_, ?_, ?_, ?_, ?_, ?_, ?_⟩ <;> first | decide +kernel | exact noClasp (by decide +kernel)⟩,
   ⟨{fc with u := true, kbase := false, d := 3}, s50, r0, 0, ⟨0,0,0x100,true⟩, by refine ⟨?_, ?_, ?_, ?_, ?_, ?_, ?_, ?_, ?_, ?_⟩ <;> first | decide +kernel | exact noClasp (by decide +kernel)⟩,
   ⟨fc, (oneE s50), r0, 0, ⟨0,0,0x100,true⟩, by refine ⟨?_, ?_, ?_, ?_, ?_, ?_, ?_, ?_, ?_, ?_⟩ <;> first | decide +kernel | exact noClasp (by decide +kernel)⟩,
   ⟨sWt, (gacw .clwait true), by decide +kernel⟩,
   ⟨sFar, (gac .clinit), by decide +kernel⟩,
   ⟨sFar, (gac .clarr), by decide +kernel⟩,
   ⟨sFar, (gacw .cltry true), by decide +kernel⟩,
   ⟨sFar, (gacw .cltry false), by decide +kernel⟩,
   ⟨{fu 9 0 0 with fn := 3}, (st group4 { team4 with queues := [(3, [{ val := 77, clk := 9 }, { val := 78, clk := 10 }])] }), r0, by decide +kernel⟩⟩

end Atomics

namespace Copies

def fe (d : BitVec 6) : FmtE := { d := d, zd := 0, zs := 0, pam1 := 0, pbm1 := 0, spec := 0, vb := 0 }
def kk (ws : List Nat) (a : Nat) : SMap KReg := (ws.zipIdx.map (fun p => (a + p.2, { val := .ofNat 64 p.1 : KReg })))
def tm60 : Team := { team4 with lsize := 65536, bank := some 1 }
/-- local to local, 4 elements of 4 bytes from 0x100 to 0x200 -/
def descL : List Nat := [0x100, 0x200, 1 + 8 + 2*64, 4 + 2^32, 1 + 2^32, 0, 0, 0]
def s60 (ws : List Nat) (role : Nat) : State := st { group4 with role := role, k := kk ws 16, cy := 254 } tm60
def fz : FmtE := { fe 16 with zd := 2, pam1 := 7, pbm1 := 7, spec := 24 }
def fac : FmtE := { fe 16 with zd := 4, vb := 8 }
def c60 : CopyCmd := { id := 7, op := 0xC0, core := 0, hslot := 0, team := 0, desc := descL.map (fun n => .ofNat 64 n), asid := 1 }
def s61 : State := { (st { group4 with cy := 1, yq := [(7, none)] } { tm60 with mem := [(0x100, 9), (0x10F, 8)] }).modCore 0 (fun k => { k with copyq := [c60, { c60 with id := 8 }] }) with cur := none, nextId := 20 }
def c0 : CopyCmd := { c60 with desc := [0x100, 0x200, 1 + 8 + 2*64, 0 + 2^32, 1 + 2^32, 0, 0, 0].map (fun n => .ofNat 64 n) }
def s63 : State := (st { group4 with cy := 1, yq := [(7, none)] } tm60).modCore 0 (fun k => { k with copyq := [c0, { c60 with id := 8 }] })
def run0 : CopyRun := { cmd := c60, engine := 0 }
def s62 : State := { s61 with copies := [run0] }
def run1 : CopyRun := { cmd := c60, engine := 0, rd := 4, wr := 3, buf := [1,2,3,4] }
def sD1 : State := { s61 with copies := [run1] }
def pE1 := placeElems sD1 run1 1 3 [1,2,3,4]
def due0 : Due := { id := 9, cmd := 7, core := 0, team := 0, off := 0x300, bytes := 16, dec := true }
def run2 : CopyRun := { cmd := c60, engine := 0, rd := 4, wr := 4 }

theorem witness_CopyCommandsIssueAndRoles :
    (∃ (i : Instr) (op len : Nat) (f : FmtE) (s : State) (r : FragRef),
      let c := copyOf s r i op len f
      let check := copyCheck (s.teamOf r.core r.hslot) c f.d.toNat
      let g := s.group r.core r.hslot
      ((i, op, len) ∈ copyForms f) ∧ (CommandStarts s r i f.d.toNat len) ∧ ((s.group r.core r.hslot).role = 0) ∧ (check = none) ∧ ((s.core r.core).copyq.length < 16) ∧ (g.cy < 255))
    ∧ (∃ (i : Instr) (op len : Nat) (f : FmtE) (s : State) (r : FragRef),
      let c := copyOf s r i op len f
      let check := copyCheck (s.teamOf r.core r.hslot) c f.d.toNat
      let g := s.group r.core r.hslot
      ∃ (cause : Nat) (a : W64),
      ((i, op, len) ∈ copyForms f) ∧ (CommandStarts s r i f.d.toNat len) ∧ ((s.group r.core r.hslot).role = 0) ∧ (check = some (cause, a)) ∧ (NoFault s r))
    ∧ (∃ (i : Instr) (op len : Nat) (f : FmtE) (s : State) (r : FragRef),
      let g := s.group r.core r.hslot
      (Starts s r) ∧ ((s.frag r).acquires = []) ∧ (NoFault s r) ∧ ((i, op, len) ∈ copyForms f ∧ g.role ≠ 0 ∨ (i, op, len) ∈ arrayForms f ∧ g.role ≠ 1 ∨ (i = .acrd f ∨ i = .acwr f) ∧ (g.role ≠ 2 ∨ (s.teamOf r.core r.hslot).bank = none))) :=
  ⟨⟨(.cpy (fe 16)), 0xC0, 8, (fe 16), (s60 descL 0), r0, by decide +kernel⟩,
   ⟨(.cpy (fe 16)), 0xC0, 8, (fe 16), (s60 [0x101, 0x200, 1 + 8 + 2*64, 4 + 2^32, 1 + 2^32, 0, 0, 0] 0), r0, 5, 0x101, by decide +kernel⟩,
   ⟨(.cpyp (fe 16)), 0xC1, 8, (fe 16), (s60 [0x400, 0x800, 1 + 8, 1, 0, 16, 0, 0] 1), r0, by decide +kernel⟩⟩

theorem witness_MatrixCommandsIssue :
    (∃ (i : Instr) (op len : Nat) (f : FmtE) (s : State) (r : FragRef),
      let m := matrixOf s r i op len f
      let g := s.group r.core r.hslot
      ((i, op, len) ∈ arrayForms f) ∧ (CommandStarts s r i f.d.toNat len) ∧ ((s.group r.core r.hslot).role = 1) ∧ (MatrixGood s r m f.d.toNat) ∧ (heldEntries (s.core r.core).array m.bank < 16) ∧ (g.cm < 255))
    ∧ (∃ (i : Instr) (op len : Nat) (f : FmtE) (s : State) (r : FragRef),
      let m := matrixOf s r i op len f
      let g := s.group r.core r.hslot
      ∃ (cause : Nat) (a : W64),
      ((i, op, len) ∈ arrayForms f) ∧ (CommandStarts s r i f.d.toNat len) ∧ ((s.group r.core r.hslot).role = 1) ∧ (mxCheck (s.teamOf r.core r.hslot) (windowOf (s.teamOf r.core r.hslot) g.role) m f.d.toNat = some (cause, a)) ∧ (NoFault s r))
    ∧ (∃ (f : FmtE) (s : State) (r : FragRef),
      let es := slotsOf (s.frag r).e
      let g := s.group r.core r.hslot
      let m := matrixOf s r (.acrd f) 0xCC 1 f
      let w := matrixOf s r (.acwr f) 0xCD 1 f
      ((s.group r.core r.hslot).role = 2) ∧ ((s.teamOf r.core r.hslot).bank.isSome = true) ∧ (CommandStarts s r (.acrd f) f.d.toNat 1) ∧ (MatrixGood s r m f.d.toNat) ∧ (heldEntries (s.core r.core).port m.bank < 16) ∧ (∀ sl ∈ es, VDestReady s r sl m.dests))
    ∧ (∃ (f : FmtE) (s : State) (r : FragRef),
      let es := slotsOf (s.frag r).e
      let g := s.group r.core r.hslot
      let m := matrixOf s r (.acrd f) 0xCC 1 f
      let w := matrixOf s r (.acwr f) 0xCD 1 f
      ((s.group r.core r.hslot).role = 2) ∧ ((s.teamOf r.core r.hslot).bank.isSome = true) ∧ (CommandStarts s r (.acwr f) f.d.toNat 1) ∧ (MatrixGood s r w f.d.toNat) ∧ (heldEntries (s.core r.core).port w.bank < 16) ∧ (∀ sl ∈ es, SourcesReady s r sl (w.dests.map (fun n => { isK := false, num := n })))) :=
  ⟨⟨(.mma fz), 0xC8, 2, fz, (s60 [0 + 2^32 * 0x4000, 0] 1), r0, by decide +kernel⟩,
   ⟨(.mma fz), 0xC8, 2, fz, (s60 [0x10 + 2^32 * 0x4000, 0] 1), r0, 5, 0x10, by decide +kernel⟩,
   ⟨fac, (st { group4 with role := 2, k := kk [2 * 2^16 + 3] 16, frags := [(0, { frag4 with e := 7 })] } tm60), r0, by decide +kernel⟩,
   ⟨fac, (st { group4 with role := 2, k := kk [2 * 2^16 + 3] 16, frags := [(0, { frag4 with e := 7 })] } tm60), r0, by decide +kernel⟩⟩

theorem witness_CopyEngineEvents :
    (∃ (d c : Nat) (cmd : CopyCmd) (rest : List CopyCmd) (s : State), (emptyHead s d = some c) ∧ ((s.core c).copyq = cmd :: rest) ∧ ((s.group c cmd.hslot).yq = [(cmd.id, none)]))
    ∧ (∃ (d e c : Nat) (cmd : CopyCmd) (rest : List CopyCmd) (s : State), (emptyHead s d = none) ∧ (idleEngine s d = some e) ∧ (copyTurnOf s d = some c) ∧ ((s.core c).copyq = cmd :: rest))
    ∧ (∃ (id : Nat) (x : CopyRun) (el : CopyElem) (off : Int) (s s' : State) (p : EngAt), (findRun s id = some x) ∧ (x.stop = none) ∧ (x.waiting = none) ∧ (x.rd < x.cmd.count) ∧ (x.cmd.elem x.idx x.rd = some el) ∧ (el.src = some off) ∧ (overlapsPending x x.rd = false) ∧ (engAccess s x.cmd x.engine x.cmd.sspace (x.cmd.w 0) off x.cmd.size true false false = (s', .inl p)) ∧ (∀ st, p ≠ .far st) ∧ (engPoison s' p x.cmd.size = false))
    ∧ (∃ (id : Nat) (x : CopyRun) (el : CopyElem) (off : Int) (qs : List CopyPiece) (s s' : State),
      let c := x.cmd
      let n := 1 + beatLength c x.idx c.count (256 / c.size - 1) (x.wr + 1) off
      let elem (k : Nat) : List Byte := (x.buf.drop (k * c.size)).take c.size
      let value (k : Nat) (old : List Byte) : List Byte := if c.isReduce then wordBytes 4 (reduceVal c.float (bytesVal old) (bytesVal (elem k))) else elem k
      (findRun s id = some x) ∧ (LocalMemoryOk s) ∧ (x.cmd.isPlane = false) ∧ (x.stop = none) ∧ (x.rd ≤ x.cmd.count) ∧ (x.cmd.cen = false) ∧ (x.wr < x.rd) ∧ (x.buf.length = (x.rd - x.wr) * x.cmd.size) ∧ (x.cmd.elem x.idx x.wr = some el) ∧ (el.dst = some off) ∧ (x.wr + n ≤ x.rd) ∧ (x.wr + n < c.count → (c.elem x.idx (x.wr + n)).isSome = true) ∧ (placeElems s x n x.wr x.buf = (s', qs, none)) ∧ (c.isReduce = true → ∀ d, cmMode (s.die d) = 0))
    ∧ (∃ (id : Nat) (d : Due) (y : CopyRun) (s : State), (s.dues.find? (fun x => x.id == id) = some d) ∧ (dueDone s id = true) ∧ (findRun s d.cmd = some y) ∧ (LocalMemoryOk s) ∧ (d.dec = true))
    ∧ (∃ (id : Nat) (d : Due) (y : CopyRun) (s : State), (s.dues.find? (fun x => x.id == id) = some d) ∧ (dueDone s id = true) ∧ (findRun s d.cmd = some y) ∧ (LocalMemoryOk s) ∧ (d.dec = false))
    ∧ (∃ (id : Nat) (x : CopyRun) (s : State), (findRun s id = some x) ∧ (runDelivered x = true) ∧ (x.waiting = none) ∧ (x.stop = none) ∧ (s.dues.any (fun d => d.cmd == id) = false) ∧ ((s.group x.cmd.core x.cmd.hslot).yq = [(id, none)])) :=
  ⟨⟨0, 0, c0, [{ c60 with id := 8 }], { s63 with cur := none, nextId := 20 }, by decide +kernel⟩,
   ⟨0, 0, 0, c60, [{ c60 with id := 8 }], s61, by decide +kernel⟩,
   ⟨7, run0, { row := 0, src := some 0, dst := some 0 }, 0, s62, s62, (.loc ⟨0,0,0x100,true⟩), by refine ⟨?_, ?_, ?_, ?_, ?_, ?_, ?_, ?_, ?_, ?_⟩ <;> first | decide +kernel | exact eq_ok (by decide +kernel) | exact eq_next (by decide +kernel) | (intro _ h; cases h; done)⟩,
   ⟨7, run1, { row := 0, src := some 12, dst := some 12 }, 12, pE1.2.1, sD1, pE1.1, by (try dsimp only); exact ⟨by decide +kernel, by decide +kernel, by decide +kernel, by decide +kernel, by decide +kernel, by decide +kernel, by decide +kernel, by decide +kernel, by decide +kernel, by decide +kernel, by decide +kernel, by decide +kernel, by decide +kernel, fun h => absurd h (by decide +kernel)⟩⟩,
   ⟨9, due0, run1, { s61 with copies := [run1], dues := [due0] }, by decide +kernel⟩,
   ⟨9, {due0 with dec := false}, run1, { s61 with copies := [run1], dues := [{due0 with dec := false}] }, by decide +kernel⟩,
   ⟨7, run2, { s61 with copies := [run2] }, by decide +kernel⟩⟩

end Copies

namespace Engines

def m0 : MxCmd := { id := 3, op := 0xC8, hslot := 0, team := 0, bank := 0, zd := 1, zs := 0, pa := 1, pb := 1, sgnA := false, sgnB := true, tag := 0, desc := [.ofNat 64 (2^32*0x4000), 0], slot := 0, word := 0 }
def tmM : Team := { team4 with lsize := 65536, bank := some 0, full := List.range 4096, mem := [(0x0, 1), (5, 3), (0x4000, 3), (0x4011, 0x80), (0x4021,9)] }
def bk : SMap Bank := [(0, { owner := some 0, tiles := [(1, { elems := [(0, 5), (64, 0x7FFFFFFF), (4095, 2)], tag := 10 })] })]
def sM (arr : List MxCmd) : State := { (st { group4 with role := 1, cm := 1, mq := [(3, none)] } tmM).modCore 0 (fun k => { k with array := arr, banks := bk }) with cur := none }
def mst : MxCmd := {m0 with started := true}
def zR : Tile := ((runCmd (sM [mst]) 0 mst).getD ({}, 0)).1
def prd : MxCmd := { m0 with op := 0xCC, hslot := 0, desc := [.ofNat 64 (2 * 2^16 + 0 + 63)], vb := 4, ranks := [(0, 1), (1,2)] }
def sP (p : List MxCmd) : State := (sM []).modCore 0 (fun k => { k with port := p, cycle := 5 })
def pwr : MxCmd := { m0 with op := 0xCD, hslot := 0, desc := [.ofNat 64 (2 * 2^16 + 62*256 + 63)], vb := 4, ranks := [(0, 1), (1,2)], vals := [(0, [7,8]), (1, [0,1])] }
def sB : State := { sM [] with plat := { rdy := 0x1FFF } }
def sKat (x : Injection) (arr : List MxCmd) (cy : Nat) : State := sB.modCore 0 (fun k => { k with kat := some x, array := arr, cycle := cy })
def sNo : State := { s1 with cur := none }

theorem witness_MatrixEngine :
    (∃ (c b : Nat) (m : MxCmd) (s : State), (arrayFree (s.core c) = true) ∧ ((s.core c).array.find? (fun x => x.bank == b && !x.started) = some m) ∧ (m.at_ ≤ (s.core c).cycle) ∧ (m.spent = 0) ∧ (tileBusy (s.core c) m = false) ∧ (bankGranted s c b = true) ∧ (∀ x, readyToFill s c (1 - b) = some x → x.before m = false))
    ∧ (∃ (c : Nat) (m : MxCmd) (z : Tile) (fl : BitVec 5) (s : State), ((s.core c).array.find? (mxDue s c) = some m) ∧ ((s.core c).array.find? (fun x => x.id == m.id) = some m) ∧ (m.spent = m.len) ∧ (m.stop = none) ∧ (runCmd s c m = some (z, fl)) ∧ ((s.group c m.hslot).mq = [(m.id, none)]))
    ∧ (∃ (c b : Nat) (m : MxCmd) (s : State), ((s.core c).port.find? (fun m => m.bank == b && !m.started) = some m) ∧ ((s.core c).port.any (fun x => x.started) = false) ∧ (tileBusy (s.core c) m = false) ∧ (m.at_ < (s.core c).cycle) ∧ ((s.core c).zlast.find? 16 ≠ some (s.core c).cycle) ∧ (readsPoison s c m = false) ∧ (m.op = 0xCC))
    ∧ (∃ (c b : Nat) (m : MxCmd) (s : State), ((s.core c).port.find? (fun m => m.bank == b && !m.started) = some m) ∧ ((s.core c).port.any (fun x => x.started) = false) ∧ (tileBusy (s.core c) m = false) ∧ (m.at_ < (s.core c).cycle) ∧ ((s.core c).zlast.find? 16 ≠ some (s.core c).cycle) ∧ (readsPoison s c m = false) ∧ (m.op = 0xCD))
    ∧ (∃ (c : Nat) (s : State), ∃ (bad : Bool), (c < 192) ∧ (booted s = true) ∧ (((s.core c).regs.get 0 0x10).getLsbD 0 = true) ∧ ((s.core c).kat = none))
    ∧ (∃ (c : Nat) (s : State), ∃ (x : Injection), (c < 192) ∧ (booted s = true) ∧ ((s.core c).kat = some x) ∧ (x.ends = 0) ∧ (arrayIdle s c = false))
    ∧ (∃ (c : Nat) (s : State), ∃ (x : Injection), (c < 192) ∧ (booted s = true) ∧ ((s.core c).kat = some x) ∧ (x.ends = 0) ∧ (arrayIdle s c = true))
    ∧ (∃ (c : Nat) (s : State), ∃ (x : Injection), (c < 192) ∧ (booted s = true) ∧ ((s.core c).kat = some x) ∧ ((s.core c).cycle < x.ends))
    ∧ (∃ (c : Nat) (s : State), ∃ (x : Injection), (c < 192) ∧ (booted s = true) ∧ ((s.core c).kat = some x) ∧ (x.ends ≠ 0) ∧ ((s.core c).cycle + 1 < x.ends))
    ∧ (∃ (c : Nat) (s : State), ∃ (x : Injection), (c < 192) ∧ (booted s = true) ∧ ((s.core c).kat = some x) ∧ (x.ends ≠ 0) ∧ (x.ends ≤ (s.core c).cycle + 1))
    ∧ (∃ (c : Nat) (m : MxCmd) (u : Team) (s : State), (m.op = 0xC8 ∨ m.op = 0xC9) ∧ (m.pa ≠ 0) ∧ (m.pb ≠ 0) ∧ (m.spent = 0) ∧ (m.stop = none) ∧ (m.sums = []) ∧ (m.len = 4 + runCycles m) ∧ (∀ b < m.nb, ∀ p < m.pa, ∀ q < m.pb, pairPoison u m b p q = false) ∧ (m.op = 0xC9 → ∀ b < m.nb, localBad u (m.mbase + m.mstr * b) 2048 = false ∧ ∀ col < 64, ∀ g < 64, nibbleAt u m b col g % 4 < nibbleAt u m b col g / 4) ∧ ((s.tile c m.bank m.zd).poison = []) ∧ (SMap.wf 0 (s.tile c m.bank m.zd).elems = true)) :=
  ⟨⟨0, 0, m0, (sM [m0]), by decide +kernel⟩,
   ⟨0, mst, zR, 0, (sM [mst]), by decide +kernel⟩,
   ⟨0, 0, prd, (sP [prd]), by decide +kernel⟩,
   ⟨0, 0, pwr, (sP [pwr]), by decide +kernel⟩,
   ⟨0, sB, true, by decide +kernel⟩,
   ⟨0, (sKat { mismatch := true } [mst] 7), { mismatch := true }, by decide +kernel⟩,
   ⟨0, (sKat { mismatch := true } [] 7), { mismatch := true }, by decide +kernel⟩,
   ⟨0, (sKat { mismatch := true, ends := 12 } [] 7), { mismatch := true, ends := 12 }, by decide +kernel⟩,
   ⟨0, (sKat { mismatch := true, ends := 12 } [] 7), { mismatch := true, ends := 12 }, by decide +kernel⟩,
   ⟨0, (sKat { mismatch := true, ends := 12 } [] 11), { mismatch := true, ends := 12 }, by decide +kernel⟩,
   ⟨0, { m0 with len := 4 + runCycles m0 }, tmM, (sM []), by decide +kernel⟩⟩

theorem witness_CoreEvents_1 :
    (∃ (id : Nat) (f : Fill) (s : State),
      let u := (s.group f.core f.hslot).team
      (s.fills.find? (fun x => x.id == id) = some f) ∧ ((s.group f.core f.hslot).alloc = true) ∧ (f.part = 0) ∧ (f.uni = false))
    ∧ (∃ (id : Nat) (f : Fill) (s : State),
      let u := (s.group f.core f.hslot).team
      (s.fills.find? (fun x => x.id == id) = some f) ∧ ((s.group f.core f.hslot).alloc = true) ∧ (f.part = 0) ∧ (f.uni = true))
    ∧ (∃ (c : Nat) (s : State),
      let s0 := arrayCycle s c
      let k := s0.core c
      let s1 := waitersYield (settle (performDue (skipCycle ({ s0 with gt := Nat.max s0.gt (k.phase / phaseUnit) }.setCore c { k with cycle := k.cycle + 1, phase := k.phase + periodAt (pointOf s0 (clusterOf c)) }) c) c) c) c
      let s2 := bumpCore s1 c 13 (missCount s1 c)
      let ref (x : Nat × Nat × Nat × Nat) : FragRef := { core := c, hslot := x.2.2.1, entry := x.2.2.2 }
      (s.cur = none) ∧ (s.starts = []) ∧ (candidates s2 c = []))
    ∧ (∃ (c : Nat) (s : State),
      let s0 := arrayCycle s c
      let k := s0.core c
      let s1 := waitersYield (settle (performDue (skipCycle ({ s0 with gt := Nat.max s0.gt (k.phase / phaseUnit) }.setCore c { k with cycle := k.cycle + 1, phase := k.phase + periodAt (pointOf s0 (clusterOf c)) }) c) c) c) c
      let s2 := bumpCore s1 c 13 (missCount s1 c)
      let ref (x : Nat × Nat × Nat × Nat) : FragRef := { core := c, hslot := x.2.2.1, entry := x.2.2.2 }
      (s.cur = none) ∧ (s.starts = []) ∧ ((freeLane s2 c).isSome = true)) :=
  ⟨⟨7, ({ id := 7, core := 0, hslot := 0, uni := false, sid := 1, pos := 4, words := [5, 6] } : Fill), { s1 with fills := [{ id := 7, core := 0, hslot := 0, uni := false, sid := 1, pos := 4, words := [5, 6] }] }, by decide +kernel⟩,
   ⟨7, ({ id := 7, core := 0, hslot := 0, uni := true, sid := 1, pos := 4, words := [5, 6], poison := true } : Fill), { s1 with fills := [{ id := 7, core := 0, hslot := 0, uni := true, sid := 1, pos := 4, words := [5, 6], poison := true }] }, by decide +kernel⟩,
   ⟨0, sNo, by decide +kernel⟩,
   ⟨0, sNo, by decide +kernel⟩⟩

end Engines

namespace Matrix

def tmI : Team := { team4 with started := true, strands := (team4.strands.map (fun p => (p.1, {p.2 with resident := List.range 32}))) ++ [(3, {resident := List.range 32})] }
def gI (w : Wait) : GroupSlot := { group4 with frags := [(0, {frag4 with wait := w}), (1, {frag4 with m := 0, e := 0, pc := 0x2000})] }
def sI : State := { st (gI .ready) tmI with cur := none }

theorem witness_CoreEvents_2 :
    (∃ (c : Nat) (s : State),
      let s0 := arrayCycle s c
      let k := s0.core c
      let s1 := waitersYield (settle (performDue (skipCycle ({ s0 with gt := Nat.max s0.gt (k.phase / phaseUnit) }.setCore c { k with cycle := k.cycle + 1, phase := k.phase + periodAt (pointOf s0 (clusterOf c)) }) c) c) c) c
      let s2 := bumpCore s1 c 13 (missCount s1 c)
      let ref (x : Nat × Nat × Nat × Nat) : FragRef := { core := c, hslot := x.2.2.1, entry := x.2.2.2 }
      (s.cur = none) ∧ (s.starts = []) ∧ (candidates s2 c ≠ []))
    ∧ (∃ (c h e : Nat) (f : Frag) (s : State), ((s.group c h).frags.find? e = some f) ∧ ((s.group c h).alloc = true) ∧ (isCandidate s c h e f = true) ∧ ((s.core c).readyAt f + 1024 ≤ (s.core c).cycle)) :=
  ⟨⟨0, sI, by decide +kernel⟩,
   ⟨0, 0, 0, frag4, (sI.modCore 0 (fun k => {k with cycle := 2000})), by decide +kernel⟩⟩

end Matrix

namespace Reads

def a0 : Acc := { kind := .load, core := 0, hslot := 0, sid := 1, slot := 0, uni := true, addr := 0x1048, pc := 0x1000, word := 0, size := 8, pos := 5, asid := 1, aid := 9 }
def f0 : Fetch := { id := 7, core := 0, asid := 1, line := 0x10, sector := 1, accs := [a0] }
def sT : State := { withPage s1 page 0 with cur := none, fetches := [f0], gt := 77 }
def sT' := (translate sT 0 1 0x1000 0).2
def sA : State := { s1 with cur := none, fetches := [f0], gt := 77 }
def sA' := (translate sA 0 1 0x1000 0).2
def p0 : Posted := { id := 8, kind := .store, core := 0, hslot := 0, asid := 1, line := 0x10, bytes := [(4, 9)], accs := [{a0 with kind := .store, addr := 0x1004, size := 1, data := 9}] }
def sP : State := { withPage s1 page 0 with cur := none, posted := [p0], gt := 77 }
def sP' := (translate sP 0 1 0x1000 0).2
def q0 : AtlbReq := { id := 9, core := 0, asid := 1, va := 0x1000 }
def sQ : State := { withPage s1 page 0 with cur := none, atlbReqs := [q0] }
def q1 : AtlbReq := { q0 with answer := some (some (15, 0, page.leaf)) }
def f1 : Fetch := { f0 with stage := .home 0x9000 }
def sH : State := { sT with fetches := [f1], mem := wordMem 0x9048 0x1122334455667788 }
def f2 : Fetch := { f0 with stage := .arrived, lane := true, bytes := List.replicate 64 3, accs := [], sector := 2 }
def p1 : Posted := { p0 with stage := .home 0x9000 }
def sS : State := { sT with fetches := [], posted := [p1], homes := [(0x90, {lmax := 100, pending := [{t := some 120, bytes := [(4,1)]}]})] }
def fA : Fetch := { f0 with stage := .arrived, bytes := List.replicate 64 3 }

theorem witness_TranslationAndReads :
    (∃ (id : Nat) (f : Fetch) (e : SliceEntry) (s s' : State),
      let pa := leafAddr e.bits (f.line * 256) e.leaf
      (s.fetches.find? (fun f => f.id == id && f.stage == .walk) = some f) ∧ (fetchPage s f = (some e, s')) ∧ (e.leaf.attr < 2) ∧ (anyDenied e.leaf f.pkr f.replay (issueOrder f) = false) ∧ (e.leaf.attr = 1 → (∀ a ∈ f.accs, ∀ p ∈ s.posted, p.id ∈ a.after → p.stage ≠ .walk) ∧ ∀ x ∈ s.fetches, x.id = f.id → x.lane = false))
    ∧ (∃ (id : Nat) (f : Fetch) (s s' : State), (s.fetches.find? (fun f => f.id == id && f.stage == .walk) = some f) ∧ (fetchPage s f = (none, s')))
    ∧ (∃ (p : Posted) (e : SliceEntry) (s s' : State),
      let pa := leafAddr e.bits (p.line * 256) e.leaf
      (s.fetches.find? (fun f => f.id == p.id && f.stage == .walk) = none) ∧ (s.posted.find? (fun p => p.stage == .walk) = some p) ∧ (p.kind ≠ .hardware) ∧ (p.kind ≠ .tagst) ∧ (postedPage s p = (some e, s')) ∧ (e.leaf.attr < 2) ∧ (anyDenied e.leaf p.pkr p.replay p.accs = false))
    ∧ (∃ (id : Nat) (q : AtlbReq) (o : Option SliceEntry) (s s' : State), (s.fetches.find? (fun f => f.id == id && f.stage == .walk) = none) ∧ ((s.posted.find? (fun p => p.stage == .walk)).filter (fun p => p.id == id) = none) ∧ (s.atlbReqs.find? (fun q => q.id == id && q.answer.isNone) = some q) ∧ (translate s (dieOf q.core) q.asid q.va q.core q.addr = (o, s')))
    ∧ (∃ (id : Nat) (q : AtlbReq) (o : Option (Nat × Nat × PageLeaf)) (s : State), (s.atlbReqs.find? (fun q => q.id == id) = some q) ∧ (q.answer = some o))
    ∧ (∃ (id pa : Nat) (f : Fetch) (a : Acc) (s : State),
      let h := s.homes.get {} (pa / 256)
      let known := (s.die (dieOfPa (pa / 256 * 256))).msc.any (fun x => x.1 == pa / 256)
      let len0 := if known then h.len else 256
      let len := if h.quiet = true ∧ h.lmax ≤ s.gt then Nat.min 4096 (2 * len0) else len0
      let line := Memory.readBytes s.mem (pa / 256 * 256) 256
      let seen := if a.lane then line else overlay (ownBytes s a) line
      (s.fetches.find? (fun f => f.id == id) = some f) ∧ (f.stage = .home pa) ∧ ((s.homes.get {} (pa / 256)).pending = []) ∧ (lineLocked s (pa / 256) = false) ∧ (writebackPosted s f.asid f.line = false) ∧ (f.accs = [a]) ∧ (a.after = []) ∧ (a.kind = .load) ∧ (a.dead = false) ∧ (f.lane = false) ∧ (f.inst = false) ∧ (f.tagc = false))
    ∧ (∃ (id : Nat) (f : Fetch) (a : Acc) (s : State),
      let line := sectorLine f.sector f.bytes
      let seen := if a.lane then line else overlay (ownBytes s a) line
      (s.fills.find? (fun x => x.id == id) = none) ∧ (s.fetches.find? (fun f => f.id == id && !f.lane && f.stage == .arrived) = some f) ∧ (f.accs = [a]) ∧ (a.kind = .load) ∧ (a.dead = false) ∧ (f.tagc = false))
    ∧ (∃ (id : Nat) (f : Fetch) (s : State), (s.fetches.find? (fun f => f.id == id && f.lane && f.stage == .arrived) = some f) ∧ (f.kept = []) ∧ (f.tagc = false) ∧ (f.noalloc = false) ∧ (f.sector < 4) ∧ (f.bytes.length = 64) ∧ (findLine (s.core (l1Core s f.core f.line)).l1 f.asid f.line = none)) :=
  ⟨⟨7, f0, page, sT, sT', by decide +kernel⟩,
   ⟨7, f0, sA, sA', by decide +kernel⟩,
   ⟨p0, page, sP, sP', by decide +kernel⟩,
   ⟨9, q0, (some page), sQ, (translate sQ 0 1 0x1000 0).2, by decide +kernel⟩,
   ⟨9, q1, (some (15, 0, page.leaf)), { sQ with atlbReqs := [q1] }, by decide +kernel⟩,
   ⟨7, 0x9000, f1, a0, sH, by decide +kernel⟩,
   ⟨7, fA, a0, { sT with fetches := [fA] }, by decide +kernel⟩,
   ⟨7, f2, { sT with fetches := [f2] }, by decide +kernel⟩⟩

theorem witness_StoresAndAtomicsAtHome_2 :
    (∃ (line n : Nat) (p : Pend) (rest : List Pend) (s : State), (MemoryOk s) ∧ ((s.homes.get {} line).pending = p :: rest) ∧ (p.t = some n) ∧ (n ≤ s.gt) ∧ (p.link = none) ∧ (p.wb = none) ∧ ((p.bytes.map Prod.fst).Nodup))
    ∧ (∃ (line : Nat) (s : State),
      let dt := ((s.die (dieOfPa (line * 256))).regs.get 0 0).toNat
      let blk := line * 256 % 2 ^ 35 / 4096
      let at_ := dt / 2 ^ 20 % 2 ^ 32 * 2 ^ 20 + 64 * (blk / 512) + blk % 512 / 8
      (line ∈ s.mscDirty) ∧ (dt % 2 = 1))
    ∧ (∃ (line : Nat) (s : State),
      let dt := ((s.die (dieOfPa (line * 256))).regs.get 0 0).toNat
      let blk := line * 256 % 2 ^ 35 / 4096
      let at_ := dt / 2 ^ 20 % 2 ^ 32 * 2 ^ 20 + 64 * (blk / 512) + blk % 512 / 8
      (line ∈ s.mscDirty) ∧ (dt % 2 = 0)) :=
  ⟨⟨0x90, 120, ({t := some 120, bytes := [(4,1), (5,0)]} : Pend), [], { sS with gt := 130, homes := [(0x90, {lmax := 100, pending := [{t := some 120, bytes := [(4,1),(5,0)]}]})] }, by decide +kernel⟩,
   ⟨0x90, { sS with mscDirty := [0x90, 0x91], dies := [(0, {regs := [(0, 1 + 2 * 2^20)]})] }, by decide +kernel⟩,
   ⟨0x90, { sS with mscDirty := [0x90, 0x91], dies := [(0, {regs := [(0, 2 * 2^20)]})] }, by decide +kernel⟩⟩

end Reads

namespace Homes

def a0 : Acc := { kind := .load, core := 0, hslot := 0, sid := 1, slot := 0, uni := true, addr := 0x1048, pc := 0x1000, word := 0, size := 8, pos := 5, asid := 1, aid := 9 }
def f0 : Fetch := { id := 7, core := 0, asid := 1, line := 0x10, sector := 1, accs := [a0] }
def sT : State := { withPage s1 page 0 with cur := none, fetches := [f0], gt := 7 }
def p0 : Posted := { id := 8, kind := .store, core := 0, hslot := 0, asid := 1, line := 0x10, bytes := [(4, 9)], accs := [{a0 with kind := .store, addr := 0x1004, size := 1, data := 9}] }
def p1 : Posted := { p0 with stage := .home 0x9000 }
def sS : State := { sT with fetches := [], posted := [p1], homes := [(0x90, {lmax := 10, pending := [{t := some 12, bytes := [(4,1)]}]})] }
def aa : Acc := { a0 with kind := .atomic 0x90 false false false, data := 5, size := 4, uni := false }
def pa0 : Posted := { p1 with kind := .atomic, accs := [aa] }
def sAt : State := { sS with posted := [pa0], mem := wordMem 0x9048 0x1122334455667788 }
def deqMem (ws : List Nat) : List Host.Cell := ((ws.zipIdx.map (fun p => wordMem (0x9040 + 8 * p.2) p.1)).flatten)
def ad (k : AccKind) : Acc := { a0 with kind := k, addr := 0x1040, data := 77, size := 64, uni := true }
def pd (k : AccKind) : Posted := { p1 with kind := .deque, accs := [ad k] }
def pg2 : SliceEntry := { asid := 1, va := 0, bits := 15, leaf := { frame := 1, x := true, rd := true, w := true } }
def sD (k : AccKind) (ws : List Nat) : State := { sS with posted := [pd k], homes := [], mem := deqMem ws, dies := [(0, { slices := [(sliceOf 0, [pg2])] })] }

theorem witness_StoresAndAtomicsAtHome_1 :
    (∃ (id pa : Nat) (p : Posted) (s : State),
      let h := s.homes.get {} (pa / 256)
      (s.posted.find? (fun p => p.id == id) = some p) ∧ (p.stage = .home pa) ∧ (p.kind = .store) ∧ (mayArrive s p pa = true) ∧ (p.tagc = false) ∧ (p.accs ≠ []))
    ∧ (∃ (id pa op : Nat) (sg h2 nr : Bool) (p : Posted) (a : Acc) (rest : List Acc) (s : State),
      let at_ := pa / 256 * 256 + vaOf a % 256
      let old := newestWord s at_ a.size
      (s.posted.find? (fun p => p.id == id && p.kind == .atomic) = some p) ∧ (p.stage = .home pa) ∧ (p.accs = a :: rest) ∧ (a.kind = .atomic op sg h2 nr) ∧ (mayArrive s p pa = true) ∧ (cmMode (s.die (dieOfPa pa)) = 0) ∧ (p.tagc = false))
    ∧ (∃ (id pa : Nat) (p : Posted) (a : Acc) (rest : List Acc) (s : State),
      let at_ := pa / 256 * 256 + vaOf a % 256
      let ws := (List.range 8).map (fun i => newestWord s (at_ + 8 * i) 8)
      let s1 := homeEvent { s with posted := s.posted.filter (fun x => x.id != id) } (dieOfPa pa) (pa / 256) a
      let top := ws.getD 2 0
      let bot := ws.getD 3 0
      let element (i : Nat) (wr : Bool) := dequeElement s1 (dieOfPa pa) a.asid a.core p.pkr ws i wr
      let filled (t : State) (fs : List (Nat × List W64)) : Prop := t.fills.map (fun q => (q.core, q.hslot, q.uni, q.pos, q.words)) = s.fills.map (fun q => (q.core, q.hslot, q.uni, q.pos, q.words)) ++ fs.map (fun x => (a.core, a.hslot, a.uni, x.1, x.2))
      let words (value : Nat) : List W64 := if a.uni then [.ofNat 64 value] else [.ofNat 64 (value % 2 ^ 32), .ofNat 64 (value / 2 ^ 32)]
      let ends (t : State) (value status : Nat) : Prop := filled t ((if a.kind = .dqpush then [] else [(a.pos, words value)]) ++ [(a.pos + (words 0).length, [.ofNat 64 status])])
      let only (s2 t : State) (ranges : List (Nat × Nat)) : Prop := ∀ b, (∀ g ∈ ranges, b < g.1 ∨ g.1 + g.2 ≤ b) → newestByte t b = newestByte s2 b
      (s.posted.find? (fun p => p.id == id && p.kind == .deque && p.elem.isNone) = some p) ∧ (p.stage = .home pa) ∧ (p.accs = a :: rest) ∧ (a.kind = .dqpush ∨ a.kind = .dqpop ∨ a.kind = .dqsteal) ∧ (mayArrive s p pa = true) ∧ (cmMode (s.die (dieOfPa pa)) = 0) ∧ (p.tagc = false) ∧ (vaOf a % 64 = 0) ∧ (a.dead = false) ∧ (dequeOk ws = false)) :=
  ⟨⟨8, 0x9000, p1, sS, by decide +kernel⟩,
   ⟨8, 0x9000, 0x90, false, false, false, pa0, aa, [], sAt, by decide +kernel⟩,
   ⟨8, 0x9000, (pd .dqpush), (ad .dqpush), [], (sD .dqpush [0x2000, 3, 1, 2]), by decide +kernel⟩⟩

end Homes

namespace Homes2

def a0 : Acc := { kind := .load, core := 0, hslot := 0, sid := 1, slot := 0, uni := true, addr := 0x1048, pc := 0x1000, word := 0, size := 8, pos := 5, asid := 1, aid := 9 }
def f0 : Fetch := { id := 7, core := 0, asid := 1, line := 0x10, sector := 1, accs := [a0] }
def sT : State := { withPage s1 page 0 with cur := none, fetches := [f0], gt := 7 }
def p0 : Posted := { id := 8, kind := .store, core := 0, hslot := 0, asid := 1, line := 0x10, bytes := [(4, 9)], accs := [{a0 with kind := .store, addr := 0x1004, size := 1, data := 9}] }
def p1 : Posted := { p0 with stage := .home 0x9000 }
def sS : State := { sT with fetches := [], posted := [p1], homes := [(0x90, {lmax := 10, pending := [{t := some 12, bytes := [(4,1)]}]})] }
def deqMem (ws : List Nat) : List Host.Cell := ((ws.zipIdx.map (fun p => wordMem (0x9040 + 8 * p.2) p.1)).flatten)
def ad (k : AccKind) : Acc := { a0 with kind := k, addr := 0x1040, data := 77, size := 64, uni := true }
def pd (k : AccKind) : Posted := { p1 with kind := .deque, accs := [ad k] }
def pg2 : SliceEntry := { asid := 1, va := 0, bits := 15, leaf := { frame := 1, x := true, rd := true, w := true } }
def sD (k : AccKind) (ws : List Nat) : State := { sS with posted := [pd k], homes := [], mem := deqMem ws, dies := [(0, { slices := [(sliceOf 0, [pg2])] })] }
def el (k : AccKind) (ws : List Nat) (i : Nat) (wr : Bool) := dequeElement (homeEvent { sD k ws with posted := [] } 0 0x90 (ad k)) 0 1 0 0 (ws ++ [0,0,0,0]) i wr
def eaOf (x : (Stage ⊕ Nat) × State) : Nat := match x.1 with | .inl (.home n) => n | .inr n => n + 1000000 | _ => 0

theorem witness_StoresAndAtomicsAtHome_3 :
    (∃ (id pa : Nat) (p : Posted) (a : Acc) (rest : List Acc) (s : State),
      let at_ := pa / 256 * 256 + vaOf a % 256
      let ws := (List.range 8).map (fun i => newestWord s (at_ + 8 * i) 8)
      let s1 := homeEvent { s with posted := s.posted.filter (fun x => x.id != id) } (dieOfPa pa) (pa / 256) a
      let top := ws.getD 2 0
      let bot := ws.getD 3 0
      let element (i : Nat) (wr : Bool) := dequeElement s1 (dieOfPa pa) a.asid a.core p.pkr ws i wr
      let filled (t : State) (fs : List (Nat × List W64)) : Prop := t.fills.map (fun q => (q.core, q.hslot, q.uni, q.pos, q.words)) = s.fills.map (fun q => (q.core, q.hslot, q.uni, q.pos, q.words)) ++ fs.map (fun x => (a.core, a.hslot, a.uni, x.1, x.2))
      let words (value : Nat) : List W64 := if a.uni then [.ofNat 64 value] else [.ofNat 64 (value % 2 ^ 32), .ofNat 64 (value / 2 ^ 32)]
      let ends (t : State) (value status : Nat) : Prop := filled t ((if a.kind = .dqpush then [] else [(a.pos, words value)]) ++ [(a.pos + (words 0).length, [.ofNat 64 status])])
      let only (s2 t : State) (ranges : List (Nat × Nat)) : Prop := ∀ b, (∀ g ∈ ranges, b < g.1 ∨ g.1 + g.2 ≤ b) → newestByte t b = newestByte s2 b
      (s.posted.find? (fun p => p.id == id && p.kind == .deque && p.elem.isNone) = some p) ∧ (p.stage = .home pa) ∧ (p.accs = a :: rest) ∧ (a.kind = .dqpush ∨ a.kind = .dqpop ∨ a.kind = .dqsteal) ∧ (mayArrive s p pa = true) ∧ (cmMode (s.die (dieOfPa pa)) = 0) ∧ (p.tagc = false) ∧ (vaOf a % 64 = 0) ∧ (a.dead = false) ∧ (dequeOk ws = true) ∧ (a.kind = .dqpush) ∧ (bot - top = ws.getD 1 0))
    ∧ (∃ (id pa : Nat) (p : Posted) (a : Acc) (rest : List Acc) (s : State),
      let at_ := pa / 256 * 256 + vaOf a % 256
      let ws := (List.range 8).map (fun i => newestWord s (at_ + 8 * i) 8)
      let s1 := homeEvent { s with posted := s.posted.filter (fun x => x.id != id) } (dieOfPa pa) (pa / 256) a
      let top := ws.getD 2 0
      let bot := ws.getD 3 0
      let element (i : Nat) (wr : Bool) := dequeElement s1 (dieOfPa pa) a.asid a.core p.pkr ws i wr
      let filled (t : State) (fs : List (Nat × List W64)) : Prop := t.fills.map (fun q => (q.core, q.hslot, q.uni, q.pos, q.words)) = s.fills.map (fun q => (q.core, q.hslot, q.uni, q.pos, q.words)) ++ fs.map (fun x => (a.core, a.hslot, a.uni, x.1, x.2))
      let words (value : Nat) : List W64 := if a.uni then [.ofNat 64 value] else [.ofNat 64 (value % 2 ^ 32), .ofNat 64 (value / 2 ^ 32)]
      let ends (t : State) (value status : Nat) : Prop := filled t ((if a.kind = .dqpush then [] else [(a.pos, words value)]) ++ [(a.pos + (words 0).length, [.ofNat 64 status])])
      let only (s2 t : State) (ranges : List (Nat × Nat)) : Prop := ∀ b, (∀ g ∈ ranges, b < g.1 ∨ g.1 + g.2 ≤ b) → newestByte t b = newestByte s2 b
      (s.posted.find? (fun p => p.id == id && p.kind == .deque && p.elem.isNone) = some p) ∧ (p.stage = .home pa) ∧ (p.accs = a :: rest) ∧ (a.kind = .dqpush ∨ a.kind = .dqpop ∨ a.kind = .dqsteal) ∧ (mayArrive s p pa = true) ∧ (cmMode (s.die (dieOfPa pa)) = 0) ∧ (p.tagc = false) ∧ (vaOf a % 64 = 0) ∧ (a.dead = false) ∧ (dequeOk ws = true) ∧ (a.kind ≠ .dqpush) ∧ (bot = top))
    ∧ (∃ (id pa : Nat) (p : Posted) (a : Acc) (rest : List Acc) (s : State),
      let at_ := pa / 256 * 256 + vaOf a % 256
      let ws := (List.range 8).map (fun i => newestWord s (at_ + 8 * i) 8)
      let s1 := homeEvent { s with posted := s.posted.filter (fun x => x.id != id) } (dieOfPa pa) (pa / 256) a
      let top := ws.getD 2 0
      let bot := ws.getD 3 0
      let element (i : Nat) (wr : Bool) := dequeElement s1 (dieOfPa pa) a.asid a.core p.pkr ws i wr
      let filled (t : State) (fs : List (Nat × List W64)) : Prop := t.fills.map (fun q => (q.core, q.hslot, q.uni, q.pos, q.words)) = s.fills.map (fun q => (q.core, q.hslot, q.uni, q.pos, q.words)) ++ fs.map (fun x => (a.core, a.hslot, a.uni, x.1, x.2))
      let words (value : Nat) : List W64 := if a.uni then [.ofNat 64 value] else [.ofNat 64 (value % 2 ^ 32), .ofNat 64 (value / 2 ^ 32)]
      let ends (t : State) (value status : Nat) : Prop := filled t ((if a.kind = .dqpush then [] else [(a.pos, words value)]) ++ [(a.pos + (words 0).length, [.ofNat 64 status])])
      let only (s2 t : State) (ranges : List (Nat × Nat)) : Prop := ∀ b, (∀ g ∈ ranges, b < g.1 ∨ g.1 + g.2 ≤ b) → newestByte t b = newestByte s2 b
      ∃ (ea : Nat) (s2 : State),
      (s.posted.find? (fun p => p.id == id && p.kind == .deque && p.elem.isNone) = some p) ∧ (p.stage = .home pa) ∧ (p.accs = a :: rest) ∧ (a.kind = .dqpush ∨ a.kind = .dqpop ∨ a.kind = .dqsteal) ∧ (mayArrive s p pa = true) ∧ (cmMode (s.die (dieOfPa pa)) = 0) ∧ (p.tagc = false) ∧ (vaOf a % 64 = 0) ∧ (a.dead = false) ∧ (dequeOk ws = true) ∧ (a.kind = .dqpush) ∧ (bot - top ≠ ws.getD 1 0) ∧ (element bot true = (.inl (.home ea), s2)) ∧ (ea % 8 = 0) ∧ (ea + 8 ≤ at_ + 24 ∨ at_ + 32 ≤ ea))
    ∧ (∃ (id pa : Nat) (p : Posted) (a : Acc) (rest : List Acc) (s : State),
      let at_ := pa / 256 * 256 + vaOf a % 256
      let ws := (List.range 8).map (fun i => newestWord s (at_ + 8 * i) 8)
      let s1 := homeEvent { s with posted := s.posted.filter (fun x => x.id != id) } (dieOfPa pa) (pa / 256) a
      let top := ws.getD 2 0
      let bot := ws.getD 3 0
      let element (i : Nat) (wr : Bool) := dequeElement s1 (dieOfPa pa) a.asid a.core p.pkr ws i wr
      let filled (t : State) (fs : List (Nat × List W64)) : Prop := t.fills.map (fun q => (q.core, q.hslot, q.uni, q.pos, q.words)) = s.fills.map (fun q => (q.core, q.hslot, q.uni, q.pos, q.words)) ++ fs.map (fun x => (a.core, a.hslot, a.uni, x.1, x.2))
      let words (value : Nat) : List W64 := if a.uni then [.ofNat 64 value] else [.ofNat 64 (value % 2 ^ 32), .ofNat 64 (value / 2 ^ 32)]
      let ends (t : State) (value status : Nat) : Prop := filled t ((if a.kind = .dqpush then [] else [(a.pos, words value)]) ++ [(a.pos + (words 0).length, [.ofNat 64 status])])
      let only (s2 t : State) (ranges : List (Nat × Nat)) : Prop := ∀ b, (∀ g ∈ ranges, b < g.1 ∨ g.1 + g.2 ≤ b) → newestByte t b = newestByte s2 b
      ∃ (ea : Nat) (s2 : State),
      (s.posted.find? (fun p => p.id == id && p.kind == .deque && p.elem.isNone) = some p) ∧ (p.stage = .home pa) ∧ (p.accs = a :: rest) ∧ (a.kind = .dqpush ∨ a.kind = .dqpop ∨ a.kind = .dqsteal) ∧ (mayArrive s p pa = true) ∧ (cmMode (s.die (dieOfPa pa)) = 0) ∧ (p.tagc = false) ∧ (vaOf a % 64 = 0) ∧ (a.dead = false) ∧ (dequeOk ws = true) ∧ (a.kind = .dqpop) ∧ (bot ≠ top) ∧ (element (bot - 1) false = (.inl (.home ea), s2)))
    ∧ (∃ (id pa : Nat) (p : Posted) (a : Acc) (rest : List Acc) (s : State),
      let at_ := pa / 256 * 256 + vaOf a % 256
      let ws := (List.range 8).map (fun i => newestWord s (at_ + 8 * i) 8)
      let s1 := homeEvent { s with posted := s.posted.filter (fun x => x.id != id) } (dieOfPa pa) (pa / 256) a
      let top := ws.getD 2 0
      let bot := ws.getD 3 0
      let element (i : Nat) (wr : Bool) := dequeElement s1 (dieOfPa pa) a.asid a.core p.pkr ws i wr
      let filled (t : State) (fs : List (Nat × List W64)) : Prop := t.fills.map (fun q => (q.core, q.hslot, q.uni, q.pos, q.words)) = s.fills.map (fun q => (q.core, q.hslot, q.uni, q.pos, q.words)) ++ fs.map (fun x => (a.core, a.hslot, a.uni, x.1, x.2))
      let words (value : Nat) : List W64 := if a.uni then [.ofNat 64 value] else [.ofNat 64 (value % 2 ^ 32), .ofNat 64 (value / 2 ^ 32)]
      let ends (t : State) (value status : Nat) : Prop := filled t ((if a.kind = .dqpush then [] else [(a.pos, words value)]) ++ [(a.pos + (words 0).length, [.ofNat 64 status])])
      let only (s2 t : State) (ranges : List (Nat × Nat)) : Prop := ∀ b, (∀ g ∈ ranges, b < g.1 ∨ g.1 + g.2 ≤ b) → newestByte t b = newestByte s2 b
      ∃ (ea : Nat) (s2 : State),
      (s.posted.find? (fun p => p.id == id && p.kind == .deque && p.elem.isNone) = some p) ∧ (p.stage = .home pa) ∧ (p.accs = a :: rest) ∧ (a.kind = .dqpush ∨ a.kind = .dqpop ∨ a.kind = .dqsteal) ∧ (mayArrive s p pa = true) ∧ (cmMode (s.die (dieOfPa pa)) = 0) ∧ (p.tagc = false) ∧ (vaOf a % 64 = 0) ∧ (a.dead = false) ∧ (dequeOk ws = true) ∧ (a.kind = .dqsteal) ∧ (bot ≠ top) ∧ (element top false = (.inl (.home ea), s2))) :=
  ⟨⟨8, 0x9000, (pd .dqpush), (ad .dqpush), [], (sD .dqpush [0x2000, 4, 1, 5]), by decide +kernel⟩,
   ⟨8, 0x9000, (pd .dqpop), (ad .dqpop), [], (sD .dqpop [0x2000, 4, 5, 5]), by decide +kernel⟩,
   ⟨8, 0x9000, (pd .dqpush), (ad .dqpush), [], (sD .dqpush [0x2000, 4, 1, 3]), (eaOf (el .dqpush [0x2000, 4, 1, 3] 3 true)), (el .dqpush [0x2000, 4, 1, 3] 3 true).2, by decide +kernel⟩,
   ⟨8, 0x9000, (pd .dqpop), (ad .dqpop), [], (sD .dqpop [0x2000, 4, 1, 3]), (eaOf (el .dqpop [0x2000, 4, 1, 3] 2 false)), (el .dqpop [0x2000, 4, 1, 3] 2 false).2, by decide +kernel⟩,
   ⟨8, 0x9000, (pd .dqsteal), (ad .dqsteal), [], (sD .dqsteal [0x2000, 4, 1, 3]), (eaOf (el .dqsteal [0x2000, 4, 1, 3] 1 false)), (el .dqsteal [0x2000, 4, 1, 3] 1 false).2, by decide +kernel⟩⟩

end Homes2

namespace Launches

def pgA : SliceEntry := { asid := 1, va := 0, bits := 15, leaf := { frame := 1, x := true, rd := true, w := true, reach := 0 } }
def wm (a : Nat) (ws : List Nat) : List Host.Cell := ((ws.zipIdx.map (fun p => wordMem (a + 8 * p.2) p.1)).flatten)
/-- ctx record at PA 0x10000: asid 1, root 0, enable, ebase, pkr, arena, ssz/nstripe, quota -/
def ctxW : List Nat := [1, 0, 0, 0, 0, 0x40000000, 5 + 16 * 2^16, 0]
/-- launch record: w0 entry, w1 args, w2: nstr 32, gsize 1, nteam 1 at 32; queue 0; w3: role0 1, loc 1 -/
def recWords (q : Nat) : List Nat := [0x1000, 0x2000, 32 + q * 2^24 + 2^32, 1 + 3 * 2^24 + 2^36, 0, 0, 0, 0]
def memL : List Host.Cell := (wm (0x8000 + 0x3000) (recWords 0)) ++ wm 0x10000 ctxW
def partL (q : Nat) : Part := { regs := [(0, 1), (8, 0x000102580003E80064), (0x1000 + 0x40 * q, 1 + 2^8), (0x1008 + 0x40*q, 0x10000), (0x1010 + 0x40*q, 0x3000 + 4), (0x1018 + 0x40*q, 1)] }
def sL : State := { gt := 100, nextId := 7, plat := { rdy := 0x1FFFFFFF }, mem := memL, dies := [(0, { slices := [(0, [pgA])] })], parts := [(0, partL 0)], cores := [] }
def ctxL (s : State) := readContext s 0 0x10000
def sL1 := ctxL sL
def b64 (s : State) := ((dispRead s 1 0 0x3000 64).2).getD []
def rd (s : State) := (dispRead s 1 0 0x3000 64).1
def nh (s : State) := nextHandle (rd (ctxL s).2) 0
def jd (s : State) := judge (nh s).2 0 (nh s).1 (ctxL s).1 (ctxL s).1.pkr (wordsOf 8 (b64 (ctxL s).2)) (some 0)
def lv (s : State) : Launch := { (jd s).2.1 with deps := liveDeps (jd s).2.2 (jd s).2.1 }
def s5of (s : State) : State := if (jd s).1 = 0 then logRecord (enterQueue (jd s).2.2 (lv s)) (lv s) 0 else (jd s).2.2
def s6of (s : State) : State := (dispAccess (s5of s) 1 (ctxL s).1.pkr (0x3000 + 40) 8 false true false).1
def sLb : State := { sL with dies := [] }
def run0 : Run := { id := 5, part := 0, core := 0, hslot := 0, ctx := sL1.1, items := [(1, 6, 0x3000)] }
def sR : State := { sL1.2 with runs := [run0], cores := s1.cores }
def hR := nextHandle sR 0
def sR2 := (dispRead hR.2 1 0 0x3000 64)
def jR := judge sR2.1 0 hR.1 run0.ctx run0.pkr (wordsOf 8 (sR2.2.getD [])) none
def sT := (run0.items.foldl (takeHandles run0) (sR, [])).1
def rT := dispRead sT 1 run0.pkr 0x3000 64
def jT := judge rT.1 0 hR.1 run0.ctx run0.pkr (wordsOf 8 (rT.2.getD [])) none
def sRx : State := { sR with mem := (wm (0x8000 + 0x3000) (recWords 9)) ++ wm 0x10000 ctxW }
def sTx := (run0.items.foldl (takeHandles run0) (sRx, [])).1
def rTx := dispRead sTx 1 run0.pkr 0x3000 64
def jTx := judge rTx.1 0 hR.1 run0.ctx run0.pkr (wordsOf 8 (rTx.2.getD [])) none
def lC : Launch := { jR.2.1 with handle := 9 }
def ch9 : Child := { sid := 1, pos := 6, addr := 0x3000, handle := 9, launch := some lC }
def ch10 : Child := { sid := 2, pos := 6, addr := 0x3000, handle := 10 }
def runC : Run := { run0 with arrived := true, items := [], children := [ch9] }
def sC (r : Run) (ls : List (Nat × Launch)) : State := { sR with runs := [r], launches := ls }
def runD : Run := { runC with children := [ch9, ch10] }
def sD : State := sC runD [(launchKey 0 9, lC)]
def jD (s : State) := judgeChild (fillPair (enterQueue s lC) runD 1 6 9 0) runD ch10
def sDx : State := { sD with mem := (wm (0x8000 + 0x3000) (recWords 9)) ++ wm 0x10000 ctxW }
def sLx : State := { sL with mem := (wm (0x8000 + 0x3000) (recWords 9)) ++ wm 0x10000 ctxW }
def sH (t : Nat) : State := sL.modPart 0 (fun p => { p with heads := [(0, .home t)] })

theorem witness_LaunchAcceptance :
    (∃ (part q h st : Nat) (b : List Byte) (l : Launch) (s s2 s3 s4 : State),
      let r := readContext s part (queueCtx (s.part part) q)
      let ctx := r.1
      let head := (lqReg (s.part part) q 0x20).toNat
      let ring := lqReg (s.part part) q 0x10
      let va : W64 := .ofNat 64 (bitsAt ring 12 45 * 4096 + head % 2 ^ Nat.min 10 (bitsAt ring 0 4) * 64)
      (ringReady s part q = true) ∧ ((s.part part).heads.find? (fun x => x.1 == q) = none) ∧ (replays r.2 ctx.asid = false) ∧ (dispRead r.2 ctx.asid ctx.pkr va 64 = (s2, none)))
    ∧ (∃ (part q h st : Nat) (b : List Byte) (l : Launch) (s s2 s3 s4 : State),
      let r := readContext s part (queueCtx (s.part part) q)
      let ctx := r.1
      let head := (lqReg (s.part part) q 0x20).toNat
      let ring := lqReg (s.part part) q 0x10
      let va : W64 := .ofNat 64 (bitsAt ring 12 45 * 4096 + head % 2 ^ Nat.min 10 (bitsAt ring 0 4) * 64)
      let l' := { l with deps := liveDeps s4 l }
      let s5 := if st = 0 then logRecord (enterQueue s4 l') l' 0 else s4
      ∃ (pa : Nat) (s6 : State),
      (ringReady s part q = true) ∧ ((s.part part).heads.find? (fun x => x.1 == q) = none) ∧ (replays r.2 ctx.asid = false) ∧ (dispRead r.2 ctx.asid ctx.pkr va 64 = (s2, some b)) ∧ (nextHandle s2 part = (h, s3)) ∧ (judge s3 part h ctx ctx.pkr (wordsOf 8 b) (some q) = (st, l, s4)) ∧ (dispAccess s5 ctx.asid ctx.pkr (va + 40) 8 false true false = (s6, .inl (.home pa))) ∧ (st = 0))
    ∧ (∃ (part q h st : Nat) (b : List Byte) (l : Launch) (s s2 s3 s4 : State),
      let r := readContext s part (queueCtx (s.part part) q)
      let ctx := r.1
      let head := (lqReg (s.part part) q 0x20).toNat
      let ring := lqReg (s.part part) q 0x10
      let va : W64 := .ofNat 64 (bitsAt ring 12 45 * 4096 + head % 2 ^ Nat.min 10 (bitsAt ring 0 4) * 64)
      let l' := { l with deps := liveDeps s4 l }
      let s5 := if st = 0 then logRecord (enterQueue s4 l') l' 0 else s4
      ∃ (pa : Nat) (s6 : State),
      (ringReady s part q = true) ∧ ((s.part part).heads.find? (fun x => x.1 == q) = none) ∧ (replays r.2 ctx.asid = false) ∧ (dispRead r.2 ctx.asid ctx.pkr va 64 = (s2, some b)) ∧ (nextHandle s2 part = (h, s3)) ∧ (judge s3 part h ctx ctx.pkr (wordsOf 8 b) (some q) = (st, l, s4)) ∧ (dispAccess s5 ctx.asid ctx.pkr (va + 40) 8 false true false = (s6, .inl (.home pa))) ∧ (st ≠ 0))
    ∧ (∃ (part q : Nat) (x : Nat × Track) (s : State), ((s.part part).heads.find? (fun x => x.1 == q) = some x) ∧ (trackDone s x.2 = false))
    ∧ (∃ (part q : Nat) (x : Nat × Track) (s : State), ((s.part part).heads.find? (fun x => x.1 == q) = some x) ∧ (trackDone s x.2 = true))
    ∧ (∃ (id : Nat) (x : Run) (s : State), ∃ (sid pos : Nat) (va : W64) (more : List (Nat × Nat × W64)) (h : Nat) (b : List Byte) (st : Nat) (l : Launch) (s1 s2 s3 : State), (s.runs.find? (fun x => x.id == id && !x.arrived) = some x) ∧ (ringRecordNext s x.ctx.asid = false) ∧ (x.items = (sid, pos, va) :: more) ∧ (NoTraceOf s x.core 8) ∧ ((x.items.foldl (takeHandles x) (s, [])).1 = s1) ∧ (nextHandle s x.part = (h, (nextHandle s x.part).2)) ∧ (dispRead s1 x.ctx.asid x.pkr va 64 = (s2, some b)) ∧ (judge s2 x.part h x.ctx x.pkr (wordsOf 8 b) none = (st, l, s3)) ∧ ((s.strand x.core (s.group x.core x.hslot).team sid).live = true) ∧ (st = 0))
    ∧ (∃ (id : Nat) (x : Run) (s : State), ∃ (sid pos : Nat) (va : W64) (more : List (Nat × Nat × W64)) (h : Nat) (b : List Byte) (st : Nat) (l : Launch) (s1 s2 s3 : State), (s.runs.find? (fun x => x.id == id && !x.arrived) = some x) ∧ (ringRecordNext s x.ctx.asid = false) ∧ (x.items = (sid, pos, va) :: more) ∧ (NoTraceOf s x.core 8) ∧ ((x.items.foldl (takeHandles x) (s, [])).1 = s1) ∧ (nextHandle s x.part = (h, (nextHandle s x.part).2)) ∧ (dispRead s1 x.ctx.asid x.pkr va 64 = (s2, some b)) ∧ (judge s2 x.part h x.ctx x.pkr (wordsOf 8 b) none = (st, l, s3)) ∧ ((s.strand x.core (s.group x.core x.hslot).team sid).live = true) ∧ (st ≠ 0) ∧ (more = []))
    ∧ (∃ (id : Nat) (x : Run) (ch : Child) (rest : List Child) (l : Launch) (s : State),
      let brief (q : Fill) := (q.core, q.hslot, q.uni, q.sid, q.pos, q.words)
      let filled (y : Child) (st : Nat) := (x.core, x.hslot, false, y.sid, y.pos, [BitVec.ofNat 64 y.handle, BitVec.ofNat 64 st])
      let kept (t : State) (cs : List Child) : Prop := t.runs = (if cs = [] then s.runs.filter (fun y => y.id != id) else s.runs.map (fun y => if y.id = id then { x with children := cs } else y))
      (s.runs.find? (fun x => x.id == id && x.arrived) = some x) ∧ (x.children = ch :: rest) ∧ (ch.launch.isSome = true) ∧ (s.launch? x.part ch.handle = some l) ∧ (l.part = x.part) ∧ (l.handle = ch.handle) ∧ (waitingIn (s.part x.part) l.queue < 1024) ∧ (observersDone s x.core x.hslot x.id false 6#6 = true) ∧ (∀ y ∈ ch :: rest, (s.strand x.core (s.group x.core x.hslot).team y.sid).live = true) ∧ (rest = []))
    ∧ (∃ (id : Nat) (x : Run) (ch : Child) (rest : List Child) (l : Launch) (s : State),
      let brief (q : Fill) := (q.core, q.hslot, q.uni, q.sid, q.pos, q.words)
      let filled (y : Child) (st : Nat) := (x.core, x.hslot, false, y.sid, y.pos, [BitVec.ofNat 64 y.handle, BitVec.ofNat 64 st])
      let kept (t : State) (cs : List Child) : Prop := t.runs = (if cs = [] then s.runs.filter (fun y => y.id != id) else s.runs.map (fun y => if y.id = id then { x with children := cs } else y))
      ∃ (nxt : Child) (more : List Child) (st : Nat) (l2 : Launch) (s2 : State),
      let s1 := fillPair (enterQueue s l) x ch.sid ch.pos l.handle 0
      (s.runs.find? (fun x => x.id == id && x.arrived) = some x) ∧ (x.children = ch :: rest) ∧ (ch.launch.isSome = true) ∧ (s.launch? x.part ch.handle = some l) ∧ (l.part = x.part) ∧ (l.handle = ch.handle) ∧ (waitingIn (s.part x.part) l.queue < 1024) ∧ (observersDone s x.core x.hslot x.id false 6#6 = true) ∧ (∀ y ∈ ch :: rest, (s.strand x.core (s.group x.core x.hslot).team y.sid).live = true) ∧ (rest = nxt :: more) ∧ (nxt.launch = none) ∧ (nxt.handle ≠ l.handle) ∧ (ringRecordNext s1 x.ctx.asid = false) ∧ (judgeChild s1 x nxt = (st, l2, s2)) ∧ (l2.part = x.part) ∧ (l2.handle = nxt.handle) ∧ (st = 0))
    ∧ (∃ (id : Nat) (x : Run) (ch : Child) (rest : List Child) (l : Launch) (s : State),
      let brief (q : Fill) := (q.core, q.hslot, q.uni, q.sid, q.pos, q.words)
      let filled (y : Child) (st : Nat) := (x.core, x.hslot, false, y.sid, y.pos, [BitVec.ofNat 64 y.handle, BitVec.ofNat 64 st])
      let kept (t : State) (cs : List Child) : Prop := t.runs = (if cs = [] then s.runs.filter (fun y => y.id != id) else s.runs.map (fun y => if y.id = id then { x with children := cs } else y))
      ∃ (nxt : Child) (more : List Child) (st : Nat) (l2 : Launch) (s2 : State),
      let s1 := fillPair (enterQueue s l) x ch.sid ch.pos l.handle 0
      (s.runs.find? (fun x => x.id == id && x.arrived) = some x) ∧ (x.children = ch :: rest) ∧ (ch.launch.isSome = true) ∧ (s.launch? x.part ch.handle = some l) ∧ (l.part = x.part) ∧ (l.handle = ch.handle) ∧ (waitingIn (s.part x.part) l.queue < 1024) ∧ (observersDone s x.core x.hslot x.id false 6#6 = true) ∧ (∀ y ∈ ch :: rest, (s.strand x.core (s.group x.core x.hslot).team y.sid).live = true) ∧ (rest = nxt :: more) ∧ (nxt.launch = none) ∧ (nxt.handle ≠ l.handle) ∧ (ringRecordNext s1 x.ctx.asid = false) ∧ (judgeChild s1 x nxt = (st, l2, s2)) ∧ (l2.part = x.part) ∧ (l2.handle = nxt.handle) ∧ (st ≠ 0) ∧ (more = [])) :=
  ⟨⟨0, 0, 0, 0, [], (jd sL).2.1, sLb, (dispRead (ctxL sLb).2 1 0 0x3000 64).1, sL, sL, by decide +kernel⟩,
   ⟨0, 0, (nh sL).1, (jd sL).1, (b64 sL1.2), (jd sL).2.1, sL, (rd sL1.2), (nh sL).2, (jd sL).2.2, 0xB028, (s6of sL), by decide +kernel⟩,
   ⟨0, 0, (nh sLx).1, (jd sLx).1, (b64 (ctxL sLx).2), (jd sLx).2.1, sLx, (rd (ctxL sLx).2), (nh sLx).2, (jd sLx).2.2, 0xB028, (s6of sLx), by decide +kernel⟩,
   ⟨0, 0, (0, .home 100), (sH 100), by decide +kernel⟩,
   ⟨0, 0, (0, .home 99), (sH 99), by decide +kernel⟩,
   ⟨5, run0, sR, 1, 6, 0x3000, [], hR.1, (rT.2.getD []), jT.1, jT.2.1, sT, rT.1, jT.2.2, by decide +kernel⟩,
   ⟨5, run0, sRx, 1, 6, 0x3000, [], hR.1, (rTx.2.getD []), jTx.1, jTx.2.1, sTx, rTx.1, jTx.2.2, by decide +kernel⟩,
   ⟨5, runC, ch9, [], lC, (sC runC [(launchKey 0 9, lC)]), by decide +kernel⟩,
   ⟨5, runD, ch9, [ch10], lC, sD, ch10, [], (jD sD).1, (jD sD).2.1, (jD sD).2.2, by decide +kernel⟩,
   ⟨5, runD, ch9, [ch10], lC, sDx, ch10, [], (jD sDx).1, (jD sDx).2.1, (jD sDx).2.2, by decide +kernel⟩⟩

end Launches

namespace Placement

def pgA : SliceEntry := { asid := 1, va := 0, bits := 15, leaf := { frame := 1, x := true, rd := true, w := true, reach := 0 } }
def ctx1 : Context := { asid := 1, arena := 0x40000000, ssz := 5, nstripe := 16, addr := 0x10000 }
def recWords (q : Nat) (x : Nat) : List W64 := [0x1000, 0x2000, .ofNat 64 (32 + q * 2^24 + x + 2^32), .ofNat 64 (1 + 3 * 2^24 + 2^36), 0, 0, 0, 0]
def lau (q h x : Nat) : Launch := { handle := h, part := 0, queue := q, words := recWords q x, args := [1,2,3], ctx := ctx1 }
def partP (q : Nat) : Part := { regs := [(0, 1), (8, 0x0001025803E80064), (0x1000 + 0x40 * q, 1 + 2^8), (0x1008 + 0x40*q, 0x10000)], queues := [(q, [5])] }
def sP (p : Part) (l : Launch) : State := { gt := 100, nextId := 7, plat := { rdy := 0x1FFFFFFF }, parts := [(0, p)], launches := [(launchKey 0 l.handle, l)], dies := [(0, { slices := [(0, [pgA])] })] }
def l5 := lau 3 5 0
def rw' (s : State) : State := (headPlacement (runWaits s 0) 0 l5).getD {}
def pT : Part := { partP 3 with turn := some 3, deficits := [(3, 5)], turnPlaced := 3 }
def pW : Part := { partP 3 with waited := [(5, 10000000)] }
def sPl : State := { rw' (sP pT l5) with mem := [] }
def tm0 : Team := (sPl.team 0 0)
def nt : Notice := { kind := 3, cause := 0, gt := 44 }
def sN : State := { st group4 { team4 with started := true, launch := 5 } with notices := [(0, [nt])], parts := [(0, { partP 3 with regs := [(0x10, 0x3000), (0x18, 5)] })], dies := [(0, { slices := [(0, [pgA])] })] }
def fr : FaultRec := { entry := 0, cause := 4, fslot := 1, fpc := 0x1000, faddr := 0, fword := 0, heldE := 7, pc := 0x1000, slot := 1, entered := true, supervisor := true }
def gF (fpc : W64) : GroupSlot := { group4 with fault := some fr, fpc := fpc, cause := 4, frags := [(0, { frag4 with e := 0, mid := true })] }
def gS : GroupSlot := { gF 0x1008 with gid := 0 }
def vS : SavedTeam := { part := 0, handle := 5, place := 0, core := 0, groups := [gS], swap := true }
def sS : State := { (st { group4 with alloc := false, frags := [] } team4) with saved := [vS], parts := [(0, partP 3)], launches := [(launchKey 0 5, l5)] }
def sPr : State := { (st group4 { team4 with started := true, launch := 5 }) with parts := [(0, partP 3)], launches := [(5, l5)] }

theorem witness_PlacementAndStart :
    (∃ (part : Nat) (s : State), (s.gt < (s.part part).lastDecision + 4))
    ∧ (∃ (part q : Nat) (l : Launch) (s s' : State), (dpReady s = true) ∧ ((s.part part).lastDecision + 4 ≤ s.gt) ∧ ((s.part part).noticeLogged = false) ∧ ((s.part part).dueDrain = []) ∧ ((s.part part).reserved = []) ∧ (s.saved = []) ∧ (q < 64) ∧ (∀ k < 64, k ≠ q → readyHead (runWaits s part) part k = none) ∧ (readyHead (runWaits s part) part q = some l) ∧ (headPlacement (runWaits s part) part l = some s') ∧ (0 < deficitOf (s.part part) q))
    ∧ (∃ (part q : Nat) (l : Launch) (s s' : State), (dpReady s = true) ∧ ((s.part part).lastDecision + 4 ≤ s.gt) ∧ ((s.part part).noticeLogged = false) ∧ ((s.part part).dueDrain = []) ∧ ((s.part part).reserved = []) ∧ (s.saved = []) ∧ (q < 64) ∧ (∀ k < 64, k ≠ q → readyHead (runWaits s part) part k = none) ∧ (readyHead (runWaits s part) part q = some l) ∧ (headPlacement (runWaits s part) part l = some s') ∧ ((s.part part).turn = none))
    ∧ (∃ (part q : Nat) (l : Launch) (s : State), ∃ (w : List Nat), (readyHead s part q = some l) ∧ (lim1Of (s.part part) < (s.part part).waited.get 0 l.handle) ∧ (reservedOf (s.part part) l = []) ∧ (l.cor = false) ∧ (reserveWindow s part l.gsize = some w))
    ∧ (∃ (part q : Nat) (l : Launch) (s : State), (readyHead s part q = some l) ∧ (lim1Of (s.part part) < (s.part part).waited.get 0 l.handle) ∧ (reservedOf (s.part part) l = []) ∧ (l.cor = true))
    ∧ (∃ (part q : Nat) (l : Launch) (s : State), (readyHead s part q = some l) ∧ (lim2Of (s.part part) < (s.part part).waited.get 0 l.handle) ∧ ((s.part part).starved.contains l.handle = false))
    ∧ (∃ (c u : Nat) (x : Team) (s : State), ((s.core c).teams.find? u = some x) ∧ (x.started = false) ∧ (x.restart = false) ∧ (flushPending s (clusterOf c) = false))
    ∧ (∃ (part c u : Nat) (n : Notice) (rest : List Notice) (s : State),
      let ring := (s.part part).regs.get 0 0x10
      let idx := (s.part part).noticeIdx
      ∃ (pa : Nat) (s1 : State),
      ((s.part part).noticeLogged = false) ∧ (s.notices.get [] part = n :: rest) ∧ (residentTeam s part (bitsAt ((s.part part).regs.get 0 0x18) 0 32) 0 = some (c, u)) ∧ ((queueOf (s.team c u) 7).length < 16) ∧ ((s.part part).noticeOut = none) ∧ ((s.team c u).started = true) ∧ (dispReleased s part = true) ∧ (dispAccess s (s.team c u).ctx.asid (s.team c u).ctx.pkr (.ofNat 64 (bitsAt ring 12 45 * 4096 + idx % 2 ^ (bitsAt ring 0 4 + 6) * 64)) 64 false true false = (s1, .inl (.home pa))))
    ∧ (∃ (part c u : Nat) (n : Notice) (rest : List Notice) (s : State),
      let ring := (s.part part).regs.get 0 0x10
      let idx := (s.part part).noticeIdx
      ∃ (tr : Track),
      ((s.part part).noticeLogged = false) ∧ (s.notices.get [] part = n :: rest) ∧ (residentTeam s part (bitsAt ((s.part part).regs.get 0 0x18) 0 32) 0 = some (c, u)) ∧ ((queueOf (s.team c u) 7).length < 16) ∧ ((s.part part).noticeOut = some tr) ∧ (trackDone s tr = false))
    ∧ (∃ (part c u : Nat) (n : Notice) (rest : List Notice) (s : State),
      let ring := (s.part part).regs.get 0 0x10
      let idx := (s.part part).noticeIdx
      ∃ (tr : Track),
      ((s.part part).noticeLogged = false) ∧ (s.notices.get [] part = n :: rest) ∧ (residentTeam s part (bitsAt ((s.part part).regs.get 0 0x18) 0 32) 0 = some (c, u)) ∧ ((queueOf (s.team c u) 7).length < 16) ∧ ((s.part part).noticeOut = some tr) ∧ (trackDone s tr = true) ∧ (cmMode (s.die (dieOf c)) = 0)) :=
  ⟨⟨0, (sP { partP 3 with lastDecision := 98 } l5), by decide +kernel⟩,
   ⟨0, 3, l5, (sP pT l5), (rw' (sP pT l5)), by decide +kernel⟩,
   ⟨0, 3, l5, (sP (partP 3) l5), (rw' (sP (partP 3) l5)), by decide +kernel⟩,
   ⟨0, 3, l5, (sP pW l5), [0], by decide +kernel⟩,
   ⟨0, 3, (lau 3 5 (2^18)), (sP pW (lau 3 5 (2^18))), by decide +kernel⟩,
   ⟨0, 3, l5, (sP pW l5), by decide +kernel⟩,
   ⟨0, 0, tm0, sPl, by decide +kernel⟩,
   ⟨0, 0, 0, nt, [], sN, 0xB000, (dispAccess sN 1 0 0x3000 64 false true false).1, by decide +kernel⟩,
   ⟨0, 0, 0, nt, [], (sN.modPart 0 (fun p => { p with noticeOut := some (.home 7) })), (.home 7), by decide +kernel⟩,
   ⟨0, 0, 0, nt, [], { (sN.modPart 0 (fun p => { p with noticeOut := some (.home 7) })) with gt := 8 }, (.home 7), by decide +kernel⟩⟩

theorem witness_GroupControlAndSelfTest :
    (∃ (part c h : Nat) (x : FaultRec) (q : Frag) (s : State),
      let g := s.group c h
      let r : FragRef := { core := c, hslot := h, entry := x.entry }
      (g.alloc = true) ∧ ((s.teamOf c h).part = part) ∧ (g.fault = some x) ∧ (x.supervisor = true) ∧ (x.away = false) ∧ (g.log = []) ∧ (g.spill = []) ∧ (g.frags.find? x.entry = some q) ∧ (q.wait = .ready) ∧ (∀ p ∈ g.frags, p.1 ≠ x.entry → p.2.pc ≠ g.fpc) ∧ (g.fpc = x.pc))
    ∧ (∃ (part c h : Nat) (x : FaultRec) (q : Frag) (s : State),
      let g := s.group c h
      let r : FragRef := { core := c, hslot := h, entry := x.entry }
      (g.alloc = true) ∧ ((s.teamOf c h).part = part) ∧ (g.fault = some x) ∧ (x.supervisor = true) ∧ (x.away = false) ∧ (g.log = []) ∧ (g.spill = []) ∧ (g.frags.find? x.entry = some q) ∧ (q.wait = .ready) ∧ (∀ p ∈ g.frags, p.1 ≠ x.entry → p.2.pc ≠ g.fpc) ∧ (g.fpc ≠ x.pc))
    ∧ (∃ (part c h : Nat) (s : State), ((s.group c h).alloc = true) ∧ ((s.teamOf c h).part = part) ∧ ((s.teamOf c h).started = true) ∧ ((s.group c h).frags = []) ∧ ((s.group c h).spill = []) ∧ ((s.group c h).fault = none))
    ∧ (∃ (part c h : Nat) (s : State), ((s.group c h).alloc = true) ∧ ((s.teamOf c h).part = part) ∧ ((s.teamOf c h).started = true) ∧ ((s.group c h).killed = false) ∧ ((s.group c h).frags ≠ [] ∨ (s.group c h).spill ≠ [] ∨ (s.group c h).fault.isSome = true))
    ∧ (∃ (part c h gid : Nat) (v : SavedTeam) (g : GroupSlot) (s : State), ((s.group c h).alloc = false) ∧ (savedStop s part c h (fun g => g.fault.isSome || !g.log.isEmpty || !g.heldEng.isEmpty) = some (v, gid)) ∧ (v.groups[gid]? = some g) ∧ ((savedTeamOf s v).part = part))
    ∧ (∃ (part c h : Nat) (s : State), ((s.group c h).alloc = true) ∧ ((s.teamOf c h).part = part) ∧ (teamCor s (s.teamOf c h) = false) ∧ ((s.teamOf c h).started = true) ∧ ((s.teamOf c h).preempting = 0))
    ∧ (∃ (i : Instr) (how part handle : Nat) (l : Launch) (s : State), (i = .dpcmdPreemptHold part handle ∧ how = 1 ∨ i = .dpcmdPreemptRequeue part handle ∧ how = 2) ∧ (s.launch? part handle = some l) ∧ (l.part = part) ∧ (l.handle = handle) ∧ (residents s part handle ≠ []) ∧ (l.preempt = 0))
    ∧ (∃ (i : Instr) (how part handle : Nat) (l : Launch) (s : State), (i = .dpcmdPreemptHold part handle ∧ how = 1 ∨ i = .dpcmdPreemptRequeue part handle ∧ how = 2) ∧ (s.launch? part handle = some l) ∧ (l.part = part) ∧ (l.handle = handle) ∧ (residents s part handle ≠ []) ∧ (l.preempt ≠ 0))
    ∧ (∃ (part handle : Nat) (l : Launch) (s : State), (s.launch? part handle = some l) ∧ (l.part = part) ∧ (l.handle = handle) ∧ (l.held = true) ∧ (handle ∉ (s.part part).queues.get [] l.queue))
    ∧ (∃ (part cl : Nat) (s : State),
      let p := s.part part
      let lim := p.regs.get 0 8
      (dpReady s = true) ∧ (lim.getLsbD 48 = true) ∧ (p.lastDrain + Nat.max 1 (bitsAt lim 32 16) * 1000000000 ≤ s.gt) ∧ (p.draining = []) ∧ (drainCluster p = some cl))
    ∧ (∃ (part cl since c u : Nat) (x : Team) (s : State), ((s.part part).draining = [(cl, since)]) ∧ (since + 1000000 ≤ s.gt) ∧ ((c, u, x) ∈ allTeams s) ∧ ((s.core c).teams.find? u = some x) ∧ (clusterOf c = cl) ∧ (x.part = part) ∧ (x.preempting = 0) ∧ (teamCor s x = false))
    ∧ (∃ (part cl since : Nat) (fail : Bool) (s : State),
      let a := 0x4040 + 8 * (cl % 3)
      let old := (s.die (cl / 3)).regs.get 0 a
      ((s.part part).draining.find? (fun d => clusterEmpty s d.1) = some (cl, since)) ∧ (fail = true)) :=
  ⟨⟨0, 0, 0, fr, ({ frag4 with e := 0, mid := true } : Frag), (st (gF 0x1000) team4), by decide +kernel⟩,
   ⟨0, 0, 0, fr, ({ frag4 with e := 0, mid := true } : Frag), (st (gF 0x1008) team4), by decide +kernel⟩,
   ⟨0, 0, 0, (st { group4 with frags := [] } { team4 with started := true }), by decide +kernel⟩,
   ⟨0, 0, 0, (st (gF 0x1008) { team4 with started := true }), by decide +kernel⟩,
   ⟨0, 0, 0, 0, vS, gS, sS, by decide +kernel⟩,
   ⟨0, 0, 0, (st group4 { team4 with started := true }), by decide +kernel⟩,
   ⟨(.dpcmdPreemptHold 0 5), 1, 0, 5, l5, sPr, by decide +kernel⟩,
   ⟨(.dpcmdPreemptRequeue 0 5), 2, 0, 5, { l5 with preempt := 1 }, { sPr with launches := [(5, { l5 with preempt := 1 })] }, by decide +kernel⟩,
   ⟨0, 5, { l5 with held := true }, (sP {partP 3 with queues := [(3, [9])]} {l5 with held := true}), by decide +kernel⟩,
   ⟨0, 0, { sP { partP 3 with regs := [(0, 5), (8, 0x1000103E80064)] } l5 with gt := 2000000000 }, by decide +kernel⟩,
   ⟨0, 0, 10, 0, 0, { team4 with started := true, launch := 5 }, { sPr with gt := 20000000, parts := [(0, { partP 3 with draining := [(0, 10)] })] }, by decide +kernel⟩,
   ⟨0, 4, 10, true, { sPr with gt := 20000000, parts := [(0, { partP 3 with draining := [(0, 10), (4, 10)] })] }, by decide +kernel⟩⟩

end Placement

namespace Retirement

def pgA : SliceEntry := { asid := 1, va := 0, bits := 15, leaf := { frame := 1, x := true, rd := true, w := true, reach := 0 } }
def ctx1 : Context := { asid := 1, arena := 0x40000000, ssz := 5, nstripe := 16, addr := 0x10000 }
def recWords (q : Nat) (x : Nat) : List W64 := [0x1000, 0x2000, .ofNat 64 (32 + q * 2^24 + x + 2^32), .ofNat 64 (1 + 3 * 2^24 + 2^36), 0, 0, 0, 0]
def lau (q h x : Nat) : Launch := { handle := h, part := 0, queue := q, words := recWords q x, args := [1,2,3], ctx := ctx1 }
def partP (q : Nat) : Part := { regs := [(0, 1), (8, 0x0001025803E80064), (0x1000 + 0x40 * q, 1 + 2^8), (0x1008 + 0x40*q, 0x10000)], queues := [(q, [5])] }
def sP (p : Part) (l : Launch) : State := { gt := 100, nextId := 7, plat := { rdy := 0x1FFFFFFF }, parts := [(0, p)], launches := [(launchKey 0 l.handle, l)], dies := [(0, { slices := [(0, [pgA])] })] }
def l5 := lau 3 5 0
def fr : FaultRec := { entry := 0, cause := 4, fslot := 1, fpc := 0x1000, faddr := 0, fword := 0, heldE := 7, pc := 0x1000, slot := 1, entered := true, supervisor := true }
def tmP (n : Nat) : Team := { team4 with started := true, launch := 5, preempting := n }
def rg : Region := { opening := 4, pc := 0x900, base := 3, vlive := 3, entryE := [1, 2] }
def gP : GroupSlot := { group4 with frags := [(0, { frag4 with region := rg })] }
def sPp (n : Nat) : State := { (st gP (tmP n)) with parts := [(0, partP 3)], launches := [(5, l5)], plat := { rdy := 0x1FFFFFFF }, cur := none }
def gS : GroupSlot := { gP with fault := some fr, supSince := 0, fpc := 0x1000 }
def l6 : Launch := { l5 with handle := 6, words := [0x1000, 0x2000, .ofNat 64 (32 + 3 * 2^16 + 3 * 2^24 + 4 * 2^32), .ofNat 64 (1 + 3 * 2^24 + 100 * 2^36), 0, 0, 0, 0] }
def tmA : Team := { tmP 0 with locUnits := 250 }
def sAu : State := { ((st gS tmA).modCore 4 (fun k => { k with teams := [(0, { tmA with strands := [] })] })) with gt := 30000, parts := [(0, { partP 3 with queues := [(3, [6])] })], launches := [(launchKey 0 5, { l5 with placed := 1 }), (launchKey 0 6, l6)], plat := { rdy := 0x1FFFFFFF }, cur := none }
def tmR : Team := { tmP 0 with strands := team4.strands.map (fun p => (p.1, { p.2 with live := false })) }
def gR : GroupSlot := { group4 with frags := [], marks := [(0, 7), (4, 9)] }
def sRe : State := { (st gR tmR) with gt := 30000, parts := [(0, partP 3)], launches := [(5, { l5 with placed := 1 })], plat := { rdy := 0x1FFFFFFF }, cur := none }
def lR (n : Nat) : Launch := { l5 with placed := 1, retired := 1, retiring := n, stripes := [2], words := [0x1000, 0x2000, .ofNat 64 (32 + 3 * 2^24 + 2^32), 1, 0, 0, 0x3010, 0] }
def sLR (n : Nat) : State := { sP (partP 3) (lR n) with mem := wordMem (0x8000 + 0x3010) 0xFFFF }
def lRz : Launch := { lR 1 with words := [0x1000, 0x2000, .ofNat 64 (32 + 3 * 2^24 + 2^32), 1] }

theorem witness_PreemptionAndRetirement :
    (∃ (c u : Nat) (x : Team) (s : State), ((s.core c).teams.find? u = some x) ∧ (c < 192) ∧ (x.started = true) ∧ (teamBusy s c u = false) ∧ (passRuns s c u = false) ∧ (x.preempting = 2))
    ∧ (∃ (c u : Nat) (x : Team) (s : State), ((s.core c).teams.find? u = some x) ∧ (c < 192) ∧ (x.started = true) ∧ (teamBusy s c u = false) ∧ (passRuns s c u = false) ∧ (x.preempting = 3) ∧ (stripePending s x.ctx.asid (stripeOf x).1 (stripeOf x).2 = false))
    ∧ (∃ (c u : Nat) (x : Team) (s : State), ((s.core c).teams.find? u = some x) ∧ (c < 192) ∧ (x.started = true) ∧ (teamBusy s c u = false) ∧ (passRuns s c u = false) ∧ (x.preempting = 1) ∧ (∀ p ∈ s.teamGroups c u, s.group c p.1 = p.2))
    ∧ (∃ (c u q h : Nat) (g : GroupSlot) (x : Team) (f : FaultRec) (l : Launch) (s : State), ((s.core c).teams.find? u = some x) ∧ (c < 192) ∧ (x.preempting = 0) ∧ (teamCor s x = false) ∧ (dpReady s = true) ∧ ((h, g) ∈ s.teamGroups c u) ∧ (g.fault = some f) ∧ (f.supervisor = true) ∧ (g.supSince + 20000 ≤ s.gt) ∧ (q < 64) ∧ (readyHead s x.part q = some l) ∧ (headPlacement s x.part l = none) ∧ ((headPlacement (freeTeam s c u) x.part l).isSome = true))
    ∧ (∃ (c u : Nat) (x : Team) (l : Launch) (s : State), ((s.core c).teams.find? u = some x) ∧ (c < 192) ∧ (x.started = true) ∧ (liveSids x = []) ∧ (teamBusy s c u = false) ∧ (x.preempting = 0) ∧ (∀ p ∈ s.teamGroups c u, p.2.log = [] ∧ p.2.heldEng = []) ∧ (s.launch? x.part x.launch = some l) ∧ (l.part = x.part) ∧ (l.handle = x.launch) ∧ (l.preempt = 0))
    ∧ (∃ (part handle : Nat) (l : Launch) (s : State),
      let size := l.ctx.ssz * 2 ^ 21
      let bases := l.stripes.map (fun i => l.ctx.arena.toNat + i * size)
      (s.launch? part handle = some l) ∧ (l.part = part) ∧ (l.handle = handle) ∧ (l.nteam ≤ l.retired) ∧ (l.mark < s.gt) ∧ (l.retiring = 0))
    ∧ (∃ (part handle : Nat) (l : Launch) (s : State),
      let size := l.ctx.ssz * 2 ^ 21
      let bases := l.stripes.map (fun i => l.ctx.arena.toNat + i * size)
      (s.launch? part handle = some l) ∧ (l.part = part) ∧ (l.handle = handle) ∧ (l.nteam ≤ l.retired) ∧ (l.mark < s.gt) ∧ (l.retiring = 1) ∧ (∀ b ∈ bases, stripePending s l.ctx.asid b size = false) ∧ (SMap.sortedFrom 0 s.launches = true))
    ∧ (∃ (part handle : Nat) (l : Launch) (s : State),
      let size := l.ctx.ssz * 2 ^ 21
      let bases := l.stripes.map (fun i => l.ctx.arena.toNat + i * size)
      (s.launch? part handle = some l) ∧ (l.part = part) ∧ (l.handle = handle) ∧ (l.nteam ≤ l.retired) ∧ (l.mark < s.gt) ∧ (l.retiring = 1) ∧ (∀ b ∈ bases, stripePending s l.ctx.asid b size = false) ∧ (l.w 6 = 0)) :=
  ⟨⟨0, 0, (tmP 2), ((sPp 2).modCore 0 (fun k => {k with l1 := [{ asid := 1, line := 0, sectors := 1, bytes := [], tags := [] }]})), by decide +kernel⟩,
   ⟨0, 0, (tmP 3), (sPp 3), by decide +kernel⟩,
   ⟨0, 0, (tmP 1), (sPp 1), by decide +kernel⟩,
   ⟨0, 0, 3, 0, gS, tmA, fr, l6, sAu, by decide +kernel⟩,
   ⟨0, 0, tmR, { l5 with placed := 1 }, sRe, by decide +kernel⟩,
   ⟨0, 5, (lR 0), (sLR 0), by decide +kernel⟩,
   ⟨0, 5, (lR 1), (sLR 1), by decide +kernel⟩,
   ⟨0, 5, lRz, { sLR 1 with launches := [(5, lRz)] }, by decide +kernel⟩⟩

end Retirement

namespace Management

def sMg : State := { s1 with cur := none, plat := { rdy := 0x1FFFFFFF }, gt := 20000, parts := [(0, { regs := [(0x1000, 0x101), (0x1010, 4), (0x1018, 2)] })] }
def sMf : State := { sMg with plat := { sMg.plat with fail := true } }
def gG : GroupSlot := { group4 with step := { opened := true, work := 100, charged := 5, deadline := 10 } }
def sG : State := { sMg with gt := 20000, cores := [(0, { groups := [(0, gG)], teams := [(0, { team4 with dclass := 1 })] })] }
def cx : Context := { asid := 1, quota := 50 }
def l1 : Launch := { handle := 5, part := 0, queue := 0, words := [], args := [], ctx := cx }
def sQ : State := { sG with gt := 2000000, launches := [(5, l1)], quotas := [(1, -20)], held := [1], gov := { sG.gov with qcs := [(1, (50, 0))] } }
def sLo : State := { sMg with dies := [(0, { regs := [(0x4018, 0x800000000000000A), (0x4020, 0x8000)], samples := 5, lastSample := 1024 })] }
/-- Cameo replay log at 0x8000 -/
def cmDie (cm : Nat) : Die := { regs := [(0x4400, .ofNat 64 (cm * 65536)), (0x4408, 0x8004)] }
def wm (a : Nat) (ws : List Nat) : List Host.Cell := ((ws.zipIdx.map (fun p => wordMem (a + 8 * p.2) p.1)).flatten)
def sCm (ws : List Nat) : State := { sMg with dies := [(0, cmDie 2)], mem := wm 0x8000 ws }
def atm : Acc := { kind := .atomic 0x90 false false false, core := 0, hslot := 0, sid := 1, slot := 0, uni := false, addr := 0x9048, pc := 0x1000, word := 0, size := 4, pos := 5, asid := 1, aid := 9, data := 5 }
def pat : Posted := { id := 8, kind := .atomic, core := 0, hslot := 0, asid := 1, line := 0x90, stage := .home 0x9000, accs := [atm] }
def sHold : State := { sCm [4 * 2^60 + 2^48, 0x90, 2^32, 1] with posted := [pat], gt := 20000000, dies := [(0, { cmDie 2 with cmHeld := [(32, 5)] })] }

theorem witness_RegisterWrites :
    (∃ (part q : Nat) (v : W64) (s : State),
      let tail := bitsAt v 0 32
      let used := (tail + 2 ^ 32 - bitsAt (lqReg (s.part part) q 0x20) 0 32) % 2 ^ 32
      (dpReady s = true) ∧ (part < 8) ∧ (q < 64) ∧ (ringSize (s.part part) q < used))
    ∧ (∃ (part q : Nat) (v : W64) (s : State),
      let tail := bitsAt v 0 32
      let used := (tail + 2 ^ 32 - bitsAt (lqReg (s.part part) q 0x20) 0 32) % 2 ^ 32
      (dpReady s = true) ∧ (part < 8) ∧ (q < 64) ∧ (used ≤ ringSize (s.part part) q))
    ∧ (∃ (part q : Nat) (v : W64) (s : State), (dpReady s = true) ∧ (part < 8) ∧ (q < 64) ∧ (lqEnabled (s.part part) q = true))
    ∧ (∃ (part q : Nat) (v : W64) (s : State), (dpReady s = true) ∧ (part < 8) ∧ (q < 64) ∧ (lqEnabled (s.part part) q = false))
    ∧ (∃ (part : Nat) (v : W64) (s : State), (dpReady s = true) ∧ (part < 8) ∧ (partIdle s part = false))
    ∧ (∃ (part : Nat) (v : W64) (s : State), (dpReady s = true) ∧ (part < 8) ∧ (partIdle s part = true) ∧ (∀ p < 8, p ≠ part → ∀ c < 24, v.getLsbD c = true → c ∉ clustersOf (s.part p)))
    ∧ (∃ (d : Nat) (v : W64) (s : State), (homeReady s d = true) ∧ (d < 8))
    ∧ (∃ (x : Nat) (v : W64) (s : State), (linkReady s = false))
    ∧ (∃ (x : Nat) (v : W64) (s : State), (linkReady s = true) ∧ (x % 8 ≠ 0))
    ∧ (∃ (x : Nat) (v : W64) (s : State), (linkReady s = true) ∧ (x % 8 = 0) ∧ (s.plat.fail = false) ∧ (blockReady s (blockOf x) = false))
    ∧ (∃ (x : Nat) (v : W64) (s : State), (linkReady s = true) ∧ (s.plat.fail = true) ∧ (∀ off, blockOf x ≠ .platform off) ∧ (hostQueued s = false))
    ∧ (∃ (x : Nat) (v : W64) (s : State), ∃ (off : Nat), (linkReady s = true) ∧ (x % 8 = 0) ∧ (s.plat.fail = false) ∧ (blockReady s (blockOf x) = true) ∧ (blockOf x = .platform off) ∧ (off ≠ 0x18) ∧ (platformMask off ≠ 0))
    ∧ (∃ (x : Nat) (v : W64) (s : State), ∃ (d : Nat) (off : Nat), (linkReady s = true) ∧ (x % 8 = 0) ∧ (s.plat.fail = false) ∧ (blockReady s (blockOf x) = true) ∧ (blockOf x = .die d off) ∧ (off ≠ 0) ∧ (dieMask off ≠ 0))
    ∧ (∃ (x : Nat) (v : W64) (s : State), ∃ (off : Nat), (linkReady s = true) ∧ (x % 8 = 0) ∧ (s.plat.fail = false) ∧ (blockReady s (blockOf x) = true) ∧ (blockOf x = .governor off) ∧ (off ≠ 0) ∧ (governorMask off ≠ 0))
    ∧ (∃ (x : Nat) (v : W64) (s : State), ∃ (p : Nat) (off : Nat), (linkReady s = true) ∧ (x % 8 = 0) ∧ (s.plat.fail = false) ∧ (blockReady s (blockOf x) = true) ∧ (blockOf x = .dispatcher p off) ∧ (off ≠ 0) ∧ (off < 0x20) ∧ (dispatcherMask off ≠ 0))
    ∧ (∃ (x : Nat) (v : W64) (s : State), ∃ (q : Nat) (off : Nat), (linkReady s = true) ∧ (x % 8 = 0) ∧ (s.plat.fail = false) ∧ (blockReady s (blockOf x) = true) ∧ (blockOf x = .chain q off) ∧ (off = 0x10))
    ∧ (∃ (x : Nat) (v : W64) (s : State), ∃ (c : Nat) (off : Nat), (linkReady s = true) ∧ (x % 8 = 0) ∧ (s.plat.fail = false) ∧ (blockReady s (blockOf x) = true) ∧ (blockOf x = .core c off) ∧ (coreMask off ≠ 0))
    ∧ (∃ (p : Nat) (v : W64) (s : State),
      let c := bitsAt v 4 8
      let h := bitsAt v 12 6
      let n := bitsAt v 32 32
      ∃ (k : Nat) (i : Instr),
      (p < 8) ∧ (linkReady s = true) ∧ (s.plat.fail = false) ∧ (dpReady s = true) ∧ ((k, i) ∈ [(1, Instr.dpcmdResume p c h), (2, .dpcmdKill p c h), (3, .dpcmdSwapOut p c h), (4, .dpcmdPreemptHold p n), (5, .dpcmdPreemptRequeue p n), (6, .dpcmdRelease p n)]) ∧ (bitsAt v 0 4 = k))
    ∧ (∃ (v : W64) (s : State), (s.plat.rdy.getLsbD 11 = true) ∧ (∀ cl < 24, clusterEmpty s cl = true ∧ partitionOf s cl = partitionOf s 0)) :=
  ⟨⟨0, 0, 100, sMg, by decide +kernel⟩,
   ⟨0, 0, 9, sMg, by decide +kernel⟩,
   ⟨0, 0, 0x5040, sMg, by decide +kernel⟩,
   ⟨0, 1, 0x5040, sMg, by decide +kernel⟩,
   ⟨0, 0x3, sMg, by decide +kernel⟩,
   ⟨1, 0x3, sMg, by (try dsimp only); exact ⟨by decide +kernel, by decide +kernel, by decide +kernel, fun p hp _ c hc _ => (by decide +kernel : ∀ p < 8, ∀ c < 24, c ∉ clustersOf (sMg.part p)) p hp c hc⟩⟩,
   ⟨1, (0x800000001 : W64), sMg, by decide +kernel⟩,
   ⟨0x20, 7, { sMg with plat := {} }, by decide +kernel⟩,
   ⟨0x21, 7, sMg, by decide +kernel⟩,
   ⟨0x100100, 7, { sMg with plat := { rdy := 2 } }, by decide +kernel⟩,
   ⟨0x100100, 7, sMf, by refine ⟨?_, ?_, ?_, ?_⟩ <;> first | decide +kernel | exact eq_ok (by decide +kernel) | exact eq_next (by decide +kernel) | (intro _ h; cases h; done)⟩,
   ⟨0x20, (-1), sMg, 0x20, by decide +kernel⟩,
   ⟨0x101000, (-1), sMg, 0, 0x1000, by decide +kernel⟩,
   ⟨0x200008, (-1), sMg, 8, by decide +kernel⟩,
   ⟨0x300010, (-1), sMg, 0, 0x10, by decide +kernel⟩,
   ⟨0x400010, (-1), sMg, 0, 0x10, by decide +kernel⟩,
   ⟨0x1010010, (-1), sMg, 1, 0x10, by decide +kernel⟩,
   ⟨0, (0x1 : W64), sMg, 1, (.dpcmdResume 0 0 0), by decide +kernel⟩,
   ⟨(0x555555555555 : W64), { sMg with cores := [] }, by decide +kernel⟩⟩

theorem witness_GovernorEvents :
    (∃ (j : Nat) (temps : List Nat) (watts : Nat) (s : State),
      let d := s.domain j
      let hot := ((domainClusters s j).map (fun c => temps.getD (c / 3) 0)).foldl Nat.max 0
      let base := Nat.max (bitsAt (gvdom s j) 0 4) (bitsAt (gvdom s j) 16 4)
      (j < 4) ∧ (temps.length ≤ 8) ∧ ((s.domain j).tick < s.gt / 8000) ∧ (1632 ≤ hot))
    ∧ (∃ (j : Nat) (temps : List Nat) (watts : Nat) (s : State),
      let d := s.domain j
      let hot := ((domainClusters s j).map (fun c => temps.getD (c / 3) 0)).foldl Nat.max 0
      let base := Nat.max (bitsAt (gvdom s j) 0 4) (bitsAt (gvdom s j) 16 4)
      (j < 4) ∧ (temps.length ≤ 8) ∧ ((s.domain j).tick < s.gt / 8000) ∧ (1520 ≤ hot))
    ∧ (∃ (j : Nat) (temps : List Nat) (watts : Nat) (s : State),
      let d := s.domain j
      let hot := ((domainClusters s j).map (fun c => temps.getD (c / 3) 0)).foldl Nat.max 0
      let base := Nat.max (bitsAt (gvdom s j) 0 4) (bitsAt (gvdom s j) 16 4)
      (j < 4) ∧ (temps.length ≤ 8) ∧ ((s.domain j).tick < s.gt / 8000) ∧ (1472 ≤ hot))
    ∧ (∃ (j : Nat) (temps : List Nat) (watts : Nat) (s : State),
      let d := s.domain j
      let hot := ((domainClusters s j).map (fun c => temps.getD (c / 3) 0)).foldl Nat.max 0
      let base := Nat.max (bitsAt (gvdom s j) 0 4) (bitsAt (gvdom s j) 16 4)
      (j < 4) ∧ (temps.length ≤ 8) ∧ ((s.domain j).tick < s.gt / 8000) ∧ (hot < 1472))
    ∧ (∃ (j : Nat) (temps : List Nat) (watts : Nat) (s : State),
      let d := s.domain j
      let hot := ((domainClusters s j).map (fun c => temps.getD (c / 3) 0)).foldl Nat.max 0
      let base := Nat.max (bitsAt (gvdom s j) 0 4) (bitsAt (gvdom s j) 16 4)
      (j < 4) ∧ (temps.length ≤ 8) ∧ ((s.domain j).tick < s.gt / 8000) ∧ (gvpcap s < watts))
    ∧ (∃ (j : Nat) (temps : List Nat) (watts : Nat) (s : State),
      let d := s.domain j
      let hot := ((domainClusters s j).map (fun c => temps.getD (c / 3) 0)).foldl Nat.max 0
      let base := Nat.max (bitsAt (gvdom s j) 0 4) (bitsAt (gvdom s j) 16 4)
      (j < 4) ∧ (temps.length ≤ 8) ∧ ((s.domain j).tick < s.gt / 8000) ∧ (openSteps s j = []))
    ∧ (∃ (j p : Nat) (s : State), ((s.domain j).moving = some p))
    ∧ (∃ (asid q part : Nat) (s : State), (s.gov.quotaFrom.get 0 asid < s.gt / 1000000) ∧ ((SMap.find? s.quotas asid).isSome = true) ∧ (quotaOf s asid = some (q, part)) ∧ (q = 0 ∨ 0 < min (s.quotas.get 0 asid) 0 + (q : Int)))
    ∧ (∃ (asid q part : Nat) (s : State), (s.gov.quotaFrom.get 0 asid < s.gt / 1000000) ∧ ((SMap.find? s.quotas asid).isSome = true) ∧ (quotaOf s asid = some (q, part)) ∧ (q ≠ 0))
    ∧ (∃ (cl asid k q part : Nat) (s : State), (s.gov.lastReport.get 0 cl < (s.core (8 * cl)).cycle / 256) ∧ (asid < 65536) ∧ (s.qsub.filter (fun p => p.1 / 65536 == cl) = [(cl * 65536 + asid, k)]) ∧ (quotaOf s asid = some (q, part)) ∧ (q ≠ 0) ∧ (0 < s.quotas.get 0 asid - k))
    ∧ (∃ (cl asid k q part : Nat) (s : State), (s.gov.lastReport.get 0 cl < (s.core (8 * cl)).cycle / 256) ∧ (asid < 65536) ∧ (s.qsub.filter (fun p => p.1 / 65536 == cl) = [(cl * 65536 + asid, k)]) ∧ (quotaOf s asid = some (q, part)) ∧ (q ≠ 0) ∧ (s.quotas.get 0 asid - k ≤ 0)) :=
  ⟨⟨0, [1700, 1000], 100, sG, by decide +kernel⟩,
   ⟨0, [1700, 1000], 100, sG, by decide +kernel⟩,
   ⟨0, [1700, 1000], 100, sG, by decide +kernel⟩,
   ⟨3, [1700, 1000], 100, sG, by decide +kernel⟩,
   ⟨3, [], 100, { sMg with gov := { regs := [(0, 0)] } }, by decide +kernel⟩,
   ⟨3, [1700, 1000], 100, sG, by decide +kernel⟩,
   ⟨2, 5, (sG.setDomain 2 { cur := 3, moving := some 5 }), by decide +kernel⟩,
   ⟨1, 50, 0, sQ, by decide +kernel⟩,
   ⟨1, 50, 0, sQ, by decide +kernel⟩,
   ⟨0, 1, 30, 50, 0, { (sQ.modCore 0 (fun k => {k with cycle := 600})) with quotas := [(1, 40)], held := [], qsub := [(1, 30)] }, by decide +kernel⟩,
   ⟨0, 1, 30, 50, 0, { (sQ.modCore 0 (fun k => {k with cycle := 600})) with quotas := [(1, 20)], held := [], qsub := [(1, 30)] }, by decide +kernel⟩⟩

theorem witness_LoupeEvents :
    (∃ (d : Nat) (s : State),
      let k := sampleShift (s.die d)
      let n := s.gt / 2 ^ k
      let ring := (s.die d).regs.get 0 0x4020
      let at_ := bitsAt ring 12 40 * 4096 + (s.die d).samples % 2 ^ bitsAt ring 0 4 * 4096
      (d < 8) ∧ ((lsctl (s.die d)).getLsbD 63 = true) ∧ ((s.die d).lastSample / 2 ^ k < n))
    ∧ (∃ (d : Nat) (s : State), (heldKeys s d = []))
    ∧ (∃ (d : Nat) (s : State), ∃ (k : Nat), (k ∈ heldKeys s d) ∧ ((s.die d).cmHeld.get s.gt k + 10000000 ≤ s.gt))
    ∧ (∃ (d : Nat) (s : State), (d < 8) ∧ (cmMode (s.die d) = 2) ∧ (cmDiverged (s.die d) = false) ∧ (cmHead s d = none))
    ∧ (∃ (d : Nat) (s : State), ∃ (n : Nat) (cnt : Nat) (pa : Nat) (len : Nat) (w : Nat), (d < 8) ∧ (cmMode (s.die d) = 2) ∧ (cmDiverged (s.die d) = false) ∧ (cmHead s d = some (n, 2, cnt, [pa, len, w])) ∧ (len ≤ 32 * (cnt - 1)))
    ∧ (∃ (d : Nat) (s : State), ∃ (n : Nat) (cnt : Nat) (q : Nat) (h : Nat), (d < 8) ∧ (cmMode (s.die d) = 2) ∧ (cmDiverged (s.die d) = false) ∧ (cmHead s d = some (n, 1, cnt, [q, h, 0])))
    ∧ (∃ (d who addr : Nat) (at_ : List Nat) (s : State), ∃ (u : Nat), (d < 8) ∧ (u < 7) ∧ (u = 0))
    ∧ (∃ (d who addr : Nat) (at_ : List Nat) (s : State), ∃ (u : Nat), (d < 8) ∧ (u < 7) ∧ (u = 1))
    ∧ (∃ (d who addr : Nat) (at_ : List Nat) (s : State), ∃ (u : Nat), (d < 8) ∧ (u < 7) ∧ (u = 2))
    ∧ (∃ (d who addr : Nat) (at_ : List Nat) (s : State), ∃ (u : Nat), (d < 8) ∧ (u < 7) ∧ (u = 3))
    ∧ (∃ (d who addr : Nat) (at_ : List Nat) (s : State), ∃ (u : Nat), (d < 8) ∧ (u < 7) ∧ (u = 4 ∨ u = 5))
    ∧ (∃ (d who addr : Nat) (at_ : List Nat) (s : State), ∃ (u : Nat), (d < 8) ∧ (u < 7) ∧ (u = 6)) :=
  ⟨⟨0, sLo, by decide +kernel⟩,
   ⟨0, sLo, by decide +kernel⟩,
   ⟨0, sHold, 32, by decide +kernel⟩,
   ⟨0, (sCm []), by decide +kernel⟩,
   ⟨0, (sCm [2 * 2^60 + 2 * 2^48, 0x9000, 5, 77, 0x1122334455667788]), 0, 2, 0x9000, 5, 77, by decide +kernel⟩,
   ⟨0, (sCm [1 * 2^60 + 3 * 2^48, 0, 9, 0, 0x1122334455667788]), 0, 3, 0, 9, by decide +kernel⟩,
   ⟨0, 0, 4, [0, 0, 1], sMg, 0, by decide +kernel⟩,
   ⟨0, 0, 4, [0, 0, 1], sMg, 1, by decide +kernel⟩,
   ⟨0, 0, 4, [0, 0, 1], sMg, 2, by decide +kernel⟩,
   ⟨0, 0, 4, [0, 0, 1], sMg, 3, by decide +kernel⟩,
   ⟨0, 0, 4, [0, 0, 1], sMg, 5, by decide +kernel⟩,
   ⟨0, 0, 4, [0, 0, 1], sMg, 6, by decide +kernel⟩⟩

end Management

namespace Platform

def wm (a : Nat) (ws : List Nat) : List Host.Cell := ((ws.zipIdx.map (fun p => wordMem (a + 8 * p.2) p.1)).flatten)
/-- window 0: valid, wr?, base 0x8000>>12 .. host addr 0x100000 size 16 pages -/
def sW (hi : Nat) : State := { s1 with cur := none, gt := 500, plat := { rdy := 0x1FFFFFFF, regs := [(0x1000, .ofNat 64 (hi * 2^61 + 0x8000)), (0x1008, .ofNat 64 (16 * 2^32 + 0x100))] }, mem := wm 0x8000 [0x1122334455667788, 3] }
def a0 : Acc := { kind := .load, core := 0, hslot := 0, sid := 1, slot := 0, uni := true, addr := 0x1048, pc := 0x1000, word := 0, size := 8, pos := 5, asid := 1, aid := 9 }
def f0 : Fetch := { id := 7, core := 0, asid := 1, line := 0x10, sector := 1, accs := [a0], stage := .host 0x9000 }
/-- a peer 5 reached by port 0: table at 0xA000 -/
def pt : ChainPort := { cfg := 3, tab := 0xA000, lanes := 4 }
def sC : State := { sW 4 with ports := [(0, pt)], mem := [] }
def rsp (q i : Nat) : Response := { peer := 5, seq := q, id := i, status := 0 }
def atm : Acc := { kind := .atomic 0x90 false false false, core := 0, hslot := 0, sid := 1, slot := 0, uni := false, addr := 0x9048, pc := 0x1000, word := 0, size := 4, pos := 5, asid := 1, aid := 9, data := 5 }
def pat : Posted := { id := 8, kind := .atomic, core := 0, hslot := 0, asid := 1, line := 0x90, stage := .host 0x9000, accs := [atm] }
def pst : Posted := { pat with kind := .store, accs := [{ atm with kind := .store }] }
def cm : ChainMsg := { kind := 3, seq := 0, addr := 0, ref := 8 }
def sK : State := { sC.setConn 5 { unacked := [cm, { cm with seq := 1, ref := 9 }], sendNext := 2 } with posted := [{ pst with stage := .peer 5 0x9000 }, { pst with id := 9, stage := .peer 5 0x9000 }], gt := 30000000 }
def sKc : State := sK.setPort 0 { pt with phy := .copperL7 }
def dW : Die := { regs := [(0x1000, .ofNat 64 (2^63 + 5 * 2^32 + 16))], slices := [(0, [{ asid := 1, va := 0, bits := 15, leaf := { attr := 2 } }])] }
def fE : Fetch := { f0 with id := 30, stage := .peer 5 0x100, engine := true, accs := [] }
def cpy0 : CopyCmd := { id := 7, op := 0xC0, core := 0, hslot := 0, team := 0, desc := [0x100, 0x200, 1 + 8 + 2*64, 4 + 2^32, 1 + 2^32, 0, 0, 0], asid := 1 }
def sB0 : State := { sC with plat := {}, powered := true }
def sFull : State := sC.setConn 5 { unacked := List.replicate 511 { cm with bytes := List.replicate 8192 0 } }

theorem witness_HostAccesses :
    (∃ (x : Nat) (s : State), ∃ (i : Instr), (linkReady s = true) ∧ (hostQueued s = true) ∧ (i = .hostRead (.management x) 8 ∨ ∃ bytes, i = .hostWrite (.management x) bytes))
    ∧ (∃ (x : Nat) (s : State), ∃ (len : Nat), (linkReady s = true) ∧ (hostRoute s x len = none) ∧ (homeReady s 0 = true))
    ∧ (∃ (x : Nat) (s : State), ∃ (len : Nat) (w : W64) (pa : Nat), (linkReady s = true) ∧ (hostRoute s x len = some (w, pa)) ∧ (homeReady s (dieOfPa pa) = false))
    ∧ (∃ (x : Nat) (s : State), ∃ (len : Nat) (w : W64) (pa : Nat), (linkReady s = true) ∧ (hostRoute s x len = some (w, pa)) ∧ (homeReady s (dieOfPa pa) = true) ∧ (linesPending s pa len = true ∨ hostQueued s = true))
    ∧ (∃ (x : Nat) (s : State), ∃ (len : Nat) (w : W64) (pa : Nat), (linkReady s = true) ∧ (hostRoute s x len = some (w, pa)) ∧ (homeReady s (dieOfPa pa) = true) ∧ (linesPending s pa len = false) ∧ (hostQueued s = false))
    ∧ (∃ (x : Nat) (s : State), ∃ (bytes : List Byte) (w : W64) (pa : Nat), (linkReady s = true) ∧ (hostRoute s x bytes.length = some (w, pa)) ∧ (homeReady s (dieOfPa pa) = true) ∧ (w.getLsbD 62 = true))
    ∧ (∃ (x : Nat) (s : State), ∃ (bytes : List Byte) (w : W64) (pa : Nat), (linkReady s = true) ∧ (hostRoute s x bytes.length = some (w, pa)) ∧ (homeReady s (dieOfPa pa) = true) ∧ (w.getLsbD 62 = false) ∧ (cmMode (s.die (dieOfPa pa)) = 0) ∧ (linesLocked s pa bytes.length = true ∨ hostQueued s = true))
    ∧ (∃ (x : Nat) (s : State), ∃ (bytes : List Byte) (w : W64) (pa : Nat), (linkReady s = true) ∧ (hostRoute s x bytes.length = some (w, pa)) ∧ (homeReady s (dieOfPa pa) = true) ∧ (w.getLsbD 62 = false) ∧ (cmMode (s.die (dieOfPa pa)) = 0) ∧ (linesLocked s pa bytes.length = false) ∧ (hostQueued s = false))
    ∧ (∃ (x : Nat) (s : State), ∃ (op : HostOp) (code : Nat) (wide : Bool) (operand : W64) (compare : W64) (w : W64) (pa : Nat),
      let n := if wide then 8 else 4
      (linkReady s = true) ∧ ((op, code) ∈ [(HostOp.add, 0x90), (.swap, 0x96), (.cas, 0x97)]) ∧ (hostRoute s x n = some (w, pa)) ∧ (homeReady s (dieOfPa pa) = true) ∧ (w.getLsbD 61 = true) ∧ (pa % n = 0) ∧ (w.getLsbD 62 = false) ∧ (cmMode (s.die (dieOfPa pa)) = 0) ∧ (lineLocked s (pa / 256) = false) ∧ (hostQueued s = false))
    ∧ (∃ (x : Nat) (s : State), ∃ (op : HostOp) (code : Nat) (wide : Bool) (operand : W64) (compare : W64) (w : W64) (pa : Nat),
      let n := if wide then 8 else 4
      (linkReady s = true) ∧ ((op, code) ∈ [(HostOp.add, 0x90), (.swap, 0x96), (.cas, 0x97)]) ∧ (hostRoute s x n = some (w, pa)) ∧ (homeReady s (dieOfPa pa) = true) ∧ (w.getLsbD 61 = false ∨ w.getLsbD 62 = true))
    ∧ (∃ (x : Nat) (s : State), (linkReady s = true) ∧ (hostQueued s = false) ∧ (s.plat.fail = false))
    ∧ (∃ (x : Nat) (s : State), ∃ (len : Nat), (linkReady s = true) ∧ (hostQueued s = false) ∧ (len ≠ 8))
    ∧ (∃ (x : Nat) (s : State), ∃ (bytes : List Byte), (linkReady s = true) ∧ (hostQueued s = false))
    ∧ (∃ (x : Nat) (s : State), ∃ (op : HostOp) (wide : Bool) (operand : W64) (compare : W64), (linkReady s = true) ∧ (hostQueued s = false))
    ∧ (
      let words (s : State) : List (Nat × Nat × Bool × Nat × Nat × List W64) := s.fills.map (fun q => (q.core, q.hslot, q.uni, q.sid, q.pos, q.words))
      ∃ (i : Instr) (id clk : Nat) (x : Response) (bytes : List Byte) (f : Fetch) (a : Acc) (s : State),
      (i = .hostResponse id bytes ∧ linkReady s = true ∧ s.fetches.find? (fun f => f.id == id && isHostStage f.stage) = some f ∨ i = .chainReadResponse x clk bytes ∧ x.id = id ∧ x.status = 0 ∧ x.seq = (s.conn x.peer).recvNext ∧ peerUp s x.peer = true ∧ s.fetches.find? (fun f => f.id == id) = some f ∧ peerOf f.stage = some x.peer ∧ cmMode (s.die (dieOf f.core)) = 0) ∧ (f.engine = false) ∧ (f.inst = false) ∧ (f.lane = false) ∧ (f.sector ≤ 4) ∧ ((if f.sector = 4 then 256 else 64) ≤ bytes.length) ∧ (f.accs = [a]) ∧ (a.kind = .load) ∧ (a.dead = false))
    ∧ (
      let words (s : State) : List (Nat × Nat × Bool × Nat × Nat × List W64) := s.fills.map (fun q => (q.core, q.hslot, q.uni, q.sid, q.pos, q.words))
      ∃ (i : Instr) (id clk : Nat) (x : Response) (old : W64) (op : Nat) (sg h2 : Bool) (p : Posted) (a : Acc) (rest : List Acc) (s : State),
      (s.fetches.find? (fun f => f.id == id) = none) ∧ (s.posted.find? (fun p => p.id == id) = some p) ∧ (i = .hostResponse id (wordBytes 8 old.toNat) ∧ linkReady s = true ∧ isHostStage p.stage = true ∨ i = .chainAtomicResponse x clk old ∧ x.id = id ∧ x.status = 0 ∧ x.seq = (s.conn x.peer).recvNext ∧ peerUp s x.peer = true ∧ peerOf p.stage = some x.peer ∧ cmMode (s.die (dieOf p.core)) = 0) ∧ (p.kind = .atomic) ∧ (p.elem = none) ∧ (p.accs = a :: rest) ∧ (a.kind = .atomic op sg h2 false) ∧ (a.dead = false))
    ∧ (
      let words (s : State) : List (Nat × Nat × Bool × Nat × Nat × List W64) := s.fills.map (fun q => (q.core, q.hslot, q.uni, q.sid, q.pos, q.words))
      ∃ (p : Posted) (s : State),
      (linkReady s = true) ∧ (s.fetches.find? (fun f => f.id == p.id && isHostStage f.stage) = none) ∧ (s.posted.find? (fun q => q.id == p.id && isHostStage q.stage) = some p) ∧ (returnsValue p = false) ∧ (s.posted.find? (fun q => isHostStage q.stage && !returnsValue q) = some p) ∧ (p.elem = none))
    ∧ (
      let words (s : State) : List (Nat × Nat × Bool × Nat × Nat × List W64) := s.fills.map (fun q => (q.core, q.hslot, q.uni, q.sid, q.pos, q.words))
      ∃ (id : Nat) (f : Fetch) (a : Acc) (s : State),
      (linkReady s = false) ∧ (s.fetches.find? (fun f => f.id == id && isHostStage f.stage && decide (f.since + 10000000 ≤ s.gt)) = some f) ∧ (f.engine = false) ∧ (f.accs = [a]) ∧ (f.kept = []) ∧ (a.uni = true) ∧ (a.part = 0) ∧ ((s.group a.core a.hslot).alloc = true)) :=
  ⟨⟨0x1000, { sW 4 with inbox := [.hostWrite (.data 0x100008) [1]] }, (.hostRead (.management 0x1000) 8), by (try dsimp only); exact ⟨by decide +kernel, by decide +kernel, .inl rfl⟩⟩,
   ⟨0x50, (sW 4), 8, by decide +kernel⟩,
   ⟨0x100000, { sW 4 with plat := { (sW 4).plat with rdy := 2 } }, 8, (.ofNat 64 (4 * 2^61 + 0x8000)), 0x8000, by decide +kernel⟩,
   ⟨0x100004, { sW 4 with inbox := [.hostWrite (.data 0x100008) [1]] }, 8, (.ofNat 64 (4 * 2^61 + 0x8000)), 0x8004, by decide +kernel⟩,
   ⟨0x100000, (sW 4), 8, (.ofNat 64 (4 * 2^61 + 0x8000)), 0x8000, by decide +kernel⟩,
   ⟨0x1000FE, (sW 6), [1,2,3,4], (.ofNat 64 (6 * 2^61 + 0x8000)), 0x80FE, by decide +kernel⟩,
   ⟨0x100004, { sW 4 with inbox := [.hostWrite (.data 0x100008) [1]] }, [1,2], (.ofNat 64 (4 * 2^61 + 0x8000)), 0x8004, by decide +kernel⟩,
   ⟨0x1000FE, (sW 4), [1,2,3,4], (.ofNat 64 (4 * 2^61 + 0x8000)), 0x80FE, by decide +kernel⟩,
   ⟨0x100008, (sW 5), .add, 0x90, true, 7, 3, (.ofNat 64 (5 * 2^61 + 0x8000)), 0x8008, by decide +kernel⟩,
   ⟨0x100008, (sW 4), .cas, 0x97, false, 7, 4, (.ofNat 64 (4 * 2^61 + 0x8000)), 0x8008, by decide +kernel⟩,
   ⟨0x2000004, (sW 4), by decide +kernel⟩,
   ⟨0x1000, (sW 4), 4, by decide +kernel⟩,
   ⟨0x1000, (sW 4), [1,2,3,4,5,6,7,8], by decide +kernel⟩,
   ⟨0x1000, (sW 4), .add, true, 1, 2, by decide +kernel⟩,
   ⟨(.hostResponse 7 (List.replicate 64 3)), 7, 0, (rsp 0 7), (List.replicate 64 3), f0, a0, { sC with fetches := [f0] }, by decide +kernel⟩,
   ⟨(.hostResponse 8 (wordBytes 8 (0x1122334455667788 : W64).toNat)), 8, 0, (rsp 0 8), 0x1122334455667788, 0x90, false, false, pat, atm, [], { sC with posted := [pat] }, by decide +kernel⟩,
   ⟨pst, { sC with posted := [pst] }, by decide +kernel⟩,
   ⟨7, f0, a0, { sC with fetches := [f0], plat := {}, gt := 10000000 }, by decide +kernel⟩⟩

theorem witness_ChainAndPorts :
    (∃ (m seq clk addr n : Nat) (s : State), ∃ (i : Instr), (peerUp s m = true) ∧ (localBytesOk addr n = true) ∧ (homeReady s (dieOfPa addr) = true) ∧ (cmMode (s.die (dieOfPa addr)) = 0) ∧ (seq < (s.conn m).recvNext) ∧ (i = .chainRead m seq clk addr n ∨ ∃ bytes, i = .chainWrite m seq clk addr bytes))
    ∧ (∃ (m seq clk addr n : Nat) (s : State), (peerUp s m = true) ∧ (localBytesOk addr n = true) ∧ (homeReady s (dieOfPa addr) = true) ∧ (cmMode (s.die (dieOfPa addr)) = 0) ∧ ((s.conn m).recvNext < seq))
    ∧ (∃ (m seq clk addr n : Nat) (s : State), (peerUp s m = true) ∧ (localBytesOk addr n = true) ∧ (homeReady s (dieOfPa addr) = true) ∧ (cmMode (s.die (dieOfPa addr)) = 0) ∧ (seq = (s.conn m).recvNext) ∧ (linesPending s addr n = true))
    ∧ (∃ (m seq clk addr n : Nat) (s : State), (peerUp s m = true) ∧ (localBytesOk addr n = true) ∧ (homeReady s (dieOfPa addr) = true) ∧ (cmMode (s.die (dieOfPa addr)) = 0) ∧ (seq = (s.conn m).recvNext) ∧ (linesPending s addr n = false) ∧ ((s.conn m).waiting = []))
    ∧ (∃ (m seq clk addr n : Nat) (s : State), (peerUp s m = true) ∧ (localBytesOk addr n = true) ∧ (homeReady s (dieOfPa addr) = true) ∧ (cmMode (s.die (dieOfPa addr)) = 0) ∧ (seq = (s.conn m).recvNext) ∧ (linesPending s addr n = false) ∧ (peerRoom s m = false))
    ∧ (∃ (m seq clk addr n : Nat) (s : State), ∃ (bytes : List Byte), (peerUp s m = true) ∧ (localBytesOk addr n = true) ∧ (homeReady s (dieOfPa addr) = true) ∧ (cmMode (s.die (dieOfPa addr)) = 0) ∧ (seq = (s.conn m).recvNext) ∧ (bytes.length = n) ∧ (linesLocked s addr n = false))
    ∧ (∃ (m seq clk addr n : Nat) (s : State), ∃ (o : PeerOp) (sg : Bool) (h2 : Bool) (wide : Bool) (operand : W64) (compare : W64), (peerUp s m = true) ∧ (localBytesOk addr n = true) ∧ (homeReady s (dieOfPa addr) = true) ∧ (cmMode (s.die (dieOfPa addr)) = 0) ∧ (seq = (s.conn m).recvNext) ∧ (n = (if wide then 8 else 4)) ∧ (0x90 ≤ o.code) ∧ (o.code ≤ 0x99) ∧ (addr % n = 0) ∧ (lineLocked s (addr / 256) = false))
    ∧ (∃ (m seq clk addr n : Nat) (s : State), ∃ (float : Bool) (elems : List W32), (peerUp s m = true) ∧ (localBytesOk addr n = true) ∧ (homeReady s (dieOfPa addr) = true) ∧ (cmMode (s.die (dieOfPa addr)) = 0) ∧ (seq = (s.conn m).recvNext) ∧ (4 * elems.length = n) ∧ (addr % 4 = 0) ∧ (linesLocked s addr n = false) ∧ (∀ d < 8, cmMode (s.die d) = 0))
    ∧ (∃ (m ack : Nat) (s : State), (peerUp s m = true) ∧ (∃ x ∈ (s.conn m).unacked, x.seq < ack) ∧ (∀ p ∈ s.posted, p.elem = none))
    ∧ (∃ (m : Nat) (s : State), (peerUp s m = true) ∧ ((s.conn m).unacked ≠ []) ∧ ((s.conn m).sentGt + 20000 ≤ s.gt))
    ∧ (∃ (q : Nat) (s : State), ∃ (code : Nat) (phy : Phy), (q < 16) ∧ (booted s = true) ∧ ((s.port q).cfg.getLsbD 0 = true) ∧ (portUp s q = false) ∧ ((code, phy) ∈ [(4, Phy.copperL7), (12, .copper), (20, .optical)]))
    ∧ (∃ (q : Nat) (s : State), ∃ (code : Nat), (q < 16) ∧ (code ≠ 4) ∧ (code ≠ 12) ∧ (code ≠ 20))
    ∧ (∃ (q : Nat) (s : State), ∃ (healthy : Nat), (q < 16) ∧ (portUp s q = true) ∧ (healthy < 4) ∧ ((s.port q).cfg.getLsbD 1 = true) ∧ ((s.port q).phy = .copperL7) ∧ (0 < healthy))
    ∧ (∃ (q : Nat) (s : State), ∃ (healthy : Nat), (q < 16) ∧ (portUp s q = true) ∧ (healthy < 4) ∧ ((s.port q).cfg.getLsbD 1 = false ∨ (s.port q).phy ≠ .copperL7 ∨ healthy = 0))
    ∧ (∃ (q : Nat) (s : State), ∃ (lanes : Nat), (q < 16) ∧ (lanes = 2 ∨ lanes = 4) ∧ (portUp s q = true) ∧ ((s.port q).cfg.getLsbD 1 = true) ∧ ((s.port q).phy = .copperL7) ∧ ((s.port q).lanes < lanes))
    ∧ (∃ (m : Nat) (s : State), (∀ p ∈ s.posted, p.peer = none))
    ∧ (∃ (m : Nat) (s : State), ((s.conn m).unacked ≠ []) ∧ ((s.conn m).progressGt + 20000000 ≤ s.gt)) :=
  ⟨⟨5, 0, 4, 0x80FC, 8, (sC.setConn 5 { recvNext := 2 }), (.chainRead 5 0 4 0x80FC 8), by (try dsimp only); exact ⟨by decide +kernel, by decide +kernel, by decide +kernel, by decide +kernel, by decide +kernel, .inl rfl⟩⟩,
   ⟨5, 3, 4, 0x80FC, 8, sC, by decide +kernel⟩,
   ⟨5, 0, 4, 0x80FC, 8, { sC with homes := [(0x80, { pending := [{t := some 600, bytes := [(252, 4)]}]})] }, by decide +kernel⟩,
   ⟨5, 0, 4, 0x8004, 8, (sC), by decide +kernel⟩,
   ⟨5, 0, 4, 0x8004, 8, sFull, by (try dsimp only); exact ⟨by decide +kernel, by decide +kernel, by decide +kernel, by decide +kernel, by decide +kernel, by decide +kernel, full_room (n := 511) (x := { cm with bytes := List.replicate 8192 0 }) (q := 0) rfl (by decide +kernel) (by rw [List.length_replicate]; omega)⟩⟩,
   ⟨5, 0, 4, 0x80FC, 8, (sC), [1,2,3,4,5,6,7,8], by decide +kernel⟩,
   ⟨5, 0, 4, 0x80FC, 4, (sC), { code := 0x97 }, false, false, false, 7, 0, by decide +kernel⟩,
   ⟨5, 0, 4, 0x80FC, 8, (sC), false, [5, 6], by decide +kernel⟩,
   ⟨5, 1, sK, by decide +kernel⟩,
   ⟨5, sK, by decide +kernel⟩,
   ⟨0, { sK.setPort 0 { pt with lanes := 0 } with plat := { sK.plat with rdy := 0x1FFF } }, 4, .copperL7, by decide +kernel⟩,
   ⟨0, (sK.setPort 0 { pt with lanes := 0 }), 2, by decide +kernel⟩,
   ⟨0, sKc, 3, by decide +kernel⟩,
   ⟨0, sK, 3, by decide +kernel⟩,
   ⟨0, (sKc.setPort 0 { pt with lanes := 1, phy := .copperL7 }), 4, by decide +kernel⟩,
   ⟨5, { sK with dies := [(0, dW)], fetches := [{ f0 with stage := .peer 5 0x100 }, { f0 with id := 17, stage := .peer 6 0x100 }, fE], copies := [{ cmd := cpy0, engine := 0, waiting := some (30, 16, false) }] }, by decide +kernel⟩,
   ⟨5, sK, by decide +kernel⟩⟩

theorem witness_PowerReportsAndReset :
    (∃ s : State, ∃ (found : List Byte), (booted s = false) ∧ (s.plat.fail = false) ∧ ((imagesOf 3 found).any (tooOld s) = false))
    ∧ (∃ s : State, ∃ (found : List Byte), ∃ (signed : Bool), (booted s = false) ∧ (s.plat.fail = false) ∧ (signed = false ∨ (imagesOf 3 found).any (tooOld s) = true))
    ∧ (∃ s : State, ∃ (v : W64), (booted s = true) ∧ (bitsAt v 0 4 = 1) ∧ (s.plat.busy = none))
    ∧ (∃ s : State, ∃ (v : W64), (booted s = true) ∧ (bitsAt v 0 4 = 1) ∧ (s.plat.busy ≠ none))
    ∧ (∃ s : State, ∃ (dst : Nat) (nonce : List Byte), (s.plat.busy = some (dst, nonce)) ∧ (localBytesOk dst 4096 = true) ∧ (s.plat.lmsx = false))
    ∧ (∃ s : State, ∃ (dst : Nat) (nonce : List Byte), (s.plat.busy = some (dst, nonce)) ∧ (localBytesOk dst 4096 = true) ∧ (s.plat.lmsx = true))
    ∧ (∃ (c : Nat), ∃ (off : Nat), (0x10 < off))
    ∧ (∃ (j : Nat), (j < 4)) :=
  ⟨⟨sB0, [1,2], by decide +kernel⟩,
   ⟨sB0, [1,2], false, by decide +kernel⟩,
   ⟨sC, 0x5001, by decide +kernel⟩,
   ⟨{ sC with plat := { rdy := 1, busy := some (0x8000, [1,2]) } }, 0x5001, by decide +kernel⟩,
   ⟨{ sC with plat := { rdy := 1, busy := some (0x8000, [1,2]) } }, 0x8000, [1,2], by decide +kernel⟩,
   ⟨{ sC with plat := { rdy := 1, busy := some (0x8000, [1,2]), lmsx := true } }, 0x8000, [1,2], by decide +kernel⟩,
   ⟨3, 0x18, by decide +kernel⟩,
   ⟨3, by decide +kernel⟩⟩

end Platform

end Sys2Proof.Tests
end

section
/-! PROOF. The canonical form of memory, kept by every step. A relation `Keeps s₀ s` says that physical memory
and the teams' local memories have their canonical form in `s` if they have it in `s₀`. Each function of the model that
makes a state has one lemma here, named after it: from `Keeps s₀ s` follows `Keeps s₀` of what the function makes of
`s`. The lemma's proof follows the branches of the function and names, from the first to the last, the calls that it
makes on each. The content lies in few places: `makeVisible` writes physical memory, `localWrite` writes a local memory,
a reset empties both, and `seatTeam`, `saveTeam` and `keepMember` move a team from place to place. -/

namespace Sys2Proof

/-- What is read is listed, or is the default. -/
theorem SMap.get_eq_default_or_mem {α : Type} (d : α) (m : SMap α) (i : Nat) :
    m.get d i = d ∨ (i, m.get d i) ∈ m := by
  induction m with
  | nil => exact .inl rfl
  | cons p r ih =>
    obtain ⟨k, v⟩ := p
    rw [SMap.get_cons]
    split
    · next e => exact .inr (e ▸ List.mem_cons_self)
    · split
      · exact .inl rfl
      · exact ih.imp_right (List.mem_cons_of_mem _)

/-- What is found is listed. -/
theorem SMap.mem_of_find? {α : Type} {m : SMap α} {i : Nat} {x : α} (h : m.find? i = some x) : (i, x) ∈ m := by
  induction m with
  | nil => cases h
  | cons p r ih =>
    obtain ⟨k, v⟩ := p
    rw [SMap.find?_cons] at h
    split at h
    · next e =>
      cases h
      exact e ▸ List.mem_cons_self
    · split at h
      · cases h
      · exact List.mem_cons_of_mem _ (ih h)

end Sys2Proof

namespace Sys2Proof.Machine

/-- The local memories of the teams of a core are in their canonical form. -/
abbrev Core.LocalOk (k : Core) : Prop := ∀ t ∈ k.teams, SMap.wf (0 : Byte) t.2.mem = true

/-- Physical memory, and the local memories, have their canonical form in `s` if they have it in `s₀`. -/
structure Keeps (s₀ s : State) : Prop where
  mem : MemoryOk s₀ → MemoryOk s
  loc : LocalMemoryOk s₀ → LocalMemoryOk s

/-! ## What an answer keeps, in each of the forms in which the model's functions answer -/

/-- An outcome of an instruction: the next state, where there is one. -/
def Keeps.Out (s₀ : State) : Host.Outcome State Fault Refusal → Prop
  | .next s => Keeps s₀ s
  | _ => True

/-- A strand's part of a pass, done or stopped. -/
def Keeps.Res (s₀ : State) : StrandRes → Prop
  | .ok s => Keeps s₀ s
  | .stop s _ => Keeps s₀ s

/-- A state that there may not be. -/
def Keeps.Opt (s₀ : State) : Option State → Prop
  | some s => Keeps s₀ s
  | none => True

/-- A result with the state after it, or a reason that leaves the state as it was. -/
def Keeps.Inl {α β : Type} (s₀ : State) : (α × State) ⊕ β → Prop
  | .inl (_, s) => Keeps s₀ s
  | .inr _ => True

/-- A result or a reason, each with the state after it. -/
def Keeps.Either {α β : Type} (s₀ : State) : (α × State) ⊕ (State × β) → Prop
  | .inl (_, s) => Keeps s₀ s
  | .inr (s, _) => Keeps s₀ s

variable {s₀ s t : State}

namespace Keeps

theorem refl (s : State) : Keeps s s := ⟨id, id⟩

theorem of_eq (hs : Keeps s₀ s) (hm : t.mem = s.mem) (hc : t.cores = s.cores) : Keeps s₀ t :=
  ⟨fun h => (congrArg Memory.wf hm).trans (hs.mem h), fun hl k hk => hs.loc hl k (hc ▸ hk)⟩

/-- Fields beside physical memory and the cores do not matter. -/
theorem upd {agenda cur starts follow freeCtr nextId gt powered tags poison homes mscDirty fetches posted
    atlbReqs fills gang roots fused quotas qsub clen held notices copies dues engineClk mxslot launches runs saved
    parts gov plat fuses ports conns inbox downs linkT linkClk outbox dies} (hs : Keeps s₀ s) :
    Keeps s₀ ⟨agenda, cur, starts, follow, freeCtr, nextId, gt, powered, s.mem, tags, poison, homes, mscDirty,
      fetches, posted, atlbReqs, fills, gang, roots, fused, quotas, qsub, clen, held, notices, copies, dues,
      engineClk, mxslot, launches, runs, saved, parts, gov, plat, fuses, ports, conns, inbox, downs, linkT,
      linkClk, outbox, s.cores, dies⟩ := hs.of_eq rfl rfl

/-! ### Both branches of an `if` -/

theorem ite {c : Prop} [Decidable c] {a b : State} (ha : Keeps s₀ a) (hb : Keeps s₀ b) :
    Keeps s₀ (if c then a else b) := iteInduction (fun _ => ha) fun _ => hb

theorem iteFst {α : Type} {c : Prop} [Decidable c] {a b : State × α} (ha : Keeps s₀ a.1) (hb : Keeps s₀ b.1) :
    Keeps s₀ (if c then a else b).1 :=
  iteInduction (motive := fun p : State × α => Keeps s₀ p.1) (fun _ => ha) fun _ => hb

theorem iteSnd {α : Type} {c : Prop} [Decidable c] {a b : α × State} (ha : Keeps s₀ a.2) (hb : Keeps s₀ b.2) :
    Keeps s₀ (if c then a else b).2 :=
  iteInduction (motive := fun p : α × State => Keeps s₀ p.2) (fun _ => ha) fun _ => hb

theorem Out.ite {c : Prop} [Decidable c] {a b : Host.Outcome State Fault Refusal} (ha : Out s₀ a)
    (hb : Out s₀ b) : Out s₀ (if c then a else b) := iteInduction (fun _ => ha) fun _ => hb

theorem Res.ite {c : Prop} [Decidable c] {a b : StrandRes} (ha : Res s₀ a) (hb : Res s₀ b) :
    Res s₀ (if c then a else b) := iteInduction (fun _ => ha) fun _ => hb

theorem Opt.ite {c : Prop} [Decidable c] {a b : Option State} (ha : Opt s₀ a) (hb : Opt s₀ b) :
    Opt s₀ (if c then a else b) := iteInduction (fun _ => ha) fun _ => hb

theorem Inl.ite {α β : Type} {c : Prop} [Decidable c] {a b : (α × State) ⊕ β} (ha : Inl s₀ a)
    (hb : Inl s₀ b) : Inl s₀ (if c then a else b) := iteInduction (fun _ => ha) fun _ => hb

/-! ### States that there may not be -/

theorem Opt.bind {o : Option State} {f : State → Option State} (ho : Opt s₀ o)
    (hf : ∀ {s}, Keeps s₀ s → Opt s₀ (f s)) : Opt s₀ (o.bind f) := by
  cases o with
  | none => trivial
  | some s => exact hf ho

theorem Opt.map {o : Option State} {f : State → State} (ho : Opt s₀ o)
    (hf : ∀ {s}, Keeps s₀ s → Keeps s₀ (f s)) : Opt s₀ (o.map f) := by
  cases o with
  | none => trivial
  | some s => exact hf ho

theorem Opt.orElse {o : Option State} {f : Unit → Option State} (ho : Opt s₀ o) (hf : ∀ {u}, Opt s₀ (f u)) :
    Opt s₀ (o.orElse f) := by
  cases o with
  | none => exact hf
  | some s => exact ho

theorem Opt.foldl {α : Type} {l : List α} {o : Option State} {f : Option State → α → Option State}
    (ho : Opt s₀ o) (hf : ∀ {o x}, Opt s₀ o → Opt s₀ (f o x)) : Opt s₀ (l.foldl f o) :=
  l.foldlRecOn f ho fun _ h _ _ => hf h

theorem Opt.findSome? {α : Type} {l : List α} {f : α → Option State} (hf : ∀ {x}, Opt s₀ (f x)) :
    Opt s₀ (l.findSome? f) := by
  induction l with
  | nil => trivial
  | cons x l ih =>
    rw [List.findSome?_cons]
    split
    · next e => exact e ▸ hf (x := x)
    · exact ih

/-! ### The state in an answer, from the equation that a `match` on the answer gives -/

theorem snd {α : Type} {p : α × State} {a : α} (hp : Keeps s₀ p.2) (e : p = (a, s)) : Keeps s₀ s := by
  subst e; exact hp

theorem fst {α : Type} {p : State × α} {a : α} (hp : Keeps s₀ p.1) (e : p = (s, a)) : Keeps s₀ s := by
  subst e; exact hp

theorem snd₂ {α β : Type} {p : α × β × State} {a : α} {b : β} (hp : Keeps s₀ p.2.2) (e : p = (a, b, s)) :
    Keeps s₀ s := by
  subst e; exact hp

theorem Out.next {o : Host.Outcome State Fault Refusal} (ho : Out s₀ o) (e : o = .next s) : Keeps s₀ s := by
  subst e; exact ho

theorem Res.ok {o : StrandRes} (ho : Res s₀ o) (e : o = .ok s) : Keeps s₀ s := by
  subst e; exact ho

theorem Res.stop {o : StrandRes} {x : Stop} (ho : Res s₀ o) (e : o = .stop s x) : Keeps s₀ s := by
  subst e; exact ho

theorem Opt.some {o : Option State} (ho : Opt s₀ o) (e : o = .some s) : Keeps s₀ s := by
  subst e; exact ho

theorem Inl.inl {α β : Type} {o : (α × State) ⊕ β} {a : α} (ho : Inl s₀ o) (e : o = .inl (a, s)) :
    Keeps s₀ s := by
  subst e; exact ho

theorem Either.inl {α β : Type} {o : (α × State) ⊕ (State × β)} {a : α} (ho : Either s₀ o)
    (e : o = .inl (a, s)) : Keeps s₀ s := by
  subst e; exact ho

theorem Either.inr {α β : Type} {o : (α × State) ⊕ (State × β)} {b : β} (ho : Either s₀ o)
    (e : o = .inr (s, b)) : Keeps s₀ s := by
  subst e; exact ho

/-! ### A loop keeps what its body keeps -/

theorem foldl {α : Type} {l : List α} {f : State → α → State} (hs : Keeps s₀ s)
    (hf : ∀ {s x}, Keeps s₀ s → Keeps s₀ (f s x)) : Keeps s₀ (l.foldl f s) :=
  l.foldlRecOn f hs fun _ h _ _ => hf h

theorem foldlFst {α β : Type} {l : List α} {f : State × β → α → State × β} {a : State × β}
    (ha : Keeps s₀ a.1) (hf : ∀ {a x}, Keeps s₀ a.1 → Keeps s₀ (f a x).1) : Keeps s₀ (l.foldl f a).1 :=
  l.foldlRecOn f (motive := fun a => Keeps s₀ a.1) ha fun _ h _ _ => hf h

theorem foldlSnd {α β : Type} {l : List α} {f : β × State → α → β × State} {a : β × State}
    (ha : Keeps s₀ a.2) (hf : ∀ {a x}, Keeps s₀ a.2 → Keeps s₀ (f a x).2) : Keeps s₀ (l.foldl f a).2 :=
  l.foldlRecOn f (motive := fun a => Keeps s₀ a.2) ha fun _ h _ _ => hf h

/-! ### Cores and teams -/

/-- A core is a listed one or the default, which has no team. -/
theorem core {c : Nat} (hs : Keeps s₀ s) (hl : LocalMemoryOk s₀) : (s.core c).LocalOk := by
  rcases SMap.get_eq_default_or_mem {} s.cores c with h | h
  · unfold State.core
    rw [h]
    intro t ht
    cases ht
  · exact hs.loc hl _ h

theorem findTeam {c i : Nat} {x : Team} (hs : Keeps s₀ s) (e : (s.core c).teams.find? i = some x)
    (hl : LocalMemoryOk s₀) : SMap.wf (0 : Byte) x.mem = true :=
  hs.core hl _ (SMap.mem_of_find? e)

/-- A team is a listed one or the default, which has written nothing. -/
theorem team {c i : Nat} (hs : Keeps s₀ s) (hl : LocalMemoryOk s₀) :
    SMap.wf (0 : Byte) (s.team c i).mem = true := by
  rcases SMap.get_eq_default_or_mem {} (s.core c).teams i with h | h
  · unfold State.team
    rw [h]
    rfl
  · exact hs.core hl _ h

/-- A core whose teams keep the form is put in place. -/
theorem putCore {c : Nat} {k : Core} (hs : Keeps s₀ s) (hk : LocalMemoryOk s₀ → k.LocalOk) :
    Keeps s₀ (s.setCore c k) :=
  ⟨hs.mem, fun hl p hp => (SMap.mem_set hp).elim (fun e => e ▸ hk hl) (hs.loc hl p)⟩

/-- Fields of a core beside its teams do not matter. -/
theorem setCore {c : Nat} {cycle phase lanes groups atlb l1 ibuf copyq banks array port mxClk zlast tickCycle made
    kat regs} (hs : Keeps s₀ s) :
    Keeps s₀ (s.setCore c ⟨cycle, phase, lanes, (s.core c).teams, groups, atlb, l1, ibuf, copyq, banks, array, port,
      mxClk, zlast, tickCycle, made, kat, regs⟩) :=
  hs.putCore hs.core

theorem modCore {c : Nat} {f : Core → Core} (hs : Keeps s₀ s) (hf : ∀ k, (f k).teams = k.teams) :
    Keeps s₀ (s.modCore c f) := hs.putCore fun hl t ht => hs.core hl t (hf _ ▸ ht)

/-- A team whose local memory has the form is put in place. -/
theorem putTeam {c i : Nat} {x : Team} (hs : Keeps s₀ s)
    (hx : LocalMemoryOk s₀ → SMap.wf (0 : Byte) x.mem = true) :
    Keeps s₀ (s.setTeam c i x) :=
  hs.putCore fun hl t ht => (SMap.mem_set ht).elim (fun e => e ▸ hx hl) (hs.core hl t)

/-- Fields of a team beside its local memory do not matter. -/
theorem setTeam {c i : Nat} {launch part index gang nstr nteam gangSize gangPos members ctx lsize laneWords
    budgets dclass fuse stripe sbase pbase farea full lpoison claspClk bars queues pops bank strands args roles entry
    h0 started restart startCycle preempting locUnits regWords charged} (hs : Keeps s₀ s) :
    Keeps s₀ (s.setTeam c i ⟨launch, part, index, gang, nstr, nteam, gangSize, gangPos, members, ctx, lsize,
      laneWords, budgets, dclass, fuse, stripe, sbase, pbase, farea, (s.team c i).mem, full, lpoison, claspClk, bars,
      queues, pops, bank, strands, args, roles, entry, h0, started, restart, startCycle, preempting, locUnits,
      regWords, charged⟩) :=
  hs.putTeam hs.team

theorem modTeam {c i : Nat} {f : Team → Team} (hs : Keeps s₀ s) (hf : ∀ t, (f t).mem = t.mem) :
    Keeps s₀ (s.modTeam c i f) := hs.putTeam fun hl => (congrArg (SMap.wf (0 : Byte)) (hf _)).trans (hs.team hl)

/-- The cores are replaced by ones whose local memories have the form. -/
theorem putCores {cs : SMap Core} (hs : Keeps s₀ s) (hc : LocalMemoryOk s₀ → ∀ k ∈ cs, k.2.LocalOk) :
    Keeps s₀ { s with cores := cs } := ⟨hs.mem, hc⟩

/-- Every core is changed in a way that keeps the form. -/
theorem mapCores {f : Nat × Core → Nat × Core} (hs : Keeps s₀ s) (hf : ∀ k, k.2.LocalOk → (f k).2.LocalOk) :
    Keeps s₀ { s with cores := s.cores.map f } := by
  refine hs.putCores fun hl k hk => ?_
  obtain ⟨j, hj, rfl⟩ := List.mem_map.1 hk
  exact hf j (hs.loc hl j hj)

/-- A place of cores is emptied. -/
theorem eraseCore {c : Nat} (hs : Keeps s₀ s) : Keeps s₀ { s with cores := s.cores.erase c } :=
  hs.putCores fun hl k hk => hs.loc hl k (SMap.mem_erase hk)

/-! ### The accessors of the state -/

theorem setGroup {c i : Nat} {g : GroupSlot} (hs : Keeps s₀ s) : Keeps s₀ (s.setGroup c i g) :=
  hs.modCore fun _ => rfl

theorem modGroup {c i : Nat} {f : GroupSlot → GroupSlot} (hs : Keeps s₀ s) : Keeps s₀ (s.modGroup c i f) :=
  hs.setGroup

theorem setFrag {r : FragRef} {f : Frag} (hs : Keeps s₀ s) : Keeps s₀ (s.setFrag r f) := hs.modGroup

theorem modFrag {r : FragRef} {f : Frag → Frag} (hs : Keeps s₀ s) : Keeps s₀ (s.modFrag r f) := hs.setFrag

theorem setStrand {c i sid : Nat} {x : Strand} (hs : Keeps s₀ s) : Keeps s₀ (s.setStrand c i sid x) :=
  hs.modTeam fun _ => rfl

theorem setVreg {c i sid p : Nat} {x : VReg} (hs : Keeps s₀ s) : Keeps s₀ (s.setVreg c i sid p x) :=
  hs.modTeam fun _ => rfl

theorem setKreg {c i n : Nat} {x : KReg} (hs : Keeps s₀ s) : Keeps s₀ (s.setKreg c i n x) := hs.modGroup

theorem setStrandPred {c i sid n : Nat} {b : Bool} (hs : Keeps s₀ s) : Keeps s₀ (s.setStrandPred c i sid n b) :=
  hs.modTeam fun _ => rfl

theorem setDie {d : Nat} {x : Die} (hs : Keeps s₀ s) : Keeps s₀ (s.setDie d x) := hs.upd

theorem modDie {d : Nat} {f : Die → Die} (hs : Keeps s₀ s) : Keeps s₀ (s.modDie d f) := hs.upd

theorem setPart {p : Nat} {x : Part} (hs : Keeps s₀ s) : Keeps s₀ (s.setPart p x) := hs.upd

theorem modPart {p : Nat} {f : Part → Part} (hs : Keeps s₀ s) : Keeps s₀ (s.modPart p f) := hs.upd

theorem fresh (hs : Keeps s₀ s) : Keeps s₀ s.fresh.2 := hs.upd

end Keeps

end Sys2Proof.Machine
end

section
namespace Sys2Proof.Machine
variable {s₀ s t : State}

/-! ## The operations that every engine shares -/

theorem Keeps.chargeAt {c h n now : Nat} (hs : Keeps s₀ s) : Keeps s₀ (chargeAt s c h n now) :=
  .ite hs hs.modGroup.upd

theorem Keeps.charge {c h n : Nat} (hs : Keeps s₀ s) : Keeps s₀ (charge s c h n) := hs.chargeAt

theorem Keeps.tickLane {r : FragRef} {n : Nat} (hs : Keeps s₀ s) : Keeps s₀ (tickLane s r n) := hs.setCore

theorem Keeps.spend {r : FragRef} {w cycles : Nat} (hs : Keeps s₀ s) : Keeps s₀ (spend s r w cycles) :=
  hs.chargeAt.tickLane

theorem Keeps.tickClock {c h : Nat} (hs : Keeps s₀ s) : Keeps s₀ (tickClock s c h) := hs.modGroup

theorem Keeps.receiveClock {c h v : Nat} (hs : Keeps s₀ s) : Keeps s₀ (receiveClock s c h v) := hs.modGroup

theorem Keeps.bumpDie {d n k : Nat} (hs : Keeps s₀ s) : Keeps s₀ (bumpDie s d n k) := hs.modDie

theorem Keeps.mscUse {pl : Nat} {hint : Option Nat} (hs : Keeps s₀ s) : Keeps s₀ (mscUse s pl hint) := by
  unfold Machine.mscUse
  extract_lets
  split
  · exact hs.modDie.bumpDie
  · split
    · exact hs.bumpDie.bumpDie
    · exact hs.bumpDie.bumpDie.modDie.upd

theorem Keeps.arriveHint {line last : Nat} {hint : Option Nat} {p : Pend} (hs : Keeps s₀ s) :
    Keeps s₀ (arriveHint s line last hint p).2 := hs.mscUse.upd

theorem Keeps.arriveAfter {line last : Nat} {p : Pend} (hs : Keeps s₀ s) :
    Keeps s₀ (arriveAfter s line last p).2 := hs.arriveHint

theorem Keeps.arriveAt {line : Nat} {p : Pend} (hs : Keeps s₀ s) : Keeps s₀ (arriveAt s line p).2 :=
  hs.arriveAfter

theorem Keeps.engineWrite {pa : Nat} {bytes : List Byte} {p : Pend} (hs : Keeps s₀ s) :
    Keeps s₀ (engineWrite s pa bytes p) := hs.arriveAt

theorem Keeps.putTrace {c h kind code slot : Nat} {payload : Nat} {pc : W64} {e : W32} (hs : Keeps s₀ s) :
    Keeps s₀ (putTrace s c h kind code slot payload pc e) := .ite hs (.ite hs.modDie hs.engineWrite.modDie)

theorem Keeps.emitTraceAt {c h kind code slot : Nat} {payload : Nat} {pc : W64} {e : W32} (hs : Keeps s₀ s) :
    Keeps s₀ (emitTraceAt s c h kind code slot payload pc e) := (Keeps.ite hs.tickClock hs).putTrace

theorem Keeps.emitTrace {r : FragRef} {kind code slot : Nat} {payload : Nat} (hs : Keeps s₀ s) :
    Keeps s₀ (emitTrace s r kind code slot payload) := hs.emitTraceAt

theorem Keeps.queueNotice {part : Nat} {n : Notice} (hs : Keeps s₀ s) : Keeps s₀ (queueNotice s part n) :=
  hs.upd

theorem Keeps.postTo {c h asid : Nat} {va : W64} {bytes : List Byte} (hs : Keeps s₀ s) :
    Keeps s₀ (postTo s c h asid va bytes) := hs.fresh.upd

theorem Keeps.postHardware {c h : Nat} {va : W64} {bytes : List Byte} (hs : Keeps s₀ s) :
    Keeps s₀ (postHardware s c h va bytes) := hs.postTo

theorem Keeps.writeLogHeader {c h : Nat} (hs : Keeps s₀ s) : Keeps s₀ (writeLogHeader s c h) := hs.postHardware

theorem Keeps.clearLog {c h : Nat} (hs : Keeps s₀ s) : Keeps s₀ (clearLog s c h) :=
  .ite hs hs.modGroup.writeLogHeader

theorem Keeps.implicitRegion {c h : Nat} {pc : W64} {wbase : Nat} {m e : W32} {klive : BitVec 56}
    (hs : Keeps s₀ s) :
    Keeps s₀ (implicitRegion s c h pc wbase m e klive).2 := hs.fresh

theorem Keeps.mergeRegions {c h : Nat} {a b : Frag} {m e : W32} (hs : Keeps s₀ s) :
    Keeps s₀ (mergeRegions s c h a b m e).2 := Keeps.iteSnd hs hs.implicitRegion

theorem Keeps.noteSigFail {c h e : Nat} (hs : Keeps s₀ s) : Keeps s₀ (noteSigFail s c h e) :=
  .ite hs hs.emitTraceAt.modGroup

theorem Keeps.mergeOnce {c h e : Nat} (hs : Keeps s₀ s) : Keeps s₀ (mergeOnce s c h e) := by
  unfold Machine.mergeOnce
  extract_lets
  split
  · exact hs
  · split
    · exact hs
    · exact Keeps.ite hs.noteSigFail hs.mergeRegions.setGroup.emitTrace

theorem Keeps.returnSpilled {c h : Nat} (hs : Keeps s₀ s) : Keeps s₀ (returnSpilled s c h) := by
  unfold Machine.returnSpilled
  extract_lets
  split
  · exact hs.setGroup.mergeOnce
  · exact hs

theorem Keeps.returnAll {n c h : Nat} (hs : Keeps s₀ s) : Keeps s₀ (returnAll n s c h) := by
  induction n generalizing s with
  | zero => exact hs
  | succ n ih =>
    rw [Machine.returnAll]
    exact Keeps.ite hs (ih hs.returnSpilled)

theorem Keeps.settleAt {c h e : Nat} (hs : Keeps s₀ s) : Keeps s₀ (settleAt s c h e) := hs.mergeOnce.returnAll

theorem Keeps.dropEmpty {c h : Nat} (hs : Keeps s₀ s) : Keeps s₀ (dropEmpty s c h) := hs.modGroup.returnAll

theorem Keeps.releaseGroup {c h b : Nat} {old status : Bool} {clk : Nat} (hs : Keeps s₀ s) :
    Keeps s₀ (releaseGroup s c h b old status clk) :=
  .ite hs (((hs.receiveClock.foldl Keeps.emitTraceAt).foldl Keeps.emitTraceAt).modGroup.foldl Keeps.settleAt)

theorem Keeps.testBarrier {c t b : Nat} (hs : Keeps s₀ s) : Keeps s₀ (testBarrier s c t b) :=
  .ite hs (hs.setTeam.foldl Keeps.releaseGroup)

theorem Keeps.testBarriers {c t : Nat} (hs : Keeps s₀ s) : Keeps s₀ (testBarriers s c t) :=
  hs.foldl Keeps.testBarrier

theorem Keeps.arriveBarrier {c t b : Nat} {sids : List Nat} {clk : Nat} (hs : Keeps s₀ s) :
    Keeps s₀ (arriveBarrier s c t b sids clk) := hs.setTeam.testBarrier

theorem Keeps.discardFills {c h : Nat} {pick : Bool → Nat → Bool} (hs : Keeps s₀ s) :
    Keeps s₀ (discardFills s c h pick) := hs.upd

theorem Keeps.exitSlots {c h : Nat} {gone : List Nat} (hs : Keeps s₀ s) : Keeps s₀ (exitSlots s c h gone) :=
  hs.setTeam.discardFills.setGroup.dropEmpty.testBarriers

theorem Keeps.killGroup {c h cause : Nat} (hs : Keeps s₀ s) : Keeps s₀ (killGroup s c h cause) :=
  .ite hs hs.modGroup.setTeam.discardFills.clearLog.modGroup.exitSlots.queueNotice

theorem Keeps.enterHandler {c h : Nat} (hs : Keeps s₀ s) : Keeps s₀ (enterHandler s c h) := by
  unfold Machine.enterHandler
  extract_lets
  split
  · exact hs
  · refine Keeps.ite hs ?_
    extract_lets
    split
    · exact Keeps.ite hs.setGroup hs.setGroup
    · exact hs.setGroup.queueNotice

theorem Keeps.takeExceptionAt {r : FragRef} {pc : W64} {f : FaultRec} (hs : Keeps s₀ s) :
    Keeps s₀ (takeExceptionAt s r pc f) :=
  .ite hs.setGroup.killGroup (.ite (.ite hs.setGroup hs) hs.emitTraceAt.setGroup.enterHandler)

theorem Keeps.takeException {r : FragRef} {f : FaultRec} (hs : Keeps s₀ s) : Keeps s₀ (takeException s r f) :=
  hs.modFrag.takeExceptionAt

theorem Keeps.preciseFault {r : FragRef} {cause slot : Nat} {faddr word : W64} (hs : Keeps s₀ s) :
    Keeps s₀ (preciseFault s r cause slot faddr word) := hs.takeException

theorem Keeps.startFault {r : FragRef} {cause : Nat} {faddr word : W64} (hs : Keeps s₀ s) :
    Keeps s₀ (startFault s r cause faddr word) := hs.takeException

theorem Keeps.settleMerge {r : FragRef} (hs : Keeps s₀ s) : Keeps s₀ (settleMerge s r) := hs.settleAt

theorem Keeps.placePiece {mergeOnly : Bool} {c h : Nat} {parent : Frag} {psig : W32} {p : Piece}
    (hs : Keeps s₀ s) : Keeps s₀ (placePiece mergeOnly c h parent psig s p).1 := by
  unfold Machine.placePiece
  refine Keeps.iteFst ?_ ?_
  · split
    · exact hs
    · exact Keeps.iteFst hs.noteSigFail hs.setGroup.mergeRegions.setGroup.emitTrace
  · split <;> exact hs.setGroup

theorem Keeps.trapEntry {c h : Nat} (hs : Keeps s₀ s) : Keeps s₀ (trapEntry s c h).2 := by
  unfold Machine.trapEntry
  extract_lets
  split
  · exact hs
  · split
    · exact hs.setGroup
    · exact hs

theorem Keeps.splitBy {r : FragRef} {succ : Nat → Succ} {fall word : W64} (hs : Keeps s₀ s) :
    Keeps s₀ (splitBy s r succ fall word) := by
  unfold Machine.splitBy
  extract_lets f g members exits traps pieces total psig split' gone base lowE keepIdx keeper others s₁ s₂ s₃ m
  clear_value keeper
  have h₁ : Keeps s₀ s₁ := by
    dsimp only [s₁]
    split
    · exact .ite hs.setFrag.modGroup hs.setFrag
    · exact hs.modGroup
  have h₃ : Keeps s₀ s₃ := .ite (.ite h₁.emitTraceAt h₁) (Keeps.exitSlots (.ite h₁.emitTraceAt h₁))
  clear_value s₃
  refine .ite hs.startFault ?_
  split
  next s₄ left e₄ =>
  have h₄ : Keeps s₀ s₄ := by
    refine Keeps.fst (Keeps.foldlFst h₃ ?_) e₄
    intro acc p ha
    split
    exact Keeps.iteFst (ha.placePiece.fst ‹_›) (ha.placePiece.fst ‹_›)
  split
  next s₅ trapAt e₅ =>
  have h₅ : Keeps s₀ s₅ := by
    refine Keeps.fst (Keeps.iteFst h₄ ?_) e₅
    split
    dsimp only
    exact (h₄.trapEntry.snd ‹_›).modGroup
  extract_lets s₆ s₇
  have h₆ : Keeps s₀ s₆ := h₅.foldl Keeps.placePiece
  have h₇ : Keeps s₀ s₇ := by
    dsimp only [s₇]
    split
    · exact h₆.takeExceptionAt
    · exact h₆
  exact .ite h₇.settleMerge h₇.returnAll

/-! ## Cameo -/

theorem Keeps.cmAppend {d : Nat} {entries : List (List Byte)} (hs : Keeps s₀ s) :
    Keeps s₀ (cmAppend s d entries) := .ite hs (.ite hs.modDie (hs.foldlFst Keeps.engineWrite).modDie)

theorem Keeps.cmConsume {d n cnt : Nat} (hs : Keeps s₀ s) : Keeps s₀ (cmConsume s d n cnt) := hs.modDie

theorem Keeps.cmDiverge {d : Nat} {part : Nat} (hs : Keeps s₀ s) : Keeps s₀ (cmDiverge s d part) :=
  .ite hs hs.modDie.queueNotice

theorem Keeps.cmEvent {d kind asid part : Nat} {key ident : List Nat} {data : List Byte} (hs : Keeps s₀ s) :
    Keeps s₀ (cmEvent s d kind asid part key ident data) := by
  unfold Machine.cmEvent
  refine Keeps.ite hs (.ite hs.cmAppend (.ite ?_ hs))
  split
  · exact hs.cmConsume
  · exact hs.cmDiverge

/-! ## Operands and passes -/

theorem Keeps.popQueue {r : FragRef} {slot q : Nat} (hs : Keeps s₀ s) : Keeps s₀ (popQueue s r slot q).2 := by
  unfold Machine.popQueue
  extract_lets
  split
  · exact hs
  · exact hs.setTeam.receiveClock.cmEvent.emitTrace

theorem Keeps.pushQueue {r : FragRef} {q : Nat} {v : W64} (hs : Keeps s₀ s) : Keeps s₀ (pushQueue s r q v) :=
  hs.tickClock.setTeam.cmEvent.putTrace

theorem Keeps.produce {r : FragRef} {key lat : Nat} (hs : Keeps s₀ s) : Keeps s₀ (produce s r key lat) :=
  hs.setCore

theorem Keeps.awaitCycle {r : FragRef} {t : Nat} (hs : Keeps s₀ s) : Keeps s₀ (awaitCycle s r t) :=
  .ite hs hs.tickLane

theorem Keeps.awaitRegs {r : FragRef} {keys : List Nat} (hs : Keeps s₀ s) : Keeps s₀ (awaitRegs s r keys) :=
  hs.awaitCycle

theorem Keeps.awaitPreds {r : FragRef} {slot : Nat} {qs : List Nat} (hs : Keeps s₀ s) :
    Keeps s₀ (awaitPreds s r slot qs) := hs.awaitRegs

theorem Keeps.writePreds {lat : Nat} {r : FragRef} {slot : Nat} {l : List (Nat × Bool)} (hs : Keeps s₀ s) :
    Keeps s₀ (writePreds lat s r slot l) := by
  induction l generalizing s with
  | nil => exact hs
  | cons p ps ih =>
    rw [Machine.writePreds]
    exact ih hs.setStrandPred.produce

theorem Keeps.awaitK {r : FragRef} {n : Nat} (hs : Keeps s₀ s) : Keeps s₀ (awaitK s r n) := hs.awaitCycle

theorem Keeps.awaitSources {r : FragRef} {slot : Nat} {xs : List SrcReg} (hs : Keeps s₀ s) :
    Keeps s₀ (awaitSources s r slot xs) := hs.awaitRegs.foldl Keeps.awaitK

theorem Keeps.readSource {r : FragRef} {slot : Nat} {x : SrcReg} (hs : Keeps s₀ s) :
    Keeps s₀ (readSource s r slot x).2 :=
  Keeps.iteSnd (Keeps.iteSnd hs.popQueue hs.awaitK) (Keeps.iteSnd hs.awaitRegs hs.awaitRegs)

theorem Keeps.readAll {r : FragRef} {slot : Nat} {l : List SrcReg} (hs : Keeps s₀ s) :
    Keeps s₀ (readAll s r slot l).2 := by
  induction l generalizing s with
  | nil => exact hs
  | cons x xs ih =>
    rw [Machine.readAll]
    exact ih hs.readSource

theorem Keeps.writeVsAt {lat : Nat} {r : FragRef} {slot n : Nat} {l : List W32} (hs : Keeps s₀ s) :
    Keeps s₀ (writeVsAt lat s r slot n l) := by
  induction l generalizing s n with
  | nil => exact hs
  | cons v vs ih =>
    rw [Machine.writeVsAt]
    exact ih hs.setVreg.produce

theorem Keeps.writeVs {r : FragRef} {slot n : Nat} {vs : List W32} (hs : Keeps s₀ s) :
    Keeps s₀ (writeVs s r slot n vs) := hs.writeVsAt

theorem Keeps.writeKAt {r : FragRef} {n : Nat} {v : W64} {lat : Nat} (hs : Keeps s₀ s) :
    Keeps s₀ (writeKAt s r n v lat) := .ite hs.pushQueue hs.modGroup.setKreg

theorem Keeps.writeK {r : FragRef} {n : Nat} {v : W64} (hs : Keeps s₀ s) : Keeps s₀ (writeK s r n v) :=
  hs.writeKAt

theorem Keeps.markV {r : FragRef} {slot : Nat} {ns : List Nat} (hs : Keeps s₀ s) :
    Keeps s₀ (markV s r slot ns) := hs.setTeam

theorem Keeps.markK {r : FragRef} {ns : List Nat} (hs : Keeps s₀ s) : Keeps s₀ (markK s r ns) := hs.modGroup

theorem Keeps.fillLater {r : FragRef} {slot : Nat} {uni : Bool} {n : Nat} {words : List W64} (hs : Keeps s₀ s) :
    Keeps s₀ (fillLater s r slot uni n words) := (Keeps.ite hs.markK hs.markV).fresh.upd

theorem Keeps.putVs {popped : Bool} {lat : Nat} {r : FragRef} {slot n : Nat} {ws : List W32} (hs : Keeps s₀ s) :
    Keeps s₀ (putVs popped lat s r slot n ws) := .ite hs.fillLater hs.writeVsAt

theorem Keeps.beginPass {r : FragRef} {i : Instr} (hs : Keeps s₀ s) : Keeps s₀ (beginPass s r i) :=
  hs.upd.modGroup.setCore

theorem Keeps.goTo {r : FragRef} {pc : W64} (hs : Keeps s₀ s) : Keeps s₀ (goTo s r pc) := hs.modFrag.settleMerge

theorem Keeps.advance {r : FragRef} {i : Instr} (hs : Keeps s₀ s) : Keeps s₀ (advance s r i) := hs.goTo

theorem Keeps.leaveLane {r : FragRef} {w : Wait} (hs : Keeps s₀ s) : Keeps s₀ (leaveLane s r w) := hs.modFrag

theorem Keeps.holdLane {r : FragRef} {w : Wait} (hs : Keeps s₀ s) : Keeps s₀ (holdLane s r w) := by
  unfold Machine.holdLane
  exact hs.tickLane.modFrag

theorem Keeps.stopPass {r : FragRef} {i : Instr} {slot : Nat} {x : Stop} (hs : Keeps s₀ s) :
    Keeps s₀ (stopPass s r i slot x) := by
  unfold Machine.stopPass
  split
  · split
    · exact hs.tickLane.modFrag.holdLane
    · exact hs.tickLane.modFrag.leaveLane
  · exact hs.tickLane.modFrag.preciseFault
  · exact hs.tickLane.modFrag.killGroup

theorem Keeps.releaseAgain {r : FragRef} {done : Nat} (hs : Keeps s₀ s) : Keeps s₀ (releaseAgain s r done) :=
  .ite hs.modFrag hs

theorem Keeps.passHeld {r : FragRef} (hs : Keeps s₀ s) : Keeps s₀ (passHeld s r) := hs.modFrag.tickLane

theorem Keeps.runStrands {r : FragRef} {w cycles : Nat} {body : State → Nat → StrandRes} {l : List Nat}
    (hs : Keeps s₀ s) (hbody : ∀ {s sl}, Keeps s₀ s → Keeps.Res s₀ (body s sl)) :
    Keeps s₀ (runStrands r w cycles body l s).1 := by
  induction l generalizing s with
  | nil => exact hs
  | cons sl rest ih =>
    rw [Machine.runStrands]
    refine Keeps.iteFst (ih hs.passHeld) ?_
    split
    · exact ih ((hbody hs).ok ‹_›).spend
    · exact (hbody hs).stop ‹_›

theorem Keeps.bumpCount {c off n : Nat} (hs : Keeps s₀ s) : Keeps s₀ (bumpCount s c off n) := hs.setCore

theorem Keeps.strandPass {i : Instr} {guard : BitVec 4} {gn : Bool} {w : Nat}
    {body : FragRef → State → Nat → StrandRes} {fin : State → FragRef → State} (hs : Keeps s₀ s)
    (hbody : ∀ {r s sl}, Keeps s₀ s → Keeps.Res s₀ (body r s sl))
    (hfin : ∀ {s r}, Keeps s₀ s → Keeps s₀ (fin s r)) : Keeps s₀ (strandPass i guard gn w body fin s) := by
  unfold Machine.strandPass
  split
  · exact hs
  extract_lets
  split
  · exact hfin ((hs.beginPass.runStrands fun ht => hbody ht.awaitPreds).fst ‹_›).tickLane.bumpCount
  · exact ((hs.beginPass.runStrands fun ht => hbody ht.awaitPreds).fst ‹_›).bumpCount.releaseAgain.stopPass

theorem Keeps.uniformPass {i : Instr} {guard : BitVec 4} {gn : Bool} {w : Nat}
    {body : FragRef → State → Nat → StrandRes} {fin : State → FragRef → State} (hs : Keeps s₀ s)
    (hbody : ∀ {r s sl}, Keeps s₀ s → Keeps.Res s₀ (body r s sl))
    (hfin : ∀ {s r}, Keeps s₀ s → Keeps s₀ (fin s r)) : Keeps s₀ (uniformPass i guard gn w body fin s) := by
  unfold Machine.uniformPass
  split
  · exact hs
  next r _ =>
  extract_lets s₁ sl s₂
  have h₂ : Keeps s₀ s₂ := hs.beginPass.awaitPreds
  refine .ite (hfin h₂.passHeld.bumpCount) (.ite h₂.tickLane.advance ?_)
  split
  · exact hfin ((hbody h₂).ok ‹_›).spend.bumpCount
  · exact ((hbody h₂).stop ‹_›).releaseAgain.stopPass

theorem Keeps.switchRegion {r : FragRef} {i : Instr} (hs : Keeps s₀ s) : Keeps s₀ (switchRegion s r i) := by
  unfold Machine.switchRegion
  refine Keeps.ite hs ?_
  split
  · exact hs
  · exact hs.fresh.setFrag

theorem Keeps.awaitFlags {r : FragRef} (hs : Keeps s₀ s) : Keeps s₀ (awaitFlags s r) := hs.awaitCycle

theorem Keeps.orFlags {r : FragRef} {f : BitVec 5} {lat : Nat} (hs : Keeps s₀ s) :
    Keeps s₀ (orFlags s r f lat) := .ite hs hs.modGroup

/-! ## The arithmetic instructions -/

theorem Keeps.readOpt {r : FragRef} {slot : Nat} {n : Option SrcReg} (hs : Keeps s₀ s) :
    Keeps s₀ (readOpt s r slot n).2 := by
  unfold Machine.readOpt
  split
  · exact hs
  · exact hs.readSource

theorem Keeps.readIns {r : FragRef} {slot : Nat} {op : AluOp} {f : FmtA} (hs : Keeps s₀ s) :
    Keeps s₀ (readIns s r slot op f).2 := hs.readOpt.readOpt.readOpt

theorem Keeps.writePredsAll {lat : Nat} {r : FragRef} {ps : List (Nat × Bool)} (hs : Keeps s₀ s) :
    Keeps s₀ (writePredsAll lat s r ps) := hs.foldl Keeps.writePreds

theorem Keeps.aluBody {i : Instr} {op : AluOp} {f : FmtA} {val : Ins → Outs} {r : FragRef} {slot : Nat}
    (hs : Keeps s₀ s) : Keeps.Res s₀ (aluBody i op f val r s slot) := by
  unfold Machine.aluBody
  extract_lets xs s₁ dst port s₂ lat put
  have h₁ : Keeps s₀ s₁ := hs.awaitSources.awaitPreds
  have h₂ : Keeps s₀ s₂ := .ite h₁.switchRegion h₁
  clear_value s₂ s₁ dst
  split
  · exact h₁
  split
  · exact h₁
  split
  · exact h₁
  split
  next s₃ e =>
  have h₃ : Keeps s₀ s₃ := h₂.readIns.snd e
  extract_lets o s₄ s₅ s₆ s₇
  have h₄ : Keeps s₀ s₄ := h₃.orFlags
  have h₅ : Keeps s₀ s₅ := h₄.writePredsAll
  have h₆ : Keeps s₀ s₆ := h₄.writePreds
  have h₇ : Keeps s₀ s₇ := by
    dsimp only [s₇]
    split
    · exact .ite h₆.putVs h₆
    · exact h₆
  clear_value s₇
  split
  · dsimp only [Keeps.Res]
    split
    · exact .ite h₅ (.ite h₅.fillLater h₅.writeKAt)
    · exact h₅
  · dsimp only [Keeps.Res]
    split
    · exact h₇.putVs
    · exact h₇

theorem Keeps.aluPass {i : Instr} {op : AluOp} {f : FmtA} {val : Ins → Outs} (hs : Keeps s₀ s) :
    Keeps.Out s₀ (aluPass i op f val s) :=
  Keeps.ite (hs.uniformPass Keeps.aluBody Keeps.advance) (hs.strandPass Keeps.aluBody Keeps.advance)

theorem Keeps.execNop {f : FmtA} (hs : Keeps s₀ s) : Keeps.Out s₀ (execNop f s) := hs.aluPass

theorem Keeps.execMov {f : FmtA} (hs : Keeps s₀ s) : Keeps.Out s₀ (execMov f s) := hs.aluPass

theorem Keeps.execAdd {f : FmtA} (hs : Keeps s₀ s) : Keeps.Out s₀ (execAdd f s) := hs.aluPass

theorem Keeps.execSub {f : FmtA} (hs : Keeps s₀ s) : Keeps.Out s₀ (execSub f s) := hs.aluPass

theorem Keeps.execMul {f : FmtA} (hs : Keeps s₀ s) : Keeps.Out s₀ (execMul f s) := hs.aluPass

theorem Keeps.execMulh {f : FmtA} (hs : Keeps s₀ s) : Keeps.Out s₀ (execMulh f s) := hs.aluPass

theorem Keeps.execMad {f : FmtA} (hs : Keeps s₀ s) : Keeps.Out s₀ (execMad f s) := hs.aluPass

theorem Keeps.execAddc {f : FmtA} (hs : Keeps s₀ s) : Keeps.Out s₀ (execAddc f s) := hs.aluPass

theorem Keeps.execSubb {f : FmtA} (hs : Keeps s₀ s) : Keeps.Out s₀ (execSubb f s) := hs.aluPass

theorem Keeps.execMin {f : FmtA} (hs : Keeps s₀ s) : Keeps.Out s₀ (execMin f s) := hs.aluPass

theorem Keeps.execMax {f : FmtA} (hs : Keeps s₀ s) : Keeps.Out s₀ (execMax f s) := hs.aluPass

theorem Keeps.execAbs {f : FmtA} (hs : Keeps s₀ s) : Keeps.Out s₀ (execAbs f s) := hs.aluPass

theorem Keeps.execNeg {f : FmtA} (hs : Keeps s₀ s) : Keeps.Out s₀ (execNeg f s) := hs.aluPass

theorem Keeps.execAnd {f : FmtA} (hs : Keeps s₀ s) : Keeps.Out s₀ (execAnd f s) := hs.aluPass

theorem Keeps.execOr {f : FmtA} (hs : Keeps s₀ s) : Keeps.Out s₀ (execOr f s) := hs.aluPass

theorem Keeps.execXor {f : FmtA} (hs : Keeps s₀ s) : Keeps.Out s₀ (execXor f s) := hs.aluPass

theorem Keeps.execAndn {f : FmtA} (hs : Keeps s₀ s) : Keeps.Out s₀ (execAndn f s) := hs.aluPass

theorem Keeps.execShl {f : FmtA} (hs : Keeps s₀ s) : Keeps.Out s₀ (execShl f s) := hs.aluPass

theorem Keeps.execShr {f : FmtA} (hs : Keeps s₀ s) : Keeps.Out s₀ (execShr f s) := hs.aluPass

theorem Keeps.execSar {f : FmtA} (hs : Keeps s₀ s) : Keeps.Out s₀ (execSar f s) := hs.aluPass

theorem Keeps.execRot {f : FmtA} (hs : Keeps s₀ s) : Keeps.Out s₀ (execRot f s) := hs.aluPass

theorem Keeps.execBfx {f : FmtA} (hs : Keeps s₀ s) : Keeps.Out s₀ (execBfx f s) := hs.aluPass

theorem Keeps.execBfi {f : FmtA} (hs : Keeps s₀ s) : Keeps.Out s₀ (execBfi f s) := hs.aluPass

theorem Keeps.execPopc {f : FmtA} (hs : Keeps s₀ s) : Keeps.Out s₀ (execPopc f s) := hs.aluPass

theorem Keeps.execClz {f : FmtA} (hs : Keeps s₀ s) : Keeps.Out s₀ (execClz f s) := hs.aluPass

theorem Keeps.execCtz {f : FmtA} (hs : Keeps s₀ s) : Keeps.Out s₀ (execCtz f s) := hs.aluPass

theorem Keeps.execFnsb {f : FmtA} (hs : Keeps s₀ s) : Keeps.Out s₀ (execFnsb f s) := hs.aluPass

theorem Keeps.execBrev {f : FmtA} (hs : Keeps s₀ s) : Keeps.Out s₀ (execBrev f s) := hs.aluPass

theorem Keeps.execSel {f : FmtA} (hs : Keeps s₀ s) : Keeps.Out s₀ (execSel f s) := hs.aluPass

theorem Keeps.execCmp {f : FmtA} (hs : Keeps s₀ s) : Keeps.Out s₀ (execCmp f s) := hs.aluPass

theorem Keeps.execPlog {f : FmtA} (hs : Keeps s₀ s) : Keeps.Out s₀ (execPlog f s) := hs.aluPass

theorem Keeps.execPmov {f : FmtA} (hs : Keeps s₀ s) : Keeps.Out s₀ (execPmov f s) := hs.aluPass

theorem Keeps.execFadd {f : FmtA} (hs : Keeps s₀ s) : Keeps.Out s₀ (execFadd f s) := hs.aluPass

theorem Keeps.execFsub {f : FmtA} (hs : Keeps s₀ s) : Keeps.Out s₀ (execFsub f s) := hs.aluPass

theorem Keeps.execFmul {f : FmtA} (hs : Keeps s₀ s) : Keeps.Out s₀ (execFmul f s) := hs.aluPass

theorem Keeps.execFfma {f : FmtA} (hs : Keeps s₀ s) : Keeps.Out s₀ (execFfma f s) := hs.aluPass

theorem Keeps.execFmin {f : FmtA} (hs : Keeps s₀ s) : Keeps.Out s₀ (execFmin f s) := hs.aluPass

theorem Keeps.execFmax {f : FmtA} (hs : Keeps s₀ s) : Keeps.Out s₀ (execFmax f s) := hs.aluPass

theorem Keeps.execFcmp {f : FmtA} (hs : Keeps s₀ s) : Keeps.Out s₀ (execFcmp f s) := hs.aluPass

theorem Keeps.execFcls {f : FmtA} (hs : Keeps s₀ s) : Keeps.Out s₀ (execFcls f s) := hs.aluPass

theorem Keeps.execRcp {f : FmtA} (hs : Keeps s₀ s) : Keeps.Out s₀ (execRcp f s) := hs.aluPass

theorem Keeps.execRsq {f : FmtA} (hs : Keeps s₀ s) : Keeps.Out s₀ (execRsq f s) := hs.aluPass

theorem Keeps.execSqrt {f : FmtA} (hs : Keeps s₀ s) : Keeps.Out s₀ (execSqrt f s) := hs.aluPass

theorem Keeps.execEx2 {f : FmtA} (hs : Keeps s₀ s) : Keeps.Out s₀ (execEx2 f s) := hs.aluPass

theorem Keeps.execLg2 {f : FmtA} (hs : Keeps s₀ s) : Keeps.Out s₀ (execLg2 f s) := hs.aluPass

theorem Keeps.execSinp {f : FmtA} (hs : Keeps s₀ s) : Keeps.Out s₀ (execSinp f s) := hs.aluPass

theorem Keeps.execCosp {f : FmtA} (hs : Keeps s₀ s) : Keeps.Out s₀ (execCosp f s) := hs.aluPass

theorem Keeps.execTanh {f : FmtA} (hs : Keeps s₀ s) : Keeps.Out s₀ (execTanh f s) := hs.aluPass

theorem Keeps.execCvt {f : FmtA} (hs : Keeps s₀ s) : Keeps.Out s₀ (execCvt f s) := hs.aluPass

theorem Keeps.execCvtef {f : FmtA} (hs : Keeps s₀ s) : Keeps.Out s₀ (execCvtef f s) := hs.aluPass

theorem Keeps.execPack {f : FmtA} (hs : Keeps s₀ s) : Keeps.Out s₀ (execPack f s) := hs.aluPass

theorem Keeps.execUnpk {f : FmtA} (hs : Keeps s₀ s) : Keeps.Out s₀ (execUnpk f s) := hs.aluPass

theorem Keeps.execDot4 {f : FmtA} (hs : Keeps s₀ s) : Keeps.Out s₀ (execDot4 f s) := hs.aluPass

theorem Keeps.execFdot2 {f : FmtA} (hs : Keeps s₀ s) : Keeps.Out s₀ (execFdot2 f s) := hs.aluPass

theorem Keeps.execBlut {f : FmtA} {t : Byte} (hs : Keeps s₀ s) : Keeps.Out s₀ (execBlut f t s) := hs.aluPass

theorem Keeps.stopFirst {r : FragRef} {i : Instr} {slot : Nat} {x : Stop} (hs : Keeps s₀ s) :
    Keeps s₀ (stopFirst s r i slot x) := by
  unfold Machine.stopFirst
  split
  · exact hs.tickLane.leaveLane.modFrag
  · exact hs.tickLane.takeException
  · exact hs.tickLane.killGroup

theorem Keeps.readTraversal {r : FragRef} {wait : State → Nat → State} {check : State → Nat → Option Stop}
    {l : List Nat} (hs : Keeps s₀ s) (hwait : ∀ {s sl}, Keeps s₀ s → Keeps s₀ (wait s sl)) :
    Keeps s₀ (readTraversal r wait check l s).1 := by
  induction l generalizing s with
  | nil => exact hs
  | cons sl rest ih =>
    rw [Machine.readTraversal]
    split
    · exact hwait hs
    · exact ih (hwait hs).tickLane

theorem Keeps.execQblk {f : FmtA} (hs : Keeps s₀ s) : Keeps.Out s₀ (execQblk f s) := by
  unfold Machine.execQblk
  split
  · exact hs
  · extract_lets
    split
    · exact ((hs.beginPass.readTraversal fun ht => ht.awaitPreds.awaitSources).fst ‹_›).stopFirst
    · next e =>
      have h₁ := (hs.beginPass.readTraversal fun ht => ht.awaitPreds.awaitSources).fst e
      refine Keeps.Out.ite h₁.tickLane.advance (Keeps.advance (Keeps.bumpCount ?_))
      exact h₁.orFlags.writeK.foldl fun ht => ht.orFlags.writeVs.spend

/-! ## Translation -/

theorem Keeps.logViolation {d : Nat} {v : Violation} (hs : Keeps s₀ s) : Keeps s₀ (logViolation s d v) := by
  unfold Machine.logViolation
  exact hs.modDie

theorem Keeps.setAccessed {at_ : Nat} (hs : Keeps s₀ s) : Keeps s₀ (setAccessed s at_) := .ite hs hs.arriveAt

theorem Keeps.walkPage {d asid va who shown : Nat} (hs : Keeps s₀ s) :
    Keeps s₀ (walkPage s d asid va who shown).2 := by
  unfold Machine.walkPage
  extract_lets
  split
  split
  split
  · extract_lets
    split
    · exact (hs.bumpDie.foldl Keeps.mscUse).modDie.logViolation
    · dsimp only
      exact (hs.bumpDie.foldl Keeps.mscUse).modDie.setAccessed.modDie
  · exact Keeps.ite (hs.bumpDie.foldl Keeps.mscUse).modDie.logViolation (hs.bumpDie.foldl Keeps.mscUse).modDie

theorem Keeps.translate {d asid va : Nat} {who : Nat} {shown : Nat} (hs : Keeps s₀ s) :
    Keeps s₀ (translate s d asid va who shown).2 := by
  unfold Machine.translate
  extract_lets
  split
  · exact hs
  · exact hs.walkPage

theorem Keeps.translateAnew {d asid va who shown : Nat} (hs : Keeps s₀ s) :
    Keeps s₀ (translateAnew s d asid va who shown).2 := hs.modDie.walkPage

theorem Keeps.tlbTouch {c : Nat} {e : TlbEntry} (hs : Keeps s₀ s) : Keeps s₀ (tlbTouch s c e) := hs.setCore

theorem Keeps.tlbAsk {c asid va addr : Nat} (hs : Keeps s₀ s) : Keeps s₀ (tlbAsk s c asid va addr) :=
  .ite hs hs.fresh.upd

/-! ## Sending over the Chain fabric -/

theorem Keeps.setPort {q : Nat} {x : ChainPort} (hs : Keeps s₀ s) : Keeps s₀ (State.setPort s q x) := hs.upd

theorem Keeps.setConn {m : Nat} {x : Conn} (hs : Keeps s₀ s) : Keeps s₀ (State.setConn s m x) := hs.upd

theorem Keeps.tickPort {m : Nat} (hs : Keeps s₀ s) : Keeps s₀ (tickPort s m).2 := by
  unfold Machine.tickPort
  split
  · exact hs.setPort
  · exact hs

theorem Keeps.recvPort {m clk : Nat} (hs : Keeps s₀ s) : Keeps s₀ (recvPort s m clk).2 := by
  unfold Machine.recvPort
  split
  · exact hs.setPort
  · exact hs

theorem Keeps.putOut {m : Nat} {ms : List ChainMsg} (hs : Keeps s₀ s) : Keeps s₀ (putOut s m ms) :=
  .ite hs.upd hs

theorem Keeps.transmit {m : Nat} {x : ChainMsg} (hs : Keeps s₀ s) : Keeps s₀ (transmit s m x) :=
  hs.setConn.putOut

theorem Keeps.sendPeer {m kind addr : Nat} {bytes : List Byte} {ref : Nat} (hs : Keeps s₀ s) :
    Keeps s₀ (sendPeer s m kind addr bytes ref) := .ite hs.tickPort.transmit hs.tickPort.setConn

theorem Keeps.sendWaiting {m : Nat} (hs : Keeps s₀ s) : Keeps s₀ (sendWaiting s m) :=
  hs.foldl fun ht => Keeps.ite ht.setConn.transmit ht

theorem Keeps.sendAck {m : Nat} (hs : Keeps s₀ s) : Keeps s₀ (sendAck s m) := hs.putOut

theorem Keeps.sendRead {m addr len ref : Nat} (hs : Keeps s₀ s) : Keeps s₀ (sendRead s m addr len ref) :=
  hs.sendPeer

theorem Keeps.sendWrite {m at_ : Nat} {bytes : SMap Byte} {ref : Nat} (hs : Keeps s₀ s) :
    Keeps s₀ (sendWrite s m at_ bytes ref) := hs.foldl Keeps.sendPeer

/-! ## The home -/

theorem Keeps.dropL2 {d asid line : Nat} (hs : Keeps s₀ s) : Keeps s₀ (dropL2 s d asid line) := hs.modDie

theorem Keeps.postWriteback {c : Nat} {l : CacheLine} (hs : Keeps s₀ s) : Keeps s₀ (postWriteback s c l) :=
  .ite hs hs.dropL2.fresh.upd

theorem Keeps.setL1 {c : Nat} {l : CacheLine} (hs : Keeps s₀ s) : Keeps s₀ (setL1 s c l) := by
  unfold Machine.setL1
  split
  split
  · exact hs.setCore.postWriteback
  · exact hs.setCore

theorem Keeps.setL2 {d : Nat} {l : CacheLine} (hs : Keeps s₀ s) : Keeps s₀ (setL2 s d l) := hs.modDie

theorem Keeps.dropCopies {c asid line : Nat} {sectors : List Nat} (hs : Keeps s₀ s) :
    Keeps s₀ (dropCopies s c asid line sectors) := by
  unfold Machine.dropCopies
  refine Keeps.dropL2 ?_
  split
  · exact hs.postWriteback.setCore
  · exact hs

theorem Keeps.addFill {a : Acc} {words : List W64} {poison far : Bool} (hs : Keeps s₀ s) :
    Keeps s₀ (addFill s a words poison far) := .ite hs hs.fresh.upd

theorem Keeps.logAccess {a : Acc} {cause : Nat} (hs : Keeps s₀ s) : Keeps s₀ (logAccess s a cause) :=
  .ite hs (.ite hs.setGroup hs.setGroup.postHardware.writeLogHeader)

theorem Keeps.serveAcc {tagc far own : Bool} {bytes : List Byte} {tags : List (BitVec 4)} {poison : BitVec 8}
    {a : Acc} (hs : Keeps s₀ s) : Keeps s₀ (serveAcc tagc far own bytes tags poison s a) := by
  unfold Machine.serveAcc
  split
  · exact hs.addFill
  · exact Keeps.ite hs.logAccess hs.addFill

end Sys2Proof.Machine
end

section
namespace Sys2Proof.Machine
variable {s₀ s t : State}

theorem Keeps.openFetch {f : Fetch} {l2 : Option CacheLine} (hs : Keeps s₀ s) :
    Keeps s₀ (openFetch s f l2).2 := by
  unfold Machine.openFetch
  split
  next e =>
  have h₁ := hs.fresh.snd e
  split
  · exact h₁.setL2.bumpDie.upd
  · exact h₁.upd

theorem Keeps.joinFetch {id : Nat} {a : Acc} {store : Bool} (hs : Keeps s₀ s) :
    Keeps s₀ (joinFetch s id a store) := hs.upd

theorem Keeps.joinSectors {ids : List Nat} {a : Acc} (hs : Keeps s₀ s) : Keeps s₀ (joinSectors s ids a) :=
  hs.upd

theorem Keeps.issueRead {opened : List Nat} {a : Acc} {leaf : Option PageLeaf} {pkr : W64} (hs : Keeps s₀ s) :
    Keeps s₀ (issueRead s opened a leaf pkr).2 := by
  unfold Machine.issueRead
  dsimp only
  split
  · exact hs.joinSectors.setL1.serveAcc
  · exact hs.joinSectors.serveAcc
  · exact hs.joinSectors.joinFetch
  · exact hs.joinSectors.openFetch
  · exact hs.joinSectors.bumpDie.openFetch

theorem Keeps.passRead {r : FragRef} {a : Acc} {leaf : Option PageLeaf} {pkr : W64} (hs : Keeps s₀ s) :
    Keeps s₀ (passRead s r a leaf pkr) := by
  unfold Machine.passRead
  exact hs.issueRead.modFrag

theorem Keeps.replayRead {a : Acc} {pkr : W64} (hs : Keeps s₀ s) : Keeps s₀ (replayRead s a pkr) := hs.openFetch

theorem Keeps.logAll {accs : List Acc} {cause : Nat} (hs : Keeps s₀ s) : Keeps s₀ (logAll s accs cause) :=
  hs.foldl Keeps.logAccess

theorem Keeps.logDenied {core : Nat} {l : PageLeaf} {pkr : W64} {accs : List Acc} (hs : Keeps s₀ s) :
    Keeps s₀ (logDenied s core l pkr accs) := (hs.foldl Keeps.logViolation).logAll

theorem Keeps.laneFetch {a : Acc} {leaf : Option PageLeaf} {pkr : W64} {store replay : Bool} (hs : Keeps s₀ s) :
    Keeps s₀ (laneFetch s a leaf pkr store replay) := by
  unfold Machine.laneFetch
  extract_lets
  split
  · exact hs.openFetch
  · exact (Keeps.ite hs hs.bumpDie).openFetch

theorem Keeps.laneJoin {f : Fetch} {a : Acc} {pkr : W64} {store replay : Bool} (hs : Keeps s₀ s) :
    Keeps s₀ (laneJoin s f a pkr store replay) := by
  unfold Machine.laneJoin
  refine Keeps.ite hs.joinFetch (.ite hs.joinFetch.upd ?_)
  split
  · exact (hs.translate.snd ‹_›).logAccess
  · next e =>
    have h₁ := hs.translate.snd e
    exact Keeps.ite h₁.logDenied h₁.joinFetch

theorem Keeps.issueLaneRead {a : Acc} {leaf : Option PageLeaf} {pkr : W64} {replay : Bool} (hs : Keeps s₀ s) :
    Keeps s₀ (issueLaneRead s a leaf pkr replay) := by
  unfold Machine.issueLaneRead
  split
  · exact hs.laneJoin
  · exact hs.setL1.serveAcc
  · exact hs.laneFetch

theorem Keeps.issueLaneStore {a : Acc} {leaf : Option PageLeaf} {pkr : W64} {replay : Bool} (hs : Keeps s₀ s) :
    Keeps s₀ (issueLaneStore s a leaf pkr replay) := by
  unfold Machine.issueLaneStore
  split
  · exact hs.laneJoin
  · exact hs.setL1
  · exact hs.laneFetch

theorem Keeps.postStore {r : FragRef} {kind : PostKind} {a : Acc} {bytes : SMap Byte} {replay : Bool}
    {pkr : W64} (hs : Keeps s₀ s) : Keeps s₀ (postStore s r kind a bytes replay pkr) := by
  unfold Machine.postStore
  dsimp only
  split
  · exact hs.dropCopies.upd
  · exact Keeps.ite hs.dropCopies.fresh.upd.modFrag hs.dropCopies.fresh.upd

theorem Keeps.postSingle {kind : PostKind} {a : Acc} {bytes : SMap Byte} {replay : Bool} {pkr : W64}
    {xid : Option Nat} (hs : Keeps s₀ s) :
    Keeps s₀ (postSingle s kind a bytes replay pkr xid) :=
  (Keeps.ite hs.dropCopies hs.dropCopies.tickClock).fresh.upd

theorem Keeps.routeAt {die line asid who shown : Nat} {e : SliceEntry} (hs : Keeps s₀ s) :
    Keeps s₀ (routeAt s die line asid who shown e).2 := Keeps.ite hs.logViolation hs

theorem Keeps.sendPosted {p : Posted} {m pa : Nat} (hs : Keeps s₀ s) : Keeps s₀ (sendPosted s p m pa) := by
  unfold Machine.sendPosted
  split
  · exact hs.sendPeer
  · exact hs.sendPeer
  · exact hs.foldl Keeps.sendPeer
  · exact hs.sendWrite

theorem Keeps.unlane {id : Nat} (hs : Keeps s₀ s) : Keeps s₀ (unlane s id) := by
  unfold Machine.unlane
  split
  · exact hs
  · exact (hs.foldl fun ht => ht.fresh.upd).upd

theorem Keeps.walkFetch {f : Fetch} (hs : Keeps s₀ s) : Keeps s₀ (walkFetch s f) := by
  unfold Machine.walkFetch
  extract_lets
  split
  next e =>
  have h₁ := (Keeps.iteSnd hs.translateAnew hs.translate).snd e
  split
  · exact h₁.upd.logAll
  · refine Keeps.ite h₁.upd.logDenied ?_
    split
    · exact (h₁.routeAt.snd ‹_›).upd.logAll
    · next e =>
      have h₂ := h₁.routeAt.snd e
      extract_lets
      split
      · exact Keeps.ite hs (.ite h₂.upd.unlane.sendRead hs)
      · exact Keeps.ite hs h₂.upd.unlane
      · exact h₂.upd

theorem Keeps.walkPosted {p : Posted} (hs : Keeps s₀ s) : Keeps s₀ (walkPosted s p) := by
  unfold Machine.walkPosted
  extract_lets
  split
  next e =>
  have h₁ := (Keeps.iteSnd hs.translateAnew hs.translate).snd e
  split
  · exact Keeps.ite h₁.upd.killGroup h₁.upd.logAll
  · refine Keeps.ite h₁.upd.killGroup (.ite h₁.upd.logDenied ?_)
    split
    · next e =>
      have h₃ := h₁.routeAt.snd e
      exact Keeps.ite h₃.upd.killGroup h₃.upd.logAll
    · next e =>
      have h₂ := h₁.routeAt.snd e
      extract_lets
      split
      · exact h₂.upd
      · exact Keeps.ite h₂.upd (.ite h₂.upd.sendPosted hs)
      · exact Keeps.ite h₂.upd (.ite hs h₂.upd)

theorem Keeps.execTranslationWalk {id : Nat} (hs : Keeps s₀ s) : Keeps.Out s₀ (execTranslationWalk id s) := by
  unfold Machine.execTranslationWalk
  split
  · exact hs.walkFetch
  · split
    · exact hs.walkPosted
    · split
      · exact hs
      · exact hs.translate.upd

theorem Keeps.execAtlbFill {id : Nat} (hs : Keeps s₀ s) : Keeps.Out s₀ (execAtlbFill id s) := by
  unfold Machine.execAtlbFill
  split
  · exact hs
  · split
    · exact hs
    · exact hs.upd.setCore

theorem Keeps.bufferLine {c asid line : Nat} {bytes : List Byte} {poison : BitVec 8} (hs : Keeps s₀ s) :
    Keeps s₀ (bufferLine s c asid line bytes poison) := hs.setCore

theorem Keeps.fillL1 {f : Fetch} {x : Brought} (hs : Keeps s₀ s) : Keeps s₀ (fillL1 s f x) := .ite hs hs.setL1

theorem Keeps.laneArrives {f : Fetch} {old : Option Nat} (hs : Keeps s₀ s) :
    Keeps s₀ (laneArrives s f old) := by
  unfold Machine.laneArrives
  refine Keeps.ite hs.upd.logAll (Keeps.foldl ?_ Keeps.serveAcc)
  split
  · exact Keeps.ite hs.upd.logAll.fresh hs.upd.logAll.fresh.upd
  · exact Keeps.ite hs.upd.logAll hs.upd.logAll.setL1

theorem Keeps.execHomeFetch {id : Nat} (hs : Keeps s₀ s) : Keeps.Out s₀ (execHomeFetch id s) := by
  unfold Machine.execHomeFetch
  split
  · exact hs
  split
  · extract_lets pl h waits s₁
    refine Keeps.Out.ite hs ?_
    split
    extract_lets s₂ bytes tags poison x s₃ g s₄ s₅
    have h₂ : Keeps s₀ s₂ := hs.mscUse.upd
    have h₃ : Keeps s₀ s₃ := .ite h₂ h₂.setL2
    have h₅ : Keeps s₀ s₅ := h₃.fillL1.upd
    exact Keeps.Out.ite
      (Keeps.ite h₃.laneArrives h₃.upd)
      (.ite (Keeps.ite h₅ h₅.bufferLine) (h₅.foldl Keeps.serveAcc))
  · exact hs

theorem Keeps.l2Arrives {f : Fetch} (hs : Keeps s₀ s) : Keeps s₀ (l2Arrives s f) :=
  hs.upd.fillL1.foldl Keeps.serveAcc

theorem Keeps.execPrivateSectorArrival {id : Nat} (hs : Keeps s₀ s) :
    Keeps.Out s₀ (execPrivateSectorArrival id s) := by
  unfold Machine.execPrivateSectorArrival
  split
  · exact hs
  · exact hs.laneArrives

theorem Keeps.raiseMarks {accs : List Acc} {t : Nat} (hs : Keeps s₀ s) : Keeps s₀ (raiseMarks s accs t) :=
  hs.foldl Keeps.modGroup

theorem Keeps.execPostedArrival {id : Nat} (hs : Keeps s₀ s) : Keeps.Out s₀ (execPostedArrival id s) := by
  unfold Machine.execPostedArrival
  split
  · exact hs
  · extract_lets
    split
    · exact Keeps.Out.ite hs (.ite hs.upd.logAll hs.upd.logAll.arriveHint.raiseMarks)
    · exact Keeps.Out.ite hs (.ite hs.upd.logAll hs.upd.logAll.arriveHint.raiseMarks)
    · exact Keeps.Out.ite hs (.ite hs.upd.logAll hs.upd.logAll.arriveHint.raiseMarks)
    · exact Keeps.Out.ite hs (.ite hs.upd.logAll hs.upd.logAll.arriveHint.raiseMarks)
    · exact hs

theorem Keeps.makeVisible {pl : Nat} {p : Pend} (hs : Keeps s₀ s) : Keeps s₀ (makeVisible s pl p) := by
  unfold Machine.makeVisible
  extract_lets covered s₁ s₂ s₃ h
  have h₁ : Keeps s₀ s₁ := ⟨fun h => Memory.wf_writeMap _ _ _ (hs.mem h), hs.loc⟩
  clear_value s₁
  have h₂ : Keeps s₀ s₂ := by
    dsimp only [s₂]
    split
    · exact h₁.sendAck
    · exact h₁
  clear_value s₂
  have h₃ : Keeps s₀ s₃ := by
    dsimp only [s₃]
    split
    · exact h₂.modDie
    · exact h₂
  clear_value s₃
  split
  · refine .ite ?_ h₃
    split
    exact h₃.upd.setL2
  · exact h₃

theorem Keeps.execStoreVisible {line : Nat} (hs : Keeps s₀ s) : Keeps.Out s₀ (execStoreVisible line s) := by
  unfold Machine.execStoreVisible
  split
  · exact hs
  · split
    · exact Keeps.Out.ite hs.makeVisible hs
    · exact hs

theorem Keeps.execLeaseExpiry {level unit_ asid line : Nat} (hs : Keeps s₀ s) :
    Keeps.Out s₀ (execLeaseExpiry level unit_ asid line s) := Keeps.ite hs.setCore hs.modDie

theorem Keeps.atomicResult {a : Acc} {old : Nat} {poison : Bool} (hs : Keeps s₀ s) :
    Keeps s₀ (atomicResult s a old poison) := by
  unfold Machine.atomicResult
  split
  · exact hs
  · exact hs.addFill

theorem Keeps.homeClock {d carried c h : Nat} (hs : Keeps s₀ s) : Keeps s₀ (homeClock s d carried c h) :=
  hs.modDie.receiveClock

theorem Keeps.homeEvent {d pl : Nat} {a : Acc} (hs : Keeps s₀ s) : Keeps s₀ (homeEvent s d pl a) :=
  hs.cmEvent.setStrand

theorem Keeps.execAtomicArrival {id : Nat} (hs : Keeps s₀ s) : Keeps.Out s₀ (execAtomicArrival id s) := by
  unfold Machine.execAtomicArrival
  split
  · exact hs
  · split
    · exact Keeps.Out.ite hs (.ite hs.upd.logAccess hs.upd.homeEvent.arriveAt.homeClock.raiseMarks.atomicResult)
    · exact hs

theorem Keeps.dequeResult {a : Acc} {value status : Nat} {vbad sbad : Bool} (hs : Keeps s₀ s) :
    Keeps s₀ (dequeResult s a value status vbad sbad) := by
  unfold Machine.dequeResult
  extract_lets
  split
  · exact hs.addFill
  · exact hs.addFill.addFill

theorem Keeps.dequeElement {d asid who : Nat} {pkr : W64} {ws : List Nat} {i : Nat} {write : Bool}
    (hs : Keeps s₀ s) : Keeps s₀ (dequeElement s d asid who pkr ws i write).2 := by
  unfold Machine.dequeElement
  refine Keeps.iteSnd hs ?_
  split
  next e =>
  have h₁ := hs.translate.snd e
  split
  · exact h₁
  · refine Keeps.iteSnd h₁.logViolation ?_
    split
    · next e =>
      have h₂ := h₁.routeAt.snd e
      exact Keeps.iteSnd h₂ h₂
    · exact h₁.routeAt.snd ‹_›
    · exact h₁.routeAt.snd ‹_›
    · exact h₁.routeAt.snd ‹_›

theorem Keeps.dequeEnd {pl : Nat} {p : Posted} {a : Acc} {bytes : SMap Byte} {value status : Nat} {vbad : Bool}
    (hs : Keeps s₀ s) :
    Keeps s₀ (dequeEnd s pl p a bytes value status vbad) := hs.arriveAt.raiseMarks.homeClock.dequeResult

theorem Keeps.homeSends {d : Nat} (hs : Keeps s₀ s) : Keeps s₀ (homeSends s d).2 := by
  unfold Machine.homeSends
  dsimp only
  exact hs.modDie

theorem Keeps.answerAtomic {m seq d status n value : Nat} (hs : Keeps s₀ s) :
    Keeps s₀ (answerAtomic s m seq d status n value) := hs.homeSends.sendPeer

theorem Keeps.dequeFinish {p : Posted} {value : Nat} (hs : Keeps s₀ s) : Keeps s₀ (dequeFinish s p value) := by
  unfold Machine.dequeFinish
  split
  · extract_lets
    split
    · exact hs.upd.dequeEnd
    · exact Keeps.ite hs.upd.arriveAt.answerAtomic hs.upd.arriveAt
  · exact hs.upd

theorem Keeps.dequeLocal {k : AccKind} {ea data : Nat} (hs : Keeps s₀ s) :
    Keeps s₀ (dequeLocal s k ea data).2 := by
  unfold Machine.dequeLocal
  split
  · exact hs.arriveAt
  · dsimp only
    exact hs.mscUse

theorem Keeps.execDequeAtHome {id : Nat} (hs : Keeps s₀ s) : Keeps.Out s₀ (execDequeAtHome id s) := by
  unfold Machine.execDequeAtHome
  split
  · exact hs
  · split
    · extract_lets pl d s₁ s₂ off ws
      have h₂ : Keeps s₀ s₂ := hs.upd.homeEvent
      refine Keeps.Out.ite hs (.ite hs.upd.logAccess ?_)
      clear_value s₂
      split
      · exact h₂.dequeEnd
      · split
        · next e => exact (h₂.dequeElement.snd e).logAccess
        · next e =>
          split
          exact ((h₂.dequeElement.snd e).dequeLocal.snd ‹_›).dequeEnd
        · next e =>
          have h₃ := h₂.dequeElement.snd e
          split
          · exact Keeps.ite h₃.upd.sendPeer h₃.upd.sendRead
          · exact h₃.upd
    · exact hs

theorem Keeps.writebackMsc {pl : Nat} (hs : Keeps s₀ s) : Keeps s₀ (writebackMsc s pl) :=
  .ite hs (.ite hs.upd.bumpDie hs.upd.bumpDie.arriveAt)

theorem Keeps.execMscWriteback {line : Nat} (hs : Keeps s₀ s) : Keeps.Out s₀ (execMscWriteback line s) :=
  hs.writebackMsc

theorem Keeps.wakeParked {c h : Nat} (hs : Keeps s₀ s) : Keeps s₀ (wakeParked s c h) := by
  unfold Machine.wakeParked
  exact hs.modGroup

theorem Keeps.fillRegs {f : Fill} (hs : Keeps s₀ s) : Keeps s₀ (fillRegs s f) := .ite hs.setGroup hs.setTeam

theorem Keeps.execRegisterFill {id : Nat} (hs : Keeps s₀ s) : Keeps.Out s₀ (execRegisterFill id s) := by
  unfold Machine.execRegisterFill
  split
  · split
    · exact hs.l2Arrives
    · exact hs
  · exact Keeps.Out.ite hs (hs.upd.fillRegs.foldl Keeps.wakeParked)

/-! ## What an instruction waits for -/

theorem Keeps.parkAtStart {r : FragRef} {w : Wait} (hs : Keeps s₀ s) : Keeps s₀ (parkAtStart s r w) :=
  hs.upd.modFrag

theorem Keeps.acquireGate {k : FragRef → State → State} (hs : Keeps s₀ s)
    (hk : ∀ {r s}, Keeps s₀ s → Keeps s₀ (k r s)) : Keeps s₀ (acquireGate s k) := by
  unfold Machine.acquireGate
  split
  · exact hs
  · exact Keeps.ite hs.parkAtStart (hk hs.modFrag)

theorem Keeps.releaseGate {i : Instr} {order : BitVec 2} {obs : BitVec 6} {active : State → FragRef → Bool}
    {k : State → State} {r : FragRef} (hs : Keeps s₀ s) (hk : ∀ {s}, Keeps s₀ s → Keeps s₀ (k s)) :
    Keeps s₀ (releaseGate i order obs active k r s) := .ite (hk hs) (.ite (hk hs.modFrag) hs.beginPass.modFrag)

theorem Keeps.raiseCounter {c h cls id : Nat} (hs : Keeps s₀ s) : Keeps s₀ (raiseCounter s c h cls id) :=
  hs.modGroup

theorem Keeps.lowerCounter {c h cls id clk : Nat} (hs : Keeps s₀ s) :
    Keeps s₀ (lowerCounter s c h cls id clk) := .ite hs.setGroup (hs.setGroup.foldl Keeps.receiveClock)

/-! ## Loads and stores -/

theorem Keeps.formAddr {r : FragRef} {slot : Nat} {f : FmtM} {indexed : Bool} {more : List SrcReg}
    (hs : Keeps s₀ s) : Keeps.Inl s₀ (formAddr s r slot f indexed more) := by
  unfold Machine.formAddr
  extract_lets
  split
  · exact trivial
  · exact hs.readAll

theorem Keeps.wakeGroup {gc gh c ti : Nat} {grans : List Nat} (hs : Keeps s₀ s) :
    Keeps s₀ (wakeGroup s gc gh c ti grans) := by
  unfold Machine.wakeGroup
  extract_lets t g now at_ offOf woken pieces note slot s₁ s₂ s₃
  have hnote {s slot off pc e} (hs : Keeps s₀ s) : Keeps s₀ (note s slot off pc e) := hs.receiveClock.emitTraceAt
  have h₂ : Keeps s₀ s₂ := (hs.foldl hnote).foldl hnote
  exact .ite h₂ (h₂.modGroup.foldl Keeps.settleAt)

theorem Keeps.wakeClasps {c ti : Nat} {grans : List Nat} (hs : Keeps s₀ s) :
    Keeps s₀ (wakeClasps s c ti grans) := hs.foldl fun ht => ht.foldl Keeps.wakeGroup

theorem putLocal_wf {m : SMap Byte} {off : Nat} {l : List Byte} (h : SMap.wf (0 : Byte) m = true) :
    SMap.wf (0 : Byte) (putLocal m off l) = true := by
  induction l generalizing m off with
  | nil => exact h
  | cons b r ih => exact ih (SMap.wf_put 0 m off b h)

theorem Keeps.localWrite {c ti off : Nat} {bytes : List Byte} {fill : Bool} (hs : Keeps s₀ s) :
    Keeps s₀ (localWrite s c ti off bytes fill) :=
  .ite hs (hs.putTeam (fun hl => putLocal_wf (hs.team hl))).wakeClasps

theorem Keeps.watchHit {c h space : Nat} {pieces : List (Nat × Nat × Nat)} {rd wr : Bool} (hs : Keeps s₀ s) :
    Keeps.Opt s₀ (watchHit s c h space pieces rd wr) := by
  unfold Machine.watchHit
  split
  · exact trivial
  · exact hs.setCore

theorem Keeps.pageCheck {r : FragRef} {va a : W64} {rd wr : Bool} {kind : AccKind} {grans : List Nat}
    (hs : Keeps s₀ s) : Keeps s₀ (pageCheck s r va a rd wr kind grans).1 := by
  unfold Machine.pageCheck
  extract_lets
  split
  · exact hs.tlbAsk
  · extract_lets
    split
    · exact hs.tlbTouch
    · exact Keeps.iteFst hs.tlbTouch
        (Keeps.iteFst hs.tlbTouch (Keeps.iteFst hs.tlbTouch (Keeps.iteFst hs.tlbTouch hs.tlbTouch)))

theorem Keeps.watched {r : FragRef} {slot space a n : Nat} {rd wr : Bool} (hs : Keeps s₀ s) :
    Keeps.Opt s₀ (watched s r slot space a n rd wr) := .ite trivial hs.watchHit

theorem Keeps.watchedLine {r : FragRef} {slot space a : Nat} {slots : List Nat} {rd wr : Bool} (hs : Keeps s₀ s) :
    Keeps.Opt s₀ (watchedLine s r slot space a slots rd wr) := .ite trivial hs.watchHit

theorem Keeps.watchedAs {r : FragRef} {slot space a n : Nat} {line : List Nat} {rd wr : Bool} (hs : Keeps s₀ s) :
    Keeps.Opt s₀ (watchedAs s r slot space a n line rd wr) := .ite hs.watched hs.watchedLine

theorem Keeps.privChecks {r : FragRef} {a : W64} {rd wr : Bool} {kind : AccKind} {l : List (W64 × Nat)}
    (hs : Keeps s₀ s) : Keeps s₀ (privChecks r a rd wr kind l s).1 := by
  induction l generalizing s with
  | nil => exact hs
  | cons p rest ih =>
    rw [Machine.privChecks]
    split
    · exact hs.pageCheck.fst ‹_›
    · split <;> exact (ih (hs.pageCheck.fst ‹_›)).fst ‹_›

theorem Keeps.checkAccess {r : FragRef} {slot : Nat} {space : Space} {a : W64} {n : Nat} {rd wr : Bool}
    {kind : AccKind} {grans line : List Nat} (hs : Keeps s₀ s) :
    Keeps s₀ (checkAccess s r slot space a n rd wr kind grans line).1 := by
  unfold Machine.checkAccess
  extract_lets g t sid an words hit
  split
  · refine Keeps.iteFst hs (Keeps.iteFst hs ?_)
    split
    · exact hs.watchedAs.some ‹_›
    · split <;> exact hs.pageCheck.fst ‹_›
  · refine Keeps.iteFst hs (Keeps.iteFst hs (Keeps.iteFst hs ?_))
    have hhit {t va} (e : hit = some (t, va)) : Keeps s₀ t := by
      obtain ⟨w, -, hw⟩ := List.exists_of_findSome?_eq_some e
      obtain ⟨t', ht', e'⟩ := Option.map_eq_some_iff.1 hw
      cases e'
      exact hs.watched.some ‹_›
    clear_value hit
    split
    · exact hhit rfl
    · split <;> exact hs.privChecks.fst ‹_›
  · split
    · exact hs
    · refine Keeps.iteFst hs ?_
      split
      · next e =>
        split at e
        · exact hs.watchedAs.some ‹_›
        · cases e
      · exact hs

theorem Keeps.accOf {r : FragRef} {i : Instr} {f : FmtM} {slot : Nat} {kind : AccKind} {a : W64}
    {size pos data : Nat} (hs : Keeps s₀ s) :
    Keeps s₀ (accOf s r i f slot kind a size pos data).2 := hs.fresh

theorem Keeps.noteAcquire {r : FragRef} {order : BitVec 2} {aid : Nat} (hs : Keeps s₀ s) :
    Keeps s₀ (noteAcquire s r order aid) := .ite hs.modFrag hs

theorem Keeps.destMark {r : FragRef} {slot : Nat} {u : Bool} {ns : List Nat} (hs : Keeps s₀ s) :
    Keeps s₀ (destMark s r slot u ns) := .ite hs.markK hs.markV

theorem Keeps.issuePriv {r : FragRef} {store : Bool} {pkr : W64} {p : Acc × Option PageLeaf} (hs : Keeps s₀ s) :
    Keeps s₀ (issuePriv r store pkr s p) :=
  .ite (.ite hs.postStore hs.issueLaneStore) (.ite hs.passRead hs.issueLaneRead)

theorem Keeps.gangSendAt {cycle : Nat} {r : FragRef} {a : Acc} {p : LocalAt} {what : GangWhat} (hs : Keeps s₀ s) :
    Keeps s₀ (gangSendAt cycle s r a p what) := hs.upd

theorem Keeps.gangSend {r : FragRef} {a : Acc} {p : LocalAt} {what : GangWhat} (hs : Keeps s₀ s) :
    Keeps s₀ (gangSend s r a p what) := hs.gangSendAt

theorem Keeps.localLoad {a : Acc} {c ti off : Nat} (hs : Keeps s₀ s) : Keeps.Res s₀ (localLoad s a c ti off) :=
  .ite hs hs.addFill

theorem Keeps.cleanGranules {c ti : Nat} {grans : List Nat} (hs : Keeps s₀ s) :
    Keeps s₀ (cleanGranules s c ti grans) := hs.setTeam

theorem Keeps.localStore {a : Acc} {c ti off : Nat} {fill : Bool} (hs : Keeps s₀ s) :
    Keeps s₀ (localStore s a c ti off fill) := by
  unfold Machine.localStore
  split
  · exact hs.localWrite.localWrite
  · exact hs.localWrite

theorem Keeps.loadBody {i : Instr} {f : FmtM} {fe clr : Bool} {r : FragRef} {slot : Nat} (hs : Keeps s₀ s) :
    Keeps.Res s₀ (loadBody i f fe clr r s slot) := by
  unfold Machine.loadBody
  extract_lets
  split
  · exact hs.awaitSources
  · next e =>
    have h₁ := hs.awaitSources.formAddr.inl e
    extract_lets
    split
    · exact h₁.checkAccess.fst ‹_›
    · next e =>
      have h₂ := h₁.checkAccess.fst e
      split
      · exact h₂
      · split
        next e =>
        have h₃ := h₂.accOf.snd e
        extract_lets
        split
        · refine Keeps.Res.ite (.ite h₃.gangSend.noteAcquire h₃.destMark.noteAcquire.gangSend) (.ite h₃ ?_)
          split
          · exact h₃.destMark.noteAcquire.localLoad.stop ‹_›
          · next e =>
            have h₄ := h₃.destMark.noteAcquire.localLoad.ok e
            exact Keeps.Res.ite h₄.switchRegion.setTeam h₄
        · split
          · exact h₃
          · exact h₃.destMark.noteAcquire.passRead
        · split
          · exact h₃
          · exact h₃.destMark.noteAcquire.foldl Keeps.issuePriv

theorem Keeps.storeBody {i : Instr} {f : FmtM} {fe : Bool} {r : FragRef} {slot : Nat} (hs : Keeps s₀ s) :
    Keeps.Res s₀ (storeBody i f fe r s slot) := by
  unfold Machine.storeBody
  extract_lets
  split
  · exact hs.awaitSources
  · next e =>
    have h₁ := hs.awaitSources.formAddr.inl e
    extract_lets
    split
    · exact h₁.checkAccess.fst ‹_›
    · next e =>
      have h₂ := h₁.checkAccess.fst e
      split
      · exact h₂
      · split
        next e =>
        have h₃ := h₂.readAll.snd e
        extract_lets
        split
        next e =>
        have h₄ := h₃.accOf.snd e
        split
        · exact Keeps.ite h₄.gangSend h₄.localStore
        · split
          · exact h₄
          · exact h₄.postStore
        · split
          · exact h₄
          · exact h₄.foldl Keeps.issuePriv

theorem Keeps.memPassAt {i : Instr} {w : Nat} {f : FmtM} {body : FragRef → State → Nat → StrandRes}
    (hs : Keeps s₀ s) (hbody : ∀ {r s sl}, Keeps s₀ s → Keeps.Res s₀ (body r s sl)) :
    Keeps.Out s₀ (memPassAt i w f body s) :=
  hs.acquireGate fun ht =>
    ht.releaseGate fun hu => Keeps.ite (hu.uniformPass hbody Keeps.advance) (hu.strandPass hbody Keeps.advance)

theorem Keeps.memPass {i : Instr} {op : Nat} {f : FmtM} {body : FragRef → State → Nat → StrandRes}
    (hs : Keeps s₀ s) (hbody : ∀ {r s sl}, Keeps s₀ s → Keeps.Res s₀ (body r s sl)) :
    Keeps.Out s₀ (memPass i op f body s) := hs.memPassAt hbody

theorem Keeps.execLd {f : FmtM} (hs : Keeps s₀ s) : Keeps.Out s₀ (execLd f s) := hs.memPass Keeps.loadBody

theorem Keeps.execSt {f : FmtM} (hs : Keeps s₀ s) : Keeps.Out s₀ (execSt f s) := hs.memPass Keeps.storeBody

theorem Keeps.execLdf {f : FmtM} (hs : Keeps s₀ s) : Keeps.Out s₀ (execLdf f s) := hs.memPass Keeps.loadBody

theorem Keeps.execStf {f : FmtM} (hs : Keeps s₀ s) : Keeps.Out s₀ (execStf f s) := hs.memPass Keeps.storeBody

theorem Keeps.lineAddr {r : FragRef} {slot : Nat} {f : FmtM} {store : Bool} {more : List SrcReg}
    (hs : Keeps s₀ s) : Keeps s₀ (lineAddr s r slot f store more).1 := by
  unfold Machine.lineAddr
  extract_lets
  split
  · refine Keeps.iteFst hs ?_
    split
    · exact hs.pageCheck.fst ‹_›
    · dsimp only
      exact (hs.pageCheck.fst ‹_›).modFrag
  · split
    · exact hs.awaitSources
    · next e =>
      have h₁ := hs.awaitSources.formAddr.inl e
      split
      · exact h₁.checkAccess.fst ‹_›
      · dsimp only
        exact (h₁.checkAccess.fst ‹_›).modFrag

theorem Keeps.keepDone {r : FragRef} {slot : Nat} {ws : List W64} (hs : Keeps s₀ s) :
    Keeps s₀ (keepDone s r slot ws) := hs.modFrag

theorem Keeps.ldlineBody {f : FmtM} {r : FragRef} {slot : Nat} (hs : Keeps s₀ s) :
    Keeps.Res s₀ (ldlineBody f r s slot) := by
  unfold Machine.ldlineBody
  split
  · exact hs.lineAddr.fst ‹_›
  · next e =>
    have h₁ := hs.lineAddr.fst e
    extract_lets
    split
    · exact h₁
    · exact Keeps.Res.ite h₁ (.ite h₁ h₁.markV.keepDone)

theorem Keeps.ldlineEnd {i : Instr} {f : FmtM} {r : FragRef} (hs : Keeps s₀ s) :
    Keeps s₀ (ldlineEnd i f s r) := by
  unfold Machine.ldlineEnd
  extract_lets k pkr pos
  split
  · exact hs.advance
  · extract_lets one s₁ opened
    have hone {s slot} (hs : Keeps s₀ s) : Keeps s₀ (one s slot) := by
      unfold one
      split
      next e =>
      have h₁ := hs.accOf.snd e
      extract_lets
      split
      · exact h₁.noteAcquire.passRead
      · exact Keeps.ite h₁.noteAcquire.gangSendAt h₁.noteAcquire.addFill
      · exact h₁.noteAcquire
    have h₁ : Keeps s₀ s₁ := hs.foldl hone
    split
    extract_lets s₂ bad
    have h₂ : Keeps s₀ s₂ := h₁.upd
    exact .ite h₂.killGroup h₂.advance

theorem Keeps.execLdline {f : FmtM} (hs : Keeps s₀ s) : Keeps.Out s₀ (execLdline f s) :=
  hs.acquireGate fun ht => ht.releaseGate fun hu => hu.strandPass Keeps.ldlineBody Keeps.ldlineEnd

theorem Keeps.stlineBody {f : FmtM} {r : FragRef} {slot : Nat} (hs : Keeps s₀ s) :
    Keeps.Res s₀ (stlineBody f r s slot) := by
  unfold Machine.stlineBody
  extract_lets
  split
  · exact hs.lineAddr.fst ‹_›
  · next e =>
    have h₁ := hs.lineAddr.fst e
    extract_lets
    split
    · exact h₁
    · dsimp only
      exact Keeps.Res.ite h₁ (.ite h₁ h₁.readAll.keepDone)

theorem Keeps.stlineEnd {i : Instr} {f : FmtM} {r : FragRef} (hs : Keeps s₀ s) :
    Keeps s₀ (stlineEnd i f s r) := by
  unfold Machine.stlineEnd
  extract_lets k pkr pos
  split
  · exact hs.advance
  · extract_lets one s₁ s₂
    have hone {s w} (hs : Keeps s₀ s) : Keeps s₀ (one s w) := by
      unfold one
      split
      next e =>
      have h₁ := hs.accOf.snd e
      split
      · exact h₁.postStore
      · exact Keeps.ite h₁.gangSendAt h₁.localStore
      · exact h₁
    have h₁ : Keeps s₀ s₁ := hs.foldl hone
    have h₂ : Keeps s₀ s₂ := by
      unfold s₂
      split
      · exact h₁
      · exact h₁
      · extract_lets
        refine .ite h₁.cleanGranules ?_
        split
        next e => exact (h₁.accOf.snd e).gangSendAt
    exact h₂.advance

theorem Keeps.execStline {f : FmtM} (hs : Keeps s₀ s) : Keeps.Out s₀ (execStline f s) :=
  hs.acquireGate fun ht => ht.releaseGate fun hu => hu.strandPass Keeps.stlineBody Keeps.stlineEnd

theorem Keeps.prefLeaf {r : FragRef} {a : W64} (hs : Keeps s₀ s) : Keeps s₀ (prefLeaf s r a).1 := by
  unfold Machine.prefLeaf
  refine Keeps.iteFst hs ?_
  split
  · exact hs
  · exact hs.tlbTouch

theorem Keeps.prefSector {r : FragRef} {f : FmtM} {asid : Nat} {a : W64} {tagc : Bool} {i : Nat}
    (hs : Keeps s₀ s) : Keeps s₀ (prefSector r f asid a tagc s i) := by
  unfold Machine.prefSector
  refine Keeps.ite hs ?_
  split
  · exact hs.upd
  · exact Keeps.ite hs (.ite hs (Keeps.ite hs hs.bumpDie).openFetch)

theorem Keeps.prefBody {f : FmtM} {r : FragRef} {slot : Nat} (hs : Keeps s₀ s) :
    Keeps.Res s₀ (prefBody f r s slot) := by
  unfold Machine.prefBody
  extract_lets
  split
  · exact hs.awaitSources
  · exact hs.awaitSources
  · next e =>
    have h₁ := hs.awaitSources.formAddr.inl e
    split
    · exact h₁.prefLeaf.fst ‹_›
    · exact (h₁.prefLeaf.fst ‹_›).foldl Keeps.prefSector

theorem Keeps.execPref {f : FmtM} (hs : Keeps s₀ s) : Keeps.Out s₀ (execPref f s) := hs.memPass Keeps.prefBody

theorem Keeps.tagstBody {i : Instr} {f : FmtM} {r : FragRef} {slot : Nat} (hs : Keeps s₀ s) :
    Keeps.Res s₀ (tagstBody i f r s slot) := by
  unfold Machine.tagstBody
  extract_lets
  split
  · exact hs.awaitSources
  · next e =>
    have h₁ := hs.awaitSources.formAddr.inl e
    split
    · exact h₁.checkAccess.fst ‹_›
    · next e =>
      have h₂ := h₁.checkAccess.fst e
      extract_lets
      dsimp only
      exact Keeps.Res.ite h₂.accOf (.ite h₂.accOf h₂.accOf.postSingle)

theorem Keeps.execTagst {f : FmtM} (hs : Keeps s₀ s) : Keeps.Out s₀ (execTagst f s) :=
  hs.memPass Keeps.tagstBody

theorem Keeps.tagldBody {i : Instr} {f : FmtM} {r : FragRef} {slot : Nat} (hs : Keeps s₀ s) :
    Keeps.Res s₀ (tagldBody i f r s slot) := by
  unfold Machine.tagldBody
  extract_lets
  split
  · exact hs.awaitSources
  · next e =>
    have h₁ := hs.awaitSources.formAddr.inl e
    split
    · exact h₁.checkAccess.fst ‹_›
    · next e =>
      have h₂ := h₁.checkAccess.fst e
      extract_lets
      split
      · exact h₂
      · split
        next e =>
        have h₃ := h₂.accOf.snd e
        split
        · exact h₃
        · exact h₃.destMark.passRead

theorem Keeps.execTagld {f : FmtM} (hs : Keeps s₀ s) : Keeps.Out s₀ (execTagld f s) :=
  hs.memPass Keeps.tagldBody

end Sys2Proof.Machine
end

section
namespace Sys2Proof.Machine
variable {s₀ s t : State}

/-! ## Atomics and deques -/

theorem Keeps.remotePass {r : FragRef} (hs : Keeps s₀ s) : Keeps.Inl s₀ (remotePass s r) := by
  unfold Machine.remotePass
  split
  · exact hs
  · split
    · exact trivial
    · exact hs.fresh.raiseCounter.modFrag

theorem Keeps.remoteDone {c h id : Nat} (hs : Keeps s₀ s) : Keeps s₀ (remoteDone s c h id) :=
  .ite hs hs.lowerCounter

theorem Keeps.localAtomic {c ti off : Nat} {acc : Acc} (hs : Keeps s₀ s) :
    Keeps.Res s₀ (localAtomic s c ti off acc) := .ite hs hs.localWrite.atomicResult

theorem Keeps.atomicBody {i : Instr} {op : Nat} {f : FmtM} {r : FragRef} {slot : Nat} (hs : Keeps s₀ s) :
    Keeps.Res s₀ (atomicBody i op f r s slot) := by
  unfold Machine.atomicBody
  extract_lets
  split
  · exact hs.awaitSources
  · next e =>
    have h₁ := hs.awaitSources.formAddr.inl e
    extract_lets
    split
    · exact h₁.checkAccess.fst ‹_›
    · next e =>
      have h₂ := h₁.checkAccess.fst e
      split
      · exact h₂
      · split
        next e =>
        have h₃ := h₂.readAll.snd e
        extract_lets
        split
        next e =>
        have h₄ := h₃.accOf.snd e
        split
        · exact Keeps.Res.ite
            h₄.switchRegion.destMark.noteAcquire.gangSend
            h₄.switchRegion.destMark.noteAcquire.localAtomic
        · exact h₄
        · refine Keeps.Res.ite h₄ (.ite ?_ h₄.switchRegion.destMark.noteAcquire.postSingle)
          split
          · exact h₄
          · exact (h₄.remotePass.inl ‹_›).switchRegion.destMark.noteAcquire.postSingle

theorem Keeps.atomicEnd {i : Instr} {r : FragRef} (hs : Keeps s₀ s) : Keeps s₀ (atomicEnd i s r) := by
  unfold Machine.atomicEnd
  split
  · exact hs.advance
  · exact hs.modFrag.remoteDone.advance

theorem Keeps.atomicPass {i : Instr} {op : Nat} {f : FmtM} {body : FragRef → State → Nat → StrandRes}
    (hs : Keeps s₀ s) (hbody : ∀ {r s sl}, Keeps s₀ s → Keeps.Res s₀ (body r s sl)) :
    Keeps.Out s₀ (atomicPass i op f body s) :=
  hs.acquireGate fun ht =>
    ht.releaseGate fun hu =>
      Keeps.ite (hu.uniformPass hbody Keeps.atomicEnd) (hu.strandPass hbody Keeps.atomicEnd)

theorem Keeps.execAadd {f : FmtM} (hs : Keeps s₀ s) : Keeps.Out s₀ (execAadd f s) :=
  hs.atomicPass Keeps.atomicBody

theorem Keeps.execAmin {f : FmtM} (hs : Keeps s₀ s) : Keeps.Out s₀ (execAmin f s) :=
  hs.atomicPass Keeps.atomicBody

theorem Keeps.execAmax {f : FmtM} (hs : Keeps s₀ s) : Keeps.Out s₀ (execAmax f s) :=
  hs.atomicPass Keeps.atomicBody

theorem Keeps.execAand {f : FmtM} (hs : Keeps s₀ s) : Keeps.Out s₀ (execAand f s) :=
  hs.atomicPass Keeps.atomicBody

theorem Keeps.execAor {f : FmtM} (hs : Keeps s₀ s) : Keeps.Out s₀ (execAor f s) :=
  hs.atomicPass Keeps.atomicBody

theorem Keeps.execAxor {f : FmtM} (hs : Keeps s₀ s) : Keeps.Out s₀ (execAxor f s) :=
  hs.atomicPass Keeps.atomicBody

theorem Keeps.execAswp {f : FmtM} (hs : Keeps s₀ s) : Keeps.Out s₀ (execAswp f s) :=
  hs.atomicPass Keeps.atomicBody

theorem Keeps.execAcas {f : FmtM} (hs : Keeps s₀ s) : Keeps.Out s₀ (execAcas f s) :=
  hs.atomicPass Keeps.atomicBody

theorem Keeps.execAfadd {f : FmtM} (hs : Keeps s₀ s) : Keeps.Out s₀ (execAfadd f s) :=
  hs.atomicPass Keeps.atomicBody

theorem Keeps.execAinc {f : FmtM} (hs : Keeps s₀ s) : Keeps.Out s₀ (execAinc f s) :=
  hs.atomicPass Keeps.atomicBody

theorem Keeps.dequeBody {i : Instr} {kind : AccKind} {f : FmtM} {r : FragRef} {slot : Nat} (hs : Keeps s₀ s) :
    Keeps.Res s₀ (dequeBody i kind f r s slot) := by
  unfold Machine.dequeBody
  extract_lets
  split
  · exact hs.awaitSources
  · next e =>
    have h₁ := hs.awaitSources.formAddr.inl e
    extract_lets
    split
    · exact h₁.checkAccess.fst ‹_›
    · next e =>
      have h₂ := h₁.checkAccess.fst e
      extract_lets
      split
      · exact h₂
      · dsimp only
        exact Keeps.Res.ite h₂ h₂.readAll.accOf.switchRegion.destMark.noteAcquire.postSingle

theorem Keeps.dequePass {i : Instr} {op : Nat} {kind : AccKind} {f : FmtM} (hs : Keeps s₀ s) :
    Keeps.Out s₀ (dequePass i op kind f s) := hs.memPassAt Keeps.dequeBody

theorem Keeps.execDqpush {f : FmtM} (hs : Keeps s₀ s) : Keeps.Out s₀ (execDqpush f s) := hs.dequePass

theorem Keeps.execDqpop {f : FmtM} (hs : Keeps s₀ s) : Keeps.Out s₀ (execDqpop f s) := hs.dequePass

theorem Keeps.execDqsteal {f : FmtM} (hs : Keeps s₀ s) : Keeps.Out s₀ (execDqsteal f s) := hs.dequePass

/-! ## Fences, barriers and clasps -/

theorem Keeps.blockOn {r : FragRef} {w : Wait} (hs : Keeps s₀ s) : Keeps s₀ (blockOn s r w) := hs.leaveLane

theorem Keeps.execFence {f : FmtM} (hs : Keeps s₀ s) : Keeps.Out s₀ (execFence f s) :=
  hs.acquireGate fun ht => ht.uniformPass Keeps.switchRegion fun hu => Keeps.ite hu.advance hu.blockOn

theorem Keeps.execWaitc {f : FmtA} {n : Byte} (hs : Keeps s₀ s) : Keeps.Out s₀ (execWaitc f n s) :=
  hs.uniformPass (fun ht => ht) fun ht => Keeps.ite ht.advance ht.blockOn

theorem Keeps.arriveAll {r : FragRef} {b : Nat} (hs : Keeps s₀ s) : Keeps s₀ (arriveAll s r b) :=
  hs.tickClock.arriveBarrier

theorem Keeps.execBar {f : FmtA} (hs : Keeps s₀ s) : Keeps.Out s₀ (execBar f s) := by
  unfold Machine.execBar
  refine hs.uniformPass (fun ht => ?_) fun ht => ht.blockOn.arriveAll
  split
  · exact ht
  · exact ht.switchRegion

theorem Keeps.execBara {f : FmtA} (hs : Keeps s₀ s) : Keeps.Out s₀ (execBara f s) := by
  unfold Machine.execBara
  refine hs.uniformPass (fun ht => ?_) fun ht => ht.arriveAll.advance
  split
  · exact ht
  · exact ht.switchRegion.writeK

theorem Keeps.execBarw {f : FmtA} (hs : Keeps s₀ s) : Keeps.Out s₀ (execBarw f s) := by
  unfold Machine.execBarw
  refine hs.uniformPass (fun ht => ?_) fun ht =>
    Keeps.ite
      (Keeps.ite ht.receiveClock.emitTrace.fillLater ht.receiveClock.emitTrace.writeK).advance ht.blockOn
  extract_lets
  split
  · exact ht.awaitSources
  · dsimp only
    exact (Keeps.ite ht.awaitSources.switchRegion ht.awaitSources).readSource.modFrag

theorem Keeps.updateClasp {c ti off clk : Nat} {u : Clasp → Clasp} (hs : Keeps s₀ s) :
    Keeps s₀ (updateClasp s c ti off clk u) := hs.setTeam.localWrite

theorem Keeps.claspBody {i : Instr} {f : FmtM} {rd wr res : Bool}
    {act : FragRef → State → Nat → LocalAt → Acc → StrandRes} {r : FragRef} {slot : Nat} (hs : Keeps s₀ s)
    (hact : ∀ {r s sl x a}, Keeps s₀ s → Keeps.Res s₀ (act r s sl x a)) :
    Keeps.Res s₀ (claspBody i f rd wr res act r s slot) := by
  unfold Machine.claspBody
  extract_lets
  split
  · exact hs.awaitSources
  · next e =>
    have h₁ := hs.awaitSources.formAddr.inl e
    split
    · exact h₁.checkAccess.fst ‹_›
    · next e =>
      have h₂ := h₁.checkAccess.fst e
      split
      · exact h₂
      · dsimp only
        exact hact h₂.readAll.accOf
    · exact h₁.checkAccess.fst ‹_›

theorem Keeps.initClasp {c ti off clk : Nat} {x : W64} (hs : Keeps s₀ s) :
    Keeps s₀ (initClasp s c ti off clk x) := hs.setTeam.localWrite

theorem Keeps.execClinit {f : FmtM} (hs : Keeps s₀ s) : Keeps.Out s₀ (execClinit f s) :=
  hs.memPass fun ht =>
    ht.claspBody fun hu => Keeps.ite hu.switchRegion.tickClock.gangSend hu.switchRegion.tickClock.initClasp

theorem Keeps.execClarr {f : FmtM} (hs : Keeps s₀ s) : Keeps.Out s₀ (execClarr f s) :=
  hs.memPass fun ht =>
    ht.claspBody fun hu =>
      Keeps.Res.ite hu (Keeps.ite hu.switchRegion.tickClock.gangSend hu.switchRegion.tickClock.updateClasp)

theorem Keeps.claspWait {r : FragRef} {a : Acc} {c ti off cycle : Nat} {ph : Bool} (hs : Keeps s₀ s) :
    Keeps s₀ (claspWait s r a c ti off cycle ph).1 := Keeps.ite hs.chargeAt.bumpCount hs

theorem Keeps.execClwait {f : FmtM} (hs : Keeps s₀ s) : Keeps.Out s₀ (execClwait f s) := by
  unfold Machine.execClwait
  dsimp only
  exact hs.memPass fun ht =>
    ht.claspBody fun hu => Keeps.Res.ite hu.gangSend (.ite hu (.ite hu.receiveClock hu.claspWait))

theorem Keeps.resultDue {a : Acc} {cycle : Nat} (hs : Keeps s₀ s) : Keeps s₀ (resultDue s a cycle) :=
  hs.fresh.upd

theorem Keeps.execCltry {f : FmtM} (hs : Keeps s₀ s) : Keeps.Out s₀ (execCltry f s) :=
  hs.memPass fun ht =>
    ht.claspBody fun hu =>
      Keeps.Res.ite
        hu.noteAcquire.destMark.gangSend
        (.ite hu.noteAcquire (Keeps.ite hu.noteAcquire.resultDue.writeKAt hu.noteAcquire.resultDue.writeVsAt))

theorem Keeps.holdDone {x : GangAcc} {w : Nat} (hs : Keeps s₀ s) : Keeps s₀ (holdDone s x w) := by
  unfold Machine.holdDone
  exact hs.chargeAt.modFrag

theorem Keeps.holdParks {x : GangAcc} {w : Wait} (hs : Keeps s₀ s) : Keeps s₀ (holdParks s x w) :=
  hs.tickLane.leaveLane

theorem Keeps.performLdf {x : GangAcc} {clr : Bool} (hs : Keeps s₀ s) : Keeps s₀ (performLdf s x clr) := by
  unfold Machine.performLdf
  refine Keeps.ite hs.holdParks ?_
  split
  · exact (hs.destMark.localLoad.stop ‹_›).killGroup
  · next e =>
    have h₁ := hs.destMark.localLoad.ok e
    refine Keeps.holdDone ?_
    split
    · exact h₁.upd.switchRegion.upd.setTeam
    · exact h₁

theorem Keeps.performCltry {x : GangAcc} (hs : Keeps s₀ s) : Keeps s₀ (performCltry s x) :=
  .ite hs.resultDue.modGroup.setKreg hs.resultDue.setVreg.setCore

theorem Keeps.performClwait {x : GangAcc} (hs : Keeps s₀ s) : Keeps s₀ (performClwait s x) := by
  unfold Machine.performClwait
  dsimp only
  exact Keeps.ite hs.receiveClock.holdDone hs.claspWait.holdParks

theorem Keeps.performGang {x : GangAcc} (hs : Keeps s₀ s) : Keeps s₀ (performGang s x) := by
  unfold Machine.performGang
  refine Keeps.ite hs (.ite (.ite hs.modFrag hs) ?_)
  split
  · refine Keeps.ite hs ?_
    split
    · exact hs.localLoad.ok ‹_›
    · exact (hs.localLoad.stop ‹_›).killGroup
  · exact hs.localStore
  · split
    · exact hs.localAtomic.ok ‹_›
    · exact (hs.localAtomic.stop ‹_›).killGroup
  · exact hs.performLdf
  · exact hs.initClasp
  · exact Keeps.ite hs.killGroup hs.updateClasp
  · exact Keeps.ite hs (.ite hs.killGroup hs.performCltry)
  · exact Keeps.ite hs.killGroup hs.performClwait
  · exact hs.cleanGranules

theorem Keeps.performDue {c : Nat} (hs : Keeps s₀ s) : Keeps s₀ (performDue s c) :=
  hs.upd.foldl Keeps.performGang

theorem Keeps.execQtry {f : FmtA} (hs : Keeps s₀ s) : Keeps.Out s₀ (execQtry f s) := by
  unfold Machine.execQtry
  refine hs.uniformPass (fun ht => ?_) Keeps.advance
  split
  · exact ht
  · exact ht.switchRegion.writeK

/-! ## Control flow and exceptions -/

theorem Keeps.setSucc {r : FragRef} {slot : Nat} {x : Succ} (hs : Keeps s₀ s) : Keeps s₀ (setSucc s r slot x) :=
  hs.modFrag

theorem Keeps.splitEnd {i : Instr} {r : FragRef} (hs : Keeps s₀ s) : Keeps s₀ (splitEnd i s r) := hs.splitBy

theorem Keeps.execBr {f : FmtB} (hs : Keeps s₀ s) : Keeps.Out s₀ (execBr f s) :=
  hs.strandPass Keeps.setSucc Keeps.splitEnd

theorem Keeps.execBru {f : FmtB} (hs : Keeps s₀ s) : Keeps.Out s₀ (execBru f s) :=
  hs.uniformPass (fun ht => Keeps.ite ht (ht.foldl Keeps.awaitPreds)) fun ht => Keeps.ite ht.goTo ht.advance

theorem Keeps.readTarget {i : Instr} {f : FmtA} {r : FragRef} {slot : Nat} (hs : Keeps s₀ s) :
    Keeps.Either s₀ (readTarget i f r s slot) := by
  unfold Machine.readTarget
  extract_lets
  split
  · exact hs.awaitSources
  · split
    next v s' e =>
    have hs' : Keeps s₀ s' := Keeps.snd (Keeps.readSource (.ite hs.awaitSources.switchRegion hs.awaitSources)) e
    split
    · exact hs.awaitSources
    · exact hs'

theorem Keeps.execJmpi {f : FmtA} (hs : Keeps s₀ s) : Keeps.Out s₀ (execJmpi f s) := by
  unfold Machine.execJmpi
  extract_lets i body
  have hbody {go : State → FragRef → Nat → W64 → State} {r : FragRef} {s : State} {slot : Nat}
      (hgo : ∀ {s t}, Keeps s₀ s → Keeps s₀ (go s r slot t)) (hs : Keeps s₀ s) :
      Keeps.Res s₀ (body go r s slot) := by
    dsimp only [body]
    split
    · exact hs.readTarget.inr ‹_›
    · exact hgo (hs.readTarget.inl ‹_›)
  clear_value body
  split
  · exact hs.uniformPass (hbody Keeps.modFrag) Keeps.goTo
  · exact hs.strandPass (hbody Keeps.setSucc) Keeps.splitEnd

theorem Keeps.writeLink {i : Instr} {n : Nat} {r : FragRef} {slot : Nat} (hs : Keeps s₀ s) :
    Keeps.Res s₀ (writeLink i n r s slot) := by
  unfold Machine.writeLink
  split
  · exact hs
  · exact hs.writeVs

theorem Keeps.noteTransfer {r : FragRef} {i : Instr} (hs : Keeps s₀ s) : Keeps s₀ (noteTransfer s r i) :=
  hs.modFrag

theorem Keeps.callAll {i : Instr} {op : Nat} {guard : BitVec 4} {gn : Bool} {n : Nat}
    {target : FragRef → State → Nat → (W64 × State) ⊕ (State × Stop)} (hs : Keeps s₀ s)
    (htarget : ∀ {r s sl}, Keeps s₀ s → Keeps.Either s₀ (target r s sl)) :
    Keeps s₀ (callAll i op guard gn n target s) := by
  unfold Machine.callAll
  split
  · exact hs
  next r _ =>
  extract_lets s₁ f ref s₂ found
  have h₂ : Keeps s₀ s₂ := hs.beginPass.awaitPreds
  have hfound : Keeps.Either s₀ found := by
    dsimp only [found]
    split
    · exact h₂
    · exact htarget h₂
  clear_value found
  refine .ite h₂.tickLane.advance (.ite h₂.startFault ?_)
  split
  · next s' x =>
    have hs' : Keeps s₀ s' := hfound
    exact hs'.stopFirst
  · next t s' =>
    have hs' : Keeps s₀ s' := hfound
    extract_lets
    split
    · exact ((hs'.modFrag.runStrands Keeps.writeLink).fst ‹_›).bumpCount.stopPass
    · exact ((hs'.modFrag.runStrands Keeps.writeLink).fst ‹_›).bumpCount.noteTransfer.modFrag.goTo

theorem Keeps.execCall {f : FmtB} (hs : Keeps s₀ s) : Keeps.Out s₀ (execCall f s) := hs.callAll fun ht => ht

theorem Keeps.calliBody {i : Instr} {f : FmtA} {n : Nat} {r : FragRef} {slot : Nat} (hs : Keeps s₀ s) :
    Keeps.Res s₀ (calliBody i f n r s slot) := by
  unfold Machine.calliBody
  split
  · exact hs.readTarget.inr ‹_›
  · split
    · exact hs
    · exact ((hs.readTarget.inl ‹_›).writeLink.ok ‹_›).setSucc

theorem Keeps.execCalli {f : FmtA} (hs : Keeps s₀ s) : Keeps.Out s₀ (execCalli f s) := by
  unfold Machine.execCalli
  refine Keeps.Out.ite (hs.callAll Keeps.readTarget) ?_
  split
  · exact hs
  · exact Keeps.Out.ite
      hs.beginPass.startFault
      (hs.strandPass Keeps.calliBody fun hu => hu.noteTransfer.splitEnd)

theorem Keeps.retBody {r : FragRef} {slot : Nat} (hs : Keeps s₀ s) : Keeps.Res s₀ (retBody r s slot) :=
  .ite hs (.ite hs (.ite hs.awaitRegs hs.awaitRegs.setSucc))

theorem Keeps.lowerRegion {c h : Nat} {e : Nat} (hs : Keeps s₀ s) : Keeps s₀ (lowerRegion c h s e) := by
  unfold Machine.lowerRegion
  extract_lets
  split
  · exact hs
  · dsimp only
    exact Keeps.ite hs.implicitRegion.setFrag hs

theorem Keeps.lowerSpilled {c h : Nat} {l : List SpillRec} (hs : Keeps s₀ s) :
    Keeps s₀ (lowerSpilled c h l s).2 := by
  induction l generalizing s with
  | nil => exact hs
  | cons p r ih =>
    rw [Machine.lowerSpilled]
    dsimp only
    split
    · dsimp only
      exact ih hs.implicitRegion
    · exact ih hs

theorem Keeps.lowerRegions {c h : Nat} (hs : Keeps s₀ s) : Keeps s₀ (lowerRegions s c h) := by
  unfold Machine.lowerRegions
  exact (hs.foldl Keeps.lowerRegion).lowerSpilled.modGroup

theorem Keeps.execRet {f : FmtA} (hs : Keeps s₀ s) : Keeps.Out s₀ (execRet f s) := by
  unfold Machine.execRet
  split
  · exact hs
  · refine Keeps.Out.ite hs.beginPass.startFault ?_
    extract_lets
    split
    · exact ((hs.beginPass.runStrands Keeps.retBody).fst ‹_›).bumpCount.stopPass
    · exact ((hs.beginPass.runStrands Keeps.retBody).fst ‹_›).bumpCount.noteTransfer.splitEnd.lowerRegions

theorem Keeps.saveAcc {c h : Nat} {f : Frag} {slot p : Nat} {store : Bool} {v : VReg} (hs : Keeps s₀ s) :
    Keeps s₀ (saveAcc s c h f slot p store v).2 := hs.fresh

theorem Keeps.spillBlock {c h : Nat} {f : Frag} {slot b : Nat} (hs : Keeps s₀ s) :
    Keeps s₀ (spillBlock c h f slot b s) := by
  unfold Machine.spillBlock
  refine (Keeps.foldl hs fun hs => ?_).setTeam
  extract_lets
  split
  exact (hs.saveAcc.snd ‹_›).issueLaneStore

theorem Keeps.refillBlock {c h : Nat} {f : Frag} {slot b : Nat} (hs : Keeps s₀ s) :
    Keeps s₀ (refillBlock c h f slot b s) := by
  unfold Machine.refillBlock
  dsimp only
  exact hs.setTeam.foldl fun ht => ht.saveAcc.issueLaneRead

theorem Keeps.openBlock {c h : Nat} {slot b : Nat} (hs : Keeps s₀ s) : Keeps s₀ (openBlock c h slot b s) :=
  hs.setTeam.upd

theorem Keeps.makeBlock {c h : Nat} {f : Frag} {slot b : Nat} {q : State × Nat} (hq : Keeps s₀ q.1) :
    Keeps s₀ (makeBlock c h f slot q b).1 := by
  unfold Machine.makeBlock
  split
  extract_lets g t sid w cap x kept x' s' place
  have hplace {s n} (hs : Keeps s₀ s) : Keeps s₀ (place s n).1 := by
    dsimp only [place]
    split
    · dsimp only
      exact hs.refillBlock
    · dsimp only
      exact hs.openBlock
  have hs' : Keeps s₀ s' := Keeps.setStrand hq
  clear_value s' place
  refine Keeps.iteFst hq (Keeps.iteFst (hplace hs') ?_)
  exact Keeps.iteFst hs' (hplace hs'.spillBlock)

theorem Keeps.transferWindow {r : FragRef} (hs : Keeps s₀ s) : Keeps s₀ (transferWindow s r) := by
  unfold Machine.transferWindow
  extract_lets f g t
  split
  next s' n e =>
  have hs' : Keeps s₀ s' := Keeps.fst (Keeps.foldlFst hs fun hq => Keeps.foldlFst hq Keeps.makeBlock) e
  exact .ite hs' hs'.modFrag

theorem Keeps.execRjn {f : FmtA} (hs : Keeps s₀ s) : Keeps.Out s₀ (execRjn f s) :=
  hs.uniformPass (fun ht => ht) fun ht => Keeps.ite ht.advance ht.setFrag.settleMerge

theorem Keeps.execRjnRelease {core hslot : Nat} (hs : Keeps s₀ s) :
    Keeps.Out s₀ (execRjnRelease core hslot s) := .ite hs (hs.setGroup.foldl Keeps.settleMerge)

theorem Keeps.execRegroup {f : FmtA} (hs : Keeps s₀ s) : Keeps.Out s₀ (execRegroup f s) := by
  unfold Machine.execRegroup
  split
  · exact hs
  · exact Keeps.Out.ite hs.beginPass.startFault hs.beginPass.spend.bumpCount.blockOn

theorem Keeps.refillGroup {c h : Nat} {p : W64} {wbase : Nat} {fl : BitVec 5} {marks : SMap Nat}
    {acq : List Nat} {from_ : Nat} {sids : List Nat} (hs : Keeps s₀ s) :
    Keeps s₀ (refillGroup c h p wbase fl marks acq from_ sids s) := by
  unfold Machine.refillGroup
  dsimp only
  exact Keeps.ite hs.modGroup hs.modGroup.implicitRegion.modGroup.emitTraceAt

theorem Keeps.execRegroupRelease {core team role : Nat} (hs : Keeps s₀ s) :
    Keeps.Out s₀ (execRegroupRelease core team role s) := by
  unfold Machine.execRegroupRelease
  extract_lets
  split
  · exact hs
  · exact hs.foldl Keeps.refillGroup

theorem Keeps.execExit {f : FmtA} (hs : Keeps s₀ s) : Keeps.Out s₀ (execExit f s) :=
  hs.strandPass Keeps.setSucc Keeps.splitEnd

theorem Keeps.execRegion {klive : BitVec 56} {vlive : W64} (hs : Keeps s₀ s) :
    Keeps.Out s₀ (execRegion klive vlive s) := hs.uniformPass (fun ht => ht.fresh.setFrag) Keeps.advance

theorem Keeps.raiseTrap {r : FragRef} {i : Instr} {slot n : Nat} (hs : Keeps s₀ s) :
    Keeps s₀ (raiseTrap s r i slot n) := hs.setFrag.takeExceptionAt

theorem Keeps.execTrap {f : FmtA} (hs : Keeps s₀ s) : Keeps.Out s₀ (execTrap f s) := by
  unfold Machine.execTrap
  refine Keeps.Out.ite (hs.uniformPass (fun ht => ht) Keeps.raiseTrap) ?_
  split
  · exact hs
  · extract_lets
    split
    · exact hs.beginPass.tickLane.advance
    · exact hs.beginPass.awaitPreds.spend.bumpCount.raiseTrap

theorem Keeps.execBkpt {f : FmtA} (hs : Keeps s₀ s) : Keeps.Out s₀ (execBkpt f s) := by
  unfold Machine.execBkpt
  split
  · exact hs
  · exact hs.upd.startFault

theorem Keeps.execSigchk {f : FmtA} (hs : Keeps s₀ s) : Keeps.Out s₀ (execSigchk f s) := by
  unfold Machine.execSigchk
  split
  · exact hs
  · exact Keeps.Out.ite hs.beginPass.tickLane.startFault hs.beginPass.spend.bumpCount.advance

theorem Keeps.execSigrst {f : FmtA} (hs : Keeps s₀ s) : Keeps.Out s₀ (execSigrst f s) :=
  hs.uniformPass Keeps.modGroup Keeps.advance

theorem Keeps.markReplay {a : Acc} (hs : Keeps s₀ s) : Keeps s₀ (markReplay s a) := .ite hs.modGroup hs.setTeam

theorem Keeps.reissue {a : Acc} (hs : Keeps s₀ s) : Keeps s₀ (reissue s a) := by
  unfold Machine.reissue
  extract_lets
  split
  · exact Keeps.ite hs.markReplay.issueLaneRead hs.markReplay.replayRead
  · exact hs.markReplay.replayRead
  · exact hs.markReplay.replayRead
  · exact Keeps.ite hs.markReplay.issueLaneStore hs.markReplay.dropCopies.fresh.upd
  · exact hs.markReplay.dropCopies.fresh.upd
  · exact hs.markReplay.postSingle
  · exact hs.markReplay.postSingle
  · exact hs.markReplay.postSingle
  · exact hs.markReplay.postSingle
  · exact hs.markReplay.postSingle

theorem Keeps.replayLog {c h : Nat} (hs : Keeps s₀ s) : Keeps s₀ (replayLog s c h) :=
  hs.clearLog.foldl fun ht => ht.foldl Keeps.reissue

theorem Keeps.settleKept {c h e : Nat} (hs : Keeps s₀ s) : Keeps s₀ (settleKept s c h e) := by
  unfold Machine.settleKept
  split
  · exact Keeps.ite hs.releaseGroup hs
  · exact Keeps.ite hs.releaseGroup hs
  · exact hs.wakeGroup
  · exact hs

theorem Keeps.endStop {c h : Nat} {f : FaultRec} (hs : Keeps s₀ s) : Keeps s₀ (endStop s c h f) := by
  unfold Machine.endStop
  extract_lets
  split
  · exact hs.replayLog.setGroup
  · exact hs.replayLog.setGroup.settleKept

theorem Keeps.execIret {f : FmtA} (hs : Keeps s₀ s) : Keeps.Out s₀ (execIret f s) := by
  unfold Machine.execIret
  split
  · exact hs
  · extract_lets i g q s₁ s₂
    have h₁ : Keeps s₀ s₁ := hs.beginPass
    split
    · exact hs.upd.takeException
    · extract_lets s₃
      have h₃ : Keeps s₀ s₃ := h₁.spend.bumpCount.tickLane.endStop
      exact Keeps.Out.ite h₁.startFault (.ite h₁.startFault (Keeps.ite h₃.settleMerge h₃))

theorem Keeps.exchange {c h e j : Nat} (hs : Keeps s₀ s) : Keeps s₀ (exchange s c h e j) := by
  unfold Machine.exchange
  extract_lets
  split
  · exact hs.setGroup
  · exact hs

theorem Keeps.execSpillRotation {core hslot : Nat} (hs : Keeps s₀ s) :
    Keeps.Out s₀ (execSpillRotation core hslot s) := by
  unfold Machine.execSpillRotation
  extract_lets
  split
  · exact hs
  · refine Keeps.Out.ite hs ?_
    split
    · exact hs
    · exact hs.exchange.settleMerge

theorem Keeps.bringSlot {c h slot : Nat} (hs : Keeps s₀ s) : Keeps s₀ (bringSlot s c h slot).2 := by
  unfold Machine.bringSlot
  extract_lets
  split
  · exact hs
  · split
    · exact hs.exchange
    · exact hs

theorem Keeps.stopPlace {c h : Nat} {slot : Option Nat} (hs : Keeps s₀ s) :
    Keeps s₀ (stopPlace s c h slot).2 := by
  unfold Machine.stopPlace
  split
  · exact hs
  · split <;> exact hs.bringSlot.snd ‹_›

theorem Keeps.recordStop {c h : Nat} {place : Option (Nat × Nat)} {cause slot0 : Nat} {faddr fword : W64}
    {eng : Option Bool} (hs : Keeps s₀ s) : Keeps s₀ (recordStop s c h place cause slot0 faddr fword eng) := by
  unfold Machine.recordStop
  split <;> exact hs.takeExceptionAt

theorem Keeps.nameWord {c h : Nat} {x : FaultRec} (hs : Keeps s₀ s) : Keeps s₀ (nameWord s c h x) :=
  .ite hs hs.modGroup

theorem Keeps.execHandlerEntry {core hslot : Nat} (hs : Keeps s₀ s) :
    Keeps.Out s₀ (execHandlerEntry core hslot s) := by
  unfold Machine.execHandlerEntry
  refine Keeps.Out.ite hs ?_
  dsimp only
  split
  · exact (Keeps.ite hs hs.nameWord).enterHandler
  · split
    · exact Keeps.ite hs.setGroup hs.setGroup.takeExceptionAt
    · exact hs.stopPlace.recordStop
    · split
      · exact hs
      · exact hs.setGroup.stopPlace.recordStop

/-! ## Exchange between strands -/

theorem Keeps.twoPass {i : Instr} {f : FmtA} {w : Nat}
    {get : State → FragRef → Gather → Nat → Except (Nat × Stop) Gather}
    {start : State → FragRef → Gather → Gather × State}
    {put : FragRef → State → Nat → List W64 → StrandRes}
    (hs : Keeps s₀ s) (hstart : ∀ {s r g}, Keeps s₀ s → Keeps s₀ (start s r g).2)
    (hput : ∀ {r s sl ws}, Keeps s₀ s → Keeps.Res s₀ (put r s sl ws)) :
    Keeps s₀ (twoPass i f w get start put s) := by
  unfold Machine.twoPass
  split
  · exact hs
  · extract_lets s₁ body second
    have h₁ : Keeps s₀ s₁ := hs.beginPass
    have hsecond {s} (hs : Keeps s₀ s) : Keeps s₀ (second s) := by
      dsimp only [second]
      split
      · exact ((hs.runStrands hput).fst ‹_›).bumpCount.advance
      · exact ((hs.runStrands hput).fst ‹_›).bumpCount.stopPass
    refine .ite (hsecond h₁) ?_
    clear_value second
    split
    · exact h₁.tickLane.stopFirst
    · extract_lets s₂ s₃ s₄
      have h₄ : Keeps s₀ s₄ := ((Keeps.ite h₁ h₁.switchRegion).foldl Keeps.popQueue).tickLane
      refine .ite h₁.tickLane.advance ?_
      split
      next e => exact hsecond ((hstart h₄).snd e).modFrag

theorem Keeps.writeValid {lat : Nat} {r : FragRef} {slot : Nat} {f : FmtA} {ok : Bool} (hs : Keeps s₀ s) :
    Keeps s₀ (writeValid lat s r slot f ok) := .ite hs.writePreds hs

theorem Keeps.copyPut {f : FmtA} {r : FragRef} {slot : Nat} {ws : List W64} (hs : Keeps s₀ s) :
    Keeps.Res s₀ (copyPut f r s slot ws) := by
  unfold Machine.copyPut
  split
  · exact hs
  · exact hs.putVs.writeValid

theorem Keeps.copyPass {i : Instr} {op : Nat} {f : FmtA} {pick : Nat → Nat → Option Nat × Nat} (hs : Keeps s₀ s) :
    Keeps.Out s₀ (copyPass i op f pick s) := hs.twoPass (fun ht => ht) Keeps.copyPut

theorem Keeps.execXchg {f : FmtA} (hs : Keeps s₀ s) : Keeps.Out s₀ (execXchg f s) := hs.copyPass

theorem Keeps.execXshf {f : FmtA} (hs : Keeps s₀ s) : Keeps.Out s₀ (execXshf f s) := hs.copyPass

theorem Keeps.execShfx {f : FmtA} (hs : Keeps s₀ s) : Keeps.Out s₀ (execShfx f s) := hs.copyPass

theorem Keeps.bcstBody {i : Instr} {f : FmtA} {r : FragRef} {slot : Nat} (hs : Keeps s₀ s) :
    Keeps.Res s₀ (bcstBody i f r s slot) := by
  unfold Machine.bcstBody
  dsimp only
  split
  · exact hs.tickLane
  · split
    · exact hs.tickLane
    · exact ((Keeps.ite hs.tickLane hs.tickLane.switchRegion).foldl Keeps.popQueue).modFrag.putVs.writeValid

theorem Keeps.execBcst {f : FmtA} (hs : Keeps s₀ s) : Keeps.Out s₀ (execBcst f s) :=
  hs.strandPass Keeps.bcstBody Keeps.advance

theorem Keeps.keepAcc {r : FragRef} {v : Int} (hs : Keeps s₀ s) : Keeps s₀ (keepAcc s r v) := hs.modFrag

theorem Keeps.scanBody {i : Instr} {f : FmtA} {r : FragRef} {slot : Nat} (hs : Keeps s₀ s) :
    Keeps.Res s₀ (scanBody i f r s slot) := by
  unfold Machine.scanBody
  extract_lets
  split
  · exact hs.awaitSources
  · exact (Keeps.ite hs.awaitSources.switchRegion hs.awaitSources).readSource.keepAcc.orFlags.putVs

theorem Keeps.execScan {f : FmtA} (hs : Keeps s₀ s) : Keeps.Out s₀ (execScan f s) :=
  hs.strandPass Keeps.scanBody Keeps.advance

theorem Keeps.redBody {i : Instr} {f : FmtA} {r : FragRef} {slot : Nat} (hs : Keeps s₀ s) :
    Keeps.Res s₀ (redBody i f r s slot) := by
  unfold Machine.redBody
  extract_lets op x last dst s₁ s₂
  have h₂ : Keeps s₀ s₂ := .ite hs.awaitSources.switchRegion hs.awaitSources
  clear_value s₂
  split
  · exact hs.awaitSources
  · split
    next e =>
    extract_lets acc
    split
    extract_lets s₃
    have h₃ : Keeps s₀ s₃ := (h₂.readSource.snd e).keepAcc.orFlags
    refine Keeps.Res.ite ?_ h₃
    split
    exact Keeps.ite h₃.orFlags.fillLater h₃.orFlags.writeKAt

theorem Keeps.execRed {f : FmtA} (hs : Keeps s₀ s) : Keeps.Out s₀ (execRed f s) :=
  hs.strandPass Keeps.redBody Keeps.advance

theorem Keeps.voteBody {f : FmtA} {r : FragRef} {slot : Nat} (hs : Keeps s₀ s) :
    Keeps.Res s₀ (voteBody f r s slot) := by
  unfold Machine.voteBody
  extract_lets
  split
  · exact hs
  · exact Keeps.Res.ite hs.awaitPreds.keepAcc hs.awaitPreds.keepAcc.writeK

theorem Keeps.execVote {f : FmtA} (hs : Keeps s₀ s) : Keeps.Out s₀ (execVote f s) :=
  hs.strandPass Keeps.voteBody Keeps.advance

theorem Keeps.rbalStart {f : FmtA} {r : FragRef} {k : Gather} (hs : Keeps s₀ s) :
    Keeps s₀ (rbalStart f s r k).2 := hs.writeKAt

theorem Keeps.rbalPut {f : FmtA} {r : FragRef} {slot : Nat} {ws : List W64} (hs : Keeps s₀ s) :
    Keeps.Res s₀ (rbalPut f r s slot ws) := by
  unfold Machine.rbalPut
  split
  · exact hs
  · exact hs.putVs

theorem Keeps.execRbal {f : FmtA} (hs : Keeps s₀ s) : Keeps.Out s₀ (execRbal f s) :=
  hs.twoPass Keeps.rbalStart Keeps.rbalPut

/-! ## The array -/

theorem Keeps.setTile {c bank z : Nat} {t : Tile} (hs : Keeps s₀ s) : Keeps s₀ (State.setTile s c bank z t) :=
  hs.setCore

theorem Keeps.mxTick {c : Nat} {m : MxCmd} (hs : Keeps s₀ s) : Keeps s₀ (mxTick s c m) := hs.charge.setCore

theorem Keeps.mxCatch {c id n : Nat} (hs : Keeps s₀ s) : Keeps s₀ (mxCatch c id n s) := by
  induction n generalizing s with
  | zero => exact hs
  | succ n ih =>
    rw [Machine.mxCatch]
    split
    · exact hs
    · exact Keeps.ite (ih hs.mxTick) hs

theorem Keeps.logError {d unit_ kind who addr : Nat} (hs : Keeps s₀ s) :
    Keeps s₀ (logError s d unit_ kind who addr) := by
  unfold Machine.logError
  exact hs.modDie

theorem Keeps.katMismatch {core : Nat} (hs : Keeps s₀ s) : Keeps s₀ (katMismatch s core) := by
  unfold Machine.katMismatch
  extract_lets
  split
  · exact hs.setCore.logError.modPart
  · exact hs.setCore.logError

theorem Keeps.katCycle {c : Nat} (hs : Keeps s₀ s) : Keeps s₀ (katCycle s c) := by
  unfold Machine.katCycle
  extract_lets
  split
  · exact hs
  · exact Keeps.ite (.ite hs.setCore hs) (.ite (.ite hs.setCore.katMismatch hs.setCore) hs)

theorem Keeps.arrayCycle {c : Nat} (hs : Keeps s₀ s) : Keeps s₀ (arrayCycle s c) :=
  (hs.foldl Keeps.mxCatch).katCycle

/-! ## System instructions -/

theorem Keeps.awaitSreg {r : FragRef} {x : SReg} (hs : Keeps s₀ s) : Keeps s₀ (awaitSreg s r x) := by
  unfold Machine.awaitSreg
  split
  · exact hs.awaitFlags
  · exact hs.awaitK
  · exact hs.awaitK
  · exact hs.awaitK
  · exact hs

theorem Keeps.execMfs {f : FmtS} (hs : Keeps s₀ s) : Keeps.Out s₀ (execMfs f s) := by
  unfold Machine.execMfs
  refine Keeps.ite (hs.uniformPass (fun ht => ?_) Keeps.advance) (hs.strandPass (fun ht => ?_) Keeps.advance)
  · extract_lets
    split
    · exact ht
    · exact Keeps.ite
        (Keeps.ite ht.switchRegion ht).awaitSreg.writeK
        (Keeps.ite ht.switchRegion ht).awaitSreg.writeVs
  · extract_lets
    split
    · exact ht
    · exact Keeps.ite
        (Keeps.ite ht.switchRegion ht).awaitSreg.writeK
        (Keeps.ite ht.switchRegion ht).awaitSreg.writeVs

theorem Keeps.noteSreg {r : FragRef} {n : Nat} {old : W64} (hs : Keeps s₀ s) :
    Keeps s₀ (noteSreg s r n old) := by
  unfold Machine.noteSreg
  exact hs.modGroup

theorem Keeps.writeSreg {r : FragRef} {x : SReg} {v : W64} (hs : Keeps s₀ s) :
    Keeps s₀ (writeSreg s r x v) := by
  unfold Machine.writeSreg
  split
  · exact hs.noteSreg.modFrag
  · exact hs.modGroup
  · exact hs.noteSreg.modGroup
  · exact hs.noteSreg.modGroup
  · exact hs

theorem Keeps.mtsBody {i : Instr} {f : FmtS} {r : FragRef} {slot : Nat} (hs : Keeps s₀ s) :
    Keeps.Res s₀ (mtsBody i f r s slot) := by
  unfold Machine.mtsBody
  extract_lets
  split
  · exact hs.awaitSources
  · exact (Keeps.ite hs.awaitSources.switchRegion hs.awaitSources).readSource.writeSreg

theorem Keeps.spendEach {r : FragRef} {w n : Nat} (hs : Keeps s₀ s) : Keeps s₀ (spendEach s r w n) := by
  induction n generalizing s with
  | zero => exact hs
  | succ n ih =>
    rw [Machine.spendEach]
    exact ih hs.spend

theorem Keeps.execMts {f : FmtS} (hs : Keeps s₀ s) : Keeps.Out s₀ (execMts f s) := by
  unfold Machine.execMts
  refine Keeps.Out.ite (hs.uniformPass Keeps.mtsBody Keeps.advance) ?_
  split
  · exact hs
  · refine Keeps.Out.ite hs.beginPass.tickLane.advance ?_
    extract_lets
    split
    · exact ((hs.beginPass.foldl Keeps.awaitPreds).mtsBody.stop ‹_›).stopFirst
    · exact ((hs.beginPass.foldl Keeps.awaitPreds).mtsBody.ok ‹_›).spendEach.bumpCount.advance

theorem Keeps.stepPass {i : Instr} {f : FmtA} {act : State → FragRef → StepRec → StepRec} (hs : Keeps s₀ s) :
    Keeps.Out s₀ (stepPass i f act s) := by
  unfold Machine.stepPass
  refine hs.uniformPass (fun ht => ?_) fun ht => ht.modGroup.emitTrace.advance
  extract_lets
  split
  · exact ht.awaitSources
  · exact ht.awaitSources.readAll.switchRegion

theorem Keeps.execStepRel {f : FmtA} (hs : Keeps s₀ s) : Keeps.Out s₀ (execStepRel f s) := hs.stepPass

theorem Keeps.execStepAbs {f : FmtA} (hs : Keeps s₀ s) : Keeps.Out s₀ (execStepAbs f s) := hs.stepPass

theorem Keeps.execStepEnd {f : FmtA} (hs : Keeps s₀ s) : Keeps.Out s₀ (execStepEnd f s) := hs.stepPass

theorem Keeps.execTrc {f : FmtA} (hs : Keeps s₀ s) : Keeps.Out s₀ (execTrc f s) := by
  unfold Machine.execTrc
  extract_lets i x body
  have hbody {r s sl} (hs : Keeps s₀ s) : Keeps.Res s₀ (body r s sl) := by
    dsimp only [body]
    split
    · exact hs.awaitSources
    · exact (Keeps.ite hs.awaitSources.switchRegion hs.awaitSources).readSource.emitTrace
  clear_value body
  exact Keeps.ite (hs.uniformPass hbody Keeps.advance) (hs.strandPass hbody Keeps.advance)

theorem Keeps.setClock {popped : Bool} {r : FragRef} {slot d v : Nat} (hs : Keeps s₀ s) :
    Keeps s₀ (setClock popped s r slot d v) := .ite hs.modGroup.fillLater hs.modGroup.writeK

theorem Keeps.execLclk {f : FmtA} (hs : Keeps s₀ s) : Keeps.Out s₀ (execLclk f s) := by
  unfold Machine.execLclk
  refine hs.uniformPass (fun ht => ?_) Keeps.advance
  split
  · exact ht
  · exact ht.setClock

theorem Keeps.execLclkMrg {f : FmtA} (hs : Keeps s₀ s) : Keeps.Out s₀ (execLclkMrg f s) := by
  unfold Machine.execLclkMrg
  refine hs.uniformPass (fun ht => ?_) Keeps.advance
  dsimp only
  split
  · exact ht.awaitSources
  · exact (Keeps.ite ht.awaitSources.switchRegion ht.awaitSources).readSource.setClock

theorem Keeps.haltTeams {r : FragRef} {on : Bool} {pick : Nat → Nat → Bool} (hs : Keeps s₀ s) :
    Keeps s₀ (haltTeams s r on pick) := by
  unfold Machine.haltTeams
  refine (hs.mapCores fun k hk => ?_).upd
  exact hk

theorem Keeps.haltbPass {i : Instr} {f : FmtA} {on whole : Bool} (hs : Keeps s₀ s) :
    Keeps.Out s₀ (haltbPass i f on whole s) := by
  unfold Machine.haltbPass
  refine hs.uniformPass (fun ht => ?_) fun ht => ?_
  · extract_lets
    split
    · exact ht.awaitSources
    · split
      split
      · exact ht.awaitSources
      · exact ((Keeps.ite ht.awaitSources.switchRegion ht.awaitSources).readSource.snd ‹_›).haltTeams.modFrag
  · split
    · exact Keeps.ite ht.advance ht.leaveLane
    · exact ht.advance

theorem Keeps.execHaltbTeam {f : FmtA} (hs : Keeps s₀ s) : Keeps.Out s₀ (execHaltbTeam f s) := hs.haltbPass

theorem Keeps.execHaltbTrel {f : FmtA} (hs : Keeps s₀ s) : Keeps.Out s₀ (execHaltbTrel f s) := hs.haltbPass

theorem Keeps.execHaltbCtx {f : FmtA} (hs : Keeps s₀ s) : Keeps.Out s₀ (execHaltbCtx f s) := hs.haltbPass

theorem Keeps.execHaltbCrel {f : FmtA} (hs : Keeps s₀ s) : Keeps.Out s₀ (execHaltbCrel f s) := hs.haltbPass

theorem Keeps.inspPass {i : Instr} {f : FmtA} {form : Nat} (hs : Keeps s₀ s) :
    Keeps.Out s₀ (inspPass i f form s) := by
  unfold Machine.inspPass
  refine hs.uniformPass (fun ht => ?_) Keeps.advance
  extract_lets
  split
  · exact ht.awaitSources
  · split
    extract_lets
    split
    extract_lets
    split
    · exact ht.awaitSources
    · split
      · exact ht.awaitSources
      · exact ((Keeps.ite ht.awaitSources.switchRegion ht.awaitSources).readAll.snd ‹_›).markK.fresh.upd

theorem Keeps.execInspKreg {f : FmtA} (hs : Keeps s₀ s) : Keeps.Out s₀ (execInspKreg f s) := hs.inspPass

theorem Keeps.execInspVreg {f : FmtA} (hs : Keeps s₀ s) : Keeps.Out s₀ (execInspVreg f s) := hs.inspPass

theorem Keeps.execInspGrp {f : FmtA} (hs : Keeps s₀ s) : Keeps.Out s₀ (execInspGrp f s) := hs.inspPass

theorem Keeps.execInspFrag {f : FmtA} (hs : Keeps s₀ s) : Keeps.Out s₀ (execInspFrag f s) := hs.inspPass

theorem Keeps.execInspLmem {f : FmtA} (hs : Keeps s₀ s) : Keeps.Out s₀ (execInspLmem f s) := hs.inspPass

theorem Keeps.execInspLfe {f : FmtA} (hs : Keeps s₀ s) : Keeps.Out s₀ (execInspLfe f s) := hs.inspPass

theorem Keeps.execInspBar {f : FmtA} (hs : Keeps s₀ s) : Keeps.Out s₀ (execInspBar f s) := hs.inspPass

theorem Keeps.execInspQueue {f : FmtA} (hs : Keeps s₀ s) : Keeps.Out s₀ (execInspQueue f s) := hs.inspPass

theorem Keeps.execCmntInst {f : FmtA} (hs : Keeps s₀ s) : Keeps.Out s₀ (execCmntInst f s) :=
  hs.uniformPass Keeps.setCore Keeps.advance

theorem Keeps.execCmntIpkg {f : FmtA} (hs : Keeps s₀ s) : Keeps.Out s₀ (execCmntIpkg f s) :=
  hs.uniformPass (fun ht => ht.mapCores fun _ hk => hk) Keeps.advance

theorem Keeps.execCmntWb {f : FmtA} (hs : Keeps s₀ s) : Keeps.Out s₀ (execCmntWb f s) := by
  unfold Machine.execCmntWb
  refine hs.uniformPass (fun ht => ?_) Keeps.advance
  extract_lets
  split
  · exact ht.awaitSources
  · dsimp only
    exact Keeps.Res.ite ht.awaitSources.readSource (ht.awaitSources.readSource.foldl Keeps.writebackMsc)

theorem Keeps.dropL1 {c : Nat} {pick : CacheLine → Bool} (hs : Keeps s₀ s) : Keeps s₀ (dropL1 s c pick) :=
  (hs.foldl Keeps.postWriteback).setCore

theorem Keeps.flushRemoved {x : Removal} (hs : Keeps s₀ s) : Keeps s₀ (flushRemoved s x) :=
  (((hs.foldl Keeps.laneArrives).foldl Keeps.dropL1).foldl Keeps.walkPosted).upd

theorem Keeps.removeAll {x : Removal} (hs : Keeps s₀ s) : Keeps s₀ (removeAll s x) := by
  unfold Machine.removeAll
  refine (hs.flushRemoved.mapCores fun k hk => ?_).upd
  exact hk

theorem Keeps.atlbiPass {i : Instr} {f : FmtA} {xs : List SrcReg} {rem : State → List W64 → Removal}
    (hs : Keeps s₀ s) : Keeps.Out s₀ (atlbiPass i f xs rem s) := by
  unfold Machine.atlbiPass
  refine hs.uniformPass (fun ht => ?_) fun ht => ?_
  · extract_lets
    split
    · exact ht.awaitSources
    · exact ht.awaitSources.readAll.removeAll.modFrag
  · split
    · exact ht.leaveLane
    · exact ht.advance

theorem Keeps.execAtlbiPage {f : FmtA} (hs : Keeps s₀ s) : Keeps.Out s₀ (execAtlbiPage f s) := hs.atlbiPass

theorem Keeps.execAtlbiAsid {f : FmtA} (hs : Keeps s₀ s) : Keeps.Out s₀ (execAtlbiAsid f s) := hs.atlbiPass

theorem Keeps.execAtlbiAll {f : FmtA} (hs : Keeps s₀ s) : Keeps.Out s₀ (execAtlbiAll f s) := hs.atlbiPass

theorem Keeps.sendRun {r : FragRef} (hs : Keeps s₀ s) : Keeps s₀ (sendRun s r) :=
  .ite hs hs.fresh.upd.raiseCounter.modFrag

theorem Keeps.launchBody {i : Instr} {f : FmtA} {r : FragRef} {slot : Nat} (hs : Keeps s₀ s) :
    Keeps.Res s₀ (launchBody i f r s slot) := by
  unfold Machine.launchBody
  extract_lets
  split
  · exact hs.awaitSources
  · dsimp only
    refine Keeps.Res.ite hs.awaitSources (.ite hs.awaitSources ?_)
    split
    · exact hs.awaitSources
    · exact Keeps.Res.ite
        hs.awaitSources
        (Keeps.ite hs.awaitSources.switchRegion hs.awaitSources).readSource.switchRegion.markV.modFrag

theorem Keeps.execLaunch {f : FmtA} (hs : Keeps s₀ s) : Keeps.Out s₀ (execLaunch f s) := by
  unfold Machine.execLaunch
  refine hs.acquireGate fun ht => ?_
  extract_lets
  split
  · next e =>
    have h₁ := (ht.beginPass.runStrands Keeps.launchBody).fst e
    exact (Keeps.ite h₁.tickLane h₁).bumpCount.sendRun.advance
  · exact ((ht.beginPass.runStrands Keeps.launchBody).fst ‹_›).bumpCount.sendRun.stopPass

end Sys2Proof.Machine
end

section
namespace Sys2Proof.Machine
variable {s₀ s t : State}

/-! ## Issue and fetch -/

theorem Keeps.settleFrag {c h : Nat} {e : Nat} (hs : Keeps s₀ s) : Keeps s₀ (settleFrag c h s e) := by
  unfold Machine.settleFrag
  extract_lets r g
  split
  · exact hs
  · extract_lets now x s₁ s₂
    have h₂ : Keeps s₀ s₂ := by
      dsimp only [s₂]
      split
      · exact hs
      · exact .ite hs.setFrag hs.setFrag.settleMerge
      · exact hs.setFrag
      · exact hs.goTo
    clear_value s₂
    split
    · exact .ite h₂.transferWindow h₂
    · exact h₂

theorem Keeps.sweepRemote {c h : Nat} (hs : Keeps s₀ s) : Keeps s₀ (sweepRemote s c h) :=
  hs.foldl Keeps.remoteDone

theorem Keeps.settleGroup {c : Nat} {h : Nat} (hs : Keeps s₀ s) : Keeps s₀ (settleGroup c s h) :=
  hs.sweepRemote.foldl Keeps.settleFrag

theorem Keeps.settle {c : Nat} (hs : Keeps s₀ s) : Keeps s₀ (settle s c) := hs.foldl Keeps.settleGroup

theorem Keeps.yieldLanes {rs : List FragRef} (hs : Keeps s₀ s) : Keeps s₀ (yieldLanes s rs) :=
  hs.foldl fun ht => Keeps.ite ht.setFrag ht

theorem Keeps.waitersYield {c : Nat} (hs : Keeps s₀ s) : Keeps s₀ (waitersYield s c) := hs.foldl Keeps.modGroup

theorem Keeps.startOn {r : FragRef} {lane : Nat} (hs : Keeps s₀ s) : Keeps s₀ (startOn s r lane) := hs.setFrag

theorem Keeps.pickStarts {c n : Nat} {cs : List (Nat × Nat × Nat × Nat)} (hs : Keeps s₀ s) :
    Keeps s₀ (pickStarts c n cs s).2 := by
  induction n generalizing s cs with
  | zero => exact hs
  | succ n ih =>
    rw [Machine.pickStarts]
    split
    · exact Keeps.ite hs.yieldLanes hs
    · split
      · exact Keeps.ite hs.yieldLanes hs
      · exact ih (Keeps.ite hs.yieldLanes hs).startOn

theorem Keeps.selectStarts {c : Nat} (hs : Keeps s₀ s) : Keeps s₀ (selectStarts s c) := by
  unfold Machine.selectStarts
  split
  next e =>
  have h₁ := hs.pickStarts.snd e
  extract_lets
  split
  · exact h₁.foldl Keeps.modFrag
  · exact (h₁.foldl Keeps.modFrag).upd

theorem Keeps.skipCycle {c : Nat} (hs : Keeps s₀ s) : Keeps s₀ (skipCycle s c) := .ite hs hs.setCore

theorem Keeps.bumpCore {c n k : Nat} (hs : Keeps s₀ s) : Keeps s₀ (bumpCore s c n k) := hs.bumpCount

theorem Keeps.countStalls {c : Nat} {h : Nat} (hs : Keeps s₀ s) : Keeps s₀ (countStalls c s h) :=
  hs.foldl Keeps.bumpCore

theorem Keeps.execIssueCycle {core : Nat} (hs : Keeps s₀ s) : Keeps.Out s₀ (execIssueCycle core s) :=
  hs.arrayCycle.upd.setCore.skipCycle.performDue.settle.waitersYield.bumpCore.selectStarts.foldl
    Keeps.countStalls

theorem Keeps.execUrgentPromotion {core hslot entry : Nat} (hs : Keeps s₀ s) :
    Keeps.Out s₀ (execUrgentPromotion core hslot entry s) := by
  unfold Machine.execUrgentPromotion
  split
  · exact hs
  · exact Keeps.Out.ite hs.setFrag hs

theorem Keeps.bufferWord {c asid va : Nat} {w : W64} (hs : Keeps s₀ s) : Keeps s₀ (bufferWord s c asid va w) :=
  hs.setCore

theorem Keeps.askLine {c asid va : Nat} {pc : W64} (hs : Keeps s₀ s) : Keeps s₀ (askLine s c asid va pc) :=
  .ite hs hs.bumpDie.openFetch

theorem Keeps.codeCopy {c asid va : Nat} (hs : Keeps s₀ s) : Keeps s₀ (codeCopy s c asid va).2 := by
  unfold Machine.codeCopy
  extract_lets
  split
  · exact hs.setL1
  · exact hs.setL2.bumpDie.fillL1
  · exact hs

theorem Keeps.localWord {c asid va pa : Nat} {pc : W64} (hs : Keeps s₀ s) :
    Keeps s₀ (localWord s c asid va pa pc).2 := by
  unfold Machine.localWord
  split
  · exact Keeps.iteSnd hs hs.upd
  · split
    · next e =>
      have h₁ := hs.codeCopy.snd e
      exact Keeps.iteSnd h₁ h₁.bufferWord
    · exact (hs.codeCopy.snd ‹_›).askLine

theorem Keeps.fetchWord {c asid : Nat} {pc : W64} {k : Nat} (hs : Keeps s₀ s) :
    Keeps s₀ (fetchWord s c asid pc k).2 := by
  unfold Machine.fetchWord
  refine Keeps.iteSnd hs ?_
  extract_lets
  split
  next e =>
  have h₁ := hs.translate.snd e
  split
  · exact h₁
  · refine Keeps.iteSnd h₁ (Keeps.iteSnd ?_ h₁.localWord)
    split
    · exact h₁
    · split
      · exact h₁.routeAt.snd ‹_›
      · exact (h₁.routeAt.snd ‹_›).askLine

theorem Keeps.fetchFrom {c asid win : Nat} {pc : W64} {n : Nat} {ws : List W64} (hs : Keeps s₀ s) :
    Keeps s₀ (fetchFrom c asid win pc n ws s).2 := by
  induction n generalizing s ws with
  | zero => exact hs
  | succ n ih =>
    rw [Machine.fetchFrom]
    split
    · exact hs.fetchWord.snd ‹_›
    · exact hs.fetchWord.snd ‹_›
    · exact hs.fetchWord.snd ‹_›
    · next e =>
      have h₁ := hs.fetchWord.snd e
      extract_lets
      split
      · exact h₁
      · exact Keeps.iteSnd h₁ (ih h₁)
      · exact Keeps.iteSnd h₁ (ih h₁)

theorem Keeps.decodeFault {r : FragRef} {cause word : Nat} {w : W64} (hs : Keeps s₀ s) :
    Keeps s₀ (decodeFault s r cause word w) := hs.takeException

theorem Keeps.fetchFollow {r : FragRef} {asid : Nat} {i : Instr} (hs : Keeps s₀ s) :
    Keeps s₀ (fetchFollow s r asid i).2 := by
  unfold Machine.fetchFollow
  extract_lets
  split
  · exact (hs.fetchWord.snd ‹_›).decodeFault
  · exact (hs.fetchWord.snd ‹_›).parkAtStart
  · exact (hs.fetchWord.snd ‹_›).killGroup
  · next e =>
    have h₁ := hs.fetchWord.snd e
    refine Keeps.iteSnd h₁.startFault ?_
    split
    · exact h₁.fetchWord.snd ‹_›
    · exact (h₁.fetchWord.snd ‹_›).parkAtStart
    · exact (h₁.fetchWord.snd ‹_›).killGroup
    · exact h₁.fetchWord.snd ‹_›

theorem Keeps.fetchCurrent {r : FragRef} (hs : Keeps s₀ s) : Keeps s₀ (fetchCurrent s r).2 := by
  unfold Machine.fetchCurrent
  extract_lets f g t idle asid
  split
  · exact hs.upd
  split
  · exact (hs.fetchFrom.snd ‹_›).upd.decodeFault
  · exact (hs.fetchFrom.snd ‹_›).parkAtStart
  · exact (hs.fetchFrom.snd ‹_›).upd.killGroup
  · next e =>
    have h₁ := hs.fetchFrom.snd e
    split
    next s₂ e =>
    have h₂ : Keeps s₀ s₂ := Keeps.snd (.iteSnd h₁.upd.fetchFollow h₁) e
    refine Keeps.iteSnd h₂ ?_
    extract_lets s₃
    split
    · exact h₂.upd.setCore.startFault
    · dsimp only
      exact h₂.upd.modFrag

/-! ## Copy engines -/

theorem Keeps.enginePass {i : Instr} {body : FragRef → State → Nat → StrandRes} (hs : Keeps s₀ s)
    (hbody : ∀ {r s sl}, Keeps s₀ s → Keeps.Res s₀ (body r s sl)) :
    Keeps.Out s₀ (enginePass i body s) := hs.acquireGate fun ht => ht.uniformPass hbody Keeps.advance

theorem Keeps.copyBody {i : Instr} {op len : Nat} {f : FmtE} {r : FragRef} {slot : Nat} (hs : Keeps s₀ s) :
    Keeps.Res s₀ (copyBody i op len f r s slot) := by
  unfold Machine.copyBody
  refine Keeps.Res.ite hs ?_
  extract_lets
  split
  · exact hs.awaitSources
  · split
    next e =>
    have h₁ := hs.awaitSources.readAll.snd e
    extract_lets
    split
    · exact h₁
    · exact Keeps.Res.ite h₁ (.ite h₁ h₁.switchRegion.tickClock.fresh.raiseCounter.setCore)

theorem Keeps.execCpy {f : FmtE} (hs : Keeps s₀ s) : Keeps.Out s₀ (execCpy f s) := hs.enginePass Keeps.copyBody

theorem Keeps.execCpyp {f : FmtE} (hs : Keeps s₀ s) : Keeps.Out s₀ (execCpyp f s) :=
  hs.enginePass Keeps.copyBody

theorem Keeps.execCpyg {f : FmtE} (hs : Keeps s₀ s) : Keeps.Out s₀ (execCpyg f s) :=
  hs.enginePass Keeps.copyBody

theorem Keeps.execCpys {f : FmtE} (hs : Keeps s₀ s) : Keeps.Out s₀ (execCpys f s) :=
  hs.enginePass Keeps.copyBody

theorem Keeps.execCpyr {f : FmtE} (hs : Keeps s₀ s) : Keeps.Out s₀ (execCpyr f s) :=
  hs.enginePass Keeps.copyBody

theorem Keeps.tickEngine {e : Nat} (hs : Keeps s₀ s) : Keeps s₀ (tickEngine s e) := hs.upd

theorem Keeps.execCopyEngineStart {die : Nat} (hs : Keeps s₀ s) : Keeps.Out s₀ (execCopyEngineStart die s) := by
  unfold Machine.execCopyEngineStart
  split
  · split
    · exact hs
    · exact hs.setCore.lowerCounter
  · split
    · split
      · exact hs
      · exact hs.setCore.modDie.upd
    · exact hs

theorem Keeps.engGlobal {c : CopyCmd} {eng : Nat} {base : W64} {off : Int} {n : Nat} {rd wr red : Bool}
    (hs : Keeps s₀ s) : Keeps s₀ (engGlobal s c eng base off n rd wr red).1 := by
  unfold Machine.engGlobal
  refine Keeps.iteFst hs ?_
  extract_lets
  split
  · exact hs.translate.snd ‹_›
  · next e =>
    have h₁ := hs.translate.snd e
    extract_lets
    split
    · exact h₁.routeAt.snd ‹_›
    · next e =>
      have h₂ := h₁.routeAt.snd e
      refine Keeps.iteFst h₂ (Keeps.iteFst h₂ (Keeps.iteFst h₂ ?_))
      split
      · exact Keeps.iteFst h₂ h₂
      · exact h₂
      · exact h₂
      · exact h₂

theorem Keeps.engAccess {c : CopyCmd} {eng space : Nat} {base : W64} {off : Int} {n : Nat} {rd wr red : Bool}
    (hs : Keeps s₀ s) : Keeps s₀ (engAccess s c eng space base off n rd wr red).1 := by
  unfold Machine.engAccess
  refine Keeps.iteFst ?_ ?_
  · split
    · exact hs.setCore
    · exact hs.engGlobal
  · dsimp only
    split
    · exact hs.setCore
    · split <;> exact hs

theorem Keeps.engTake {p : EngAt} {n : Nat} {hint : Option Nat} (hs : Keeps s₀ s) :
    Keeps s₀ (engTake s p n hint).2 := by
  unfold Machine.engTake
  split
  · exact hs.mscUse
  · exact hs

theorem Keeps.setRun {x : CopyRun} (hs : Keeps s₀ s) : Keeps s₀ (setRun s x) := hs.upd

theorem Keeps.engAsk {x : CopyRun} {st : Stage} {bytes : Nat} {isIndex : Bool} (hs : Keeps s₀ s) :
    Keeps s₀ (engAsk s x st bytes isIndex) := by
  unfold Machine.engAsk
  split
  next s₁ e =>
  have h₁ : Keeps s₀ s₁ := hs.fresh.snd e
  extract_lets f s₂
  have h₂ : Keeps s₀ s₂ := by
    dsimp only [s₂]
    split
    · exact h₁.sendRead
    · exact h₁
  exact h₂.upd.setRun

theorem Keeps.stopRun {x : CopyRun} {n cause : Nat} {a : W64} {poison : Bool} (hs : Keeps s₀ s) :
    Keeps s₀ (stopRun s x n cause a poison) := hs.setRun

theorem Keeps.readIndex {x : CopyRun} (hs : Keeps s₀ s) : Keeps s₀ (readIndex s x) := by
  unfold Machine.readIndex
  extract_lets
  split
  · exact (hs.engAccess.fst ‹_›).stopRun
  · next e =>
    have h₁ := hs.engAccess.fst e
    refine Keeps.ite h₁.stopRun ?_
    split
    · exact h₁.charge.engAsk
    · dsimp only
      exact h₁.charge.engTake.setRun

theorem Keeps.readLine {x : CopyRun} {e : CopyElem} (hs : Keeps s₀ s) : Keeps s₀ (readLine s x e) := by
  unfold Machine.readLine
  extract_lets
  split
  · exact hs.setRun
  · split
    · exact (hs.engAccess.fst ‹_›).stopRun
    · next e =>
      have h₁ := hs.engAccess.fst e
      refine Keeps.ite h₁.stopRun ?_
      split
      · exact h₁.engAsk
      · dsimp only
        exact h₁.engTake.setRun

theorem Keeps.execCopySourceArrival {id : Nat} (hs : Keeps s₀ s) :
    Keeps.Out s₀ (execCopySourceArrival id s) := by
  unfold Machine.execCopySourceArrival
  split
  · exact hs
  · refine Keeps.Out.ite hs ?_
    split
    · exact hs.readIndex
    · exact Keeps.Out.ite hs hs.readLine

theorem Keeps.engAnswer {id : Nat} {bytes : List Byte} (hs : Keeps s₀ s) : Keeps s₀ (engAnswer s id bytes) := by
  unfold Machine.engAnswer
  split
  · exact hs
  · exact Keeps.ite hs.upd.setRun hs.upd.setRun

theorem Keeps.engLost {id cause : Nat} (hs : Keeps s₀ s) : Keeps s₀ (engLost s id cause) := by
  unfold Machine.engLost
  split
  · exact hs
  · exact Keeps.ite hs.upd.setRun hs.upd.stopRun

theorem Keeps.lowerClasp {e : Nat} {p : LocalAt} {n : Nat} (hs : Keeps s₀ s) : Keeps s₀ (lowerClasp s e p n) :=
  hs.tickEngine.updateClasp

theorem Keeps.addEvent {c : CopyCmd} {pa n : Nat} (hs : Keeps s₀ s) : Keeps s₀ (addEvent s c pa n) := hs.cmEvent

theorem Keeps.deliverOne {c : CopyCmd} {due : Nat} {q : CopyPiece} (hs : Keeps s₀ s) :
    Keeps s₀ (deliverOne c due s q) := by
  unfold Machine.deliverOne
  split
  · exact hs.localWrite
  · exact (Keeps.ite hs.addEvent hs).arriveHint
  · extract_lets
    split
    next e =>
    have h₁ := hs.fresh.snd e
    extract_lets
    split
    · exact Keeps.ite h₁.upd.sendPeer h₁.upd.sendPeer
    · exact h₁.upd

theorem Keeps.deliverBeat {x : CopyRun} {qs : List CopyPiece} (hs : Keeps s₀ s) :
    Keeps s₀ (deliverBeat s x qs) := by
  unfold Machine.deliverBeat
  extract_lets c cp here now later
  clear_value now later here cp
  split
  next s₁ e =>
  have h₁ : Keeps s₀ s₁ := hs.fresh.snd e
  extract_lets s₂ s₃ s₄ s₅
  have h₄ : Keeps s₀ s₄ := (h₁.foldl Keeps.deliverOne).charge.bumpDie.bumpCount
  have h₅ : Keeps s₀ s₅ := by
    dsimp only [s₅]
    split
    · exact .ite h₄ h₄.lowerClasp
    · exact h₄
  exact .ite h₅ h₅.upd

theorem Keeps.placeElems {x : CopyRun} {k n : Nat} {buf : List Byte} (hs : Keeps s₀ s) :
    Keeps s₀ (placeElems s x k n buf).1 := by
  induction k generalizing s n buf with
  | zero => exact hs
  | succ k ih =>
    rw [Machine.placeElems]
    split
    · exact hs
    · split
      · exact hs.engAccess.fst ‹_›
      · next e =>
        have h₁ := hs.engAccess.fst e
        exact Keeps.iteFst h₁ (ih h₁)

theorem Keeps.deliverPlane {x : CopyRun} (hs : Keeps s₀ s) : Keeps s₀ (deliverPlane s x) := by
  unfold Machine.deliverPlane
  refine Keeps.ite hs ?_
  extract_lets
  split
  · exact (hs.engAccess.fst ‹_›).stopRun
  · exact (hs.engAccess.fst ‹_›).setRun.deliverBeat

theorem Keeps.deliverElems {x : CopyRun} (hs : Keeps s₀ s) : Keeps s₀ (deliverElems s x) := by
  unfold Machine.deliverElems
  refine Keeps.ite hs ?_
  extract_lets
  split
  · exact hs
  · split
    · refine Keeps.ite hs ?_
      split
      · exact hs.setRun.lowerClasp
      · exact hs.setRun
    · exact Keeps.ite hs (.ite hs.placeElems.setRun hs.placeElems.setRun.deliverBeat)

theorem Keeps.execCopyBeatDelivery {id : Nat} (hs : Keeps s₀ s) : Keeps.Out s₀ (execCopyBeatDelivery id s) := by
  unfold Machine.execCopyBeatDelivery
  split
  · exact hs
  · exact Keeps.ite hs.deliverPlane hs.deliverElems

theorem Keeps.execClaspRemoteDecrement {id : Nat} (hs : Keeps s₀ s) :
    Keeps.Out s₀ (execClaspRemoteDecrement id s) := by
  unfold Machine.execClaspRemoteDecrement
  extract_lets
  split
  · exact hs
  · refine Keeps.Out.ite hs ?_
    split
    · exact Keeps.ite hs.upd.lowerClasp hs.upd
    · exact hs.upd

theorem Keeps.reportStop {x : CopyRun} {st : CopyStop} (hs : Keeps s₀ s) : Keeps s₀ (reportStop s x st) :=
  .ite hs.killGroup (Keeps.ite hs hs.logViolation).modGroup

theorem Keeps.execCopyComplete {id : Nat} (hs : Keeps s₀ s) : Keeps.Out s₀ (execCopyComplete id s) := by
  unfold Machine.execCopyComplete
  split
  · exact hs
  · refine Keeps.Out.ite hs ?_
    split
    · exact hs.upd.tickEngine.lowerCounter.reportStop
    · exact hs.upd.tickEngine.lowerCounter

/-! ## Matrix engines -/

theorem Keeps.mxStart {r : FragRef} {i : Instr} {op len : Nat} {f : FmtE} {held : Option (List W64)}
    (hs : Keeps s₀ s) : Keeps.Inl s₀ (mxStart s r i op len f held) := by
  unfold Machine.mxStart
  extract_lets g t slot d port s₁
  refine Keeps.Inl.ite trivial ?_
  split
  · exact hs
  split
  · trivial
  split
  next e =>
  extract_lets m
  split
  · trivial
  · exact hs.awaitSources.readAll.snd e

theorem Keeps.mxEnqueue {r : FragRef} {i : Instr} {m : MxCmd} {cycle : Nat} (hs : Keeps s₀ s) :
    Keeps.Res s₀ (mxEnqueue s r i m cycle) :=
  .ite hs
    (.ite hs (.ite hs.switchRegion.tickClock.fresh.raiseCounter.setCore hs.switchRegion.tickClock.fresh.setCore))

theorem Keeps.arrayBody {i : Instr} {op len : Nat} {f : FmtE} {r : FragRef} {sl : Nat} (hs : Keeps s₀ s) :
    Keeps.Res s₀ (arrayBody i op len f r s sl) := by
  unfold Machine.arrayBody
  split
  · exact hs
  · exact (hs.mxStart.inl ‹_›).mxEnqueue

theorem Keeps.execMma {f : FmtE} (hs : Keeps s₀ s) : Keeps.Out s₀ (execMma f s) := hs.enginePass Keeps.arrayBody

theorem Keeps.execMmas {f : FmtE} (hs : Keeps s₀ s) : Keeps.Out s₀ (execMmas f s) :=
  hs.enginePass Keeps.arrayBody

theorem Keeps.execMsca {f : FmtE} (hs : Keeps s₀ s) : Keeps.Out s₀ (execMsca f s) :=
  hs.enginePass Keeps.arrayBody

theorem Keeps.execAcz {f : FmtE} (hs : Keeps s₀ s) : Keeps.Out s₀ (execAcz f s) := hs.enginePass Keeps.arrayBody

theorem Keeps.keepDesc {r : FragRef} {m : MxCmd} (hs : Keeps s₀ s) : Keeps s₀ (keepDesc s r m) := hs.modFrag

theorem Keeps.acrdBody {i : Instr} {f : FmtE} {r : FragRef} {sl : Nat} (hs : Keeps s₀ s) :
    Keeps.Res s₀ (acrdBody i f r s sl) := by
  unfold Machine.acrdBody
  extract_lets
  split
  · exact hs
  · next e =>
    have h₁ := hs.mxStart.inl e
    refine Keeps.Res.ite h₁.mxEnqueue ?_
    split
    · exact h₁
    · exact (h₁.keepDesc.foldl Keeps.markV).mxEnqueue

theorem Keeps.execAcrd {f : FmtE} (hs : Keeps s₀ s) : Keeps.Out s₀ (execAcrd f s) :=
  hs.enginePass Keeps.acrdBody

theorem Keeps.gatherRows {r : FragRef} {m : MxCmd} {l : List Nat} (hs : Keeps s₀ s) :
    Keeps s₀ (gatherRows r m l s).1 := by
  induction l generalizing s with
  | nil => exact hs
  | cons sl rest ih =>
    rw [Machine.gatherRows]
    refine Keeps.iteFst (ih hs) ?_
    extract_lets
    split
    · exact hs.awaitSources
    · exact ih hs.awaitSources.readAll.modFrag.tickLane

theorem Keeps.acwrPass {f : FmtE} {r : FragRef} (hs : Keeps s₀ s) : Keeps s₀ (acwrPass f r s) := by
  unfold Machine.acwrPass
  extract_lets
  split
  · exact hs.beginPass.stopPass
  · next e =>
    have h₁ := hs.beginPass.mxStart.inl e
    split
    · exact (h₁.keepDesc.gatherRows.fst ‹_›).stopPass
    · next e =>
      have h₂ := h₁.keepDesc.gatherRows.fst e
      extract_lets
      split
      · exact ((Keeps.ite h₂.tickLane h₂).mxEnqueue.stop ‹_›).stopPass
      · exact ((Keeps.ite h₂.tickLane h₂).mxEnqueue.ok ‹_›).charge.bumpCount.advance

theorem Keeps.execAcwr {f : FmtE} (hs : Keeps s₀ s) : Keeps.Out s₀ (execAcwr f s) :=
  hs.acquireGate Keeps.acwrPass

theorem Keeps.execMatrixSlotBoundary (hs : Keeps s₀ s) : Keeps.Out s₀ (execMatrixSlotBoundary s) := hs.upd

theorem Keeps.execArrayFillStart {core bank : Nat} (hs : Keeps s₀ s) :
    Keeps.Out s₀ (execArrayFillStart core bank s) := by
  unfold Machine.execArrayFillStart
  split
  · exact hs
  · exact Keeps.Out.ite hs hs.setCore.mxTick

theorem Keeps.mxReport {c : Nat} {m : MxCmd} {cause : Nat} {a : W64} (hs : Keeps s₀ s) :
    Keeps s₀ (mxReport s c m cause a) := .ite hs.killGroup hs.modGroup

theorem Keeps.mxEnd {core : Nat} {m : MxCmd} (hs : Keeps s₀ s) : Keeps s₀ (mxEnd s core m) := by
  unfold Machine.mxEnd
  extract_lets
  split
  · exact hs.setCore.lowerCounter.mxReport
  · split
    · exact hs.setCore.lowerCounter.mxReport
    · exact (Keeps.ite hs.setCore.setTile hs.setCore.setTile.modGroup).lowerCounter

theorem Keeps.execMatrixCommandComplete {core : Nat} (hs : Keeps s₀ s) :
    Keeps.Out s₀ (execMatrixCommandComplete core s) := by
  unfold Machine.execMatrixCommandComplete
  split
  · exact hs
  · extract_lets
    split
    · exact hs.mxCatch
    · exact hs.mxCatch.mxEnd

theorem Keeps.serveRead {core : Nat} {m : MxCmd} {x : (Nat × Nat) × Nat} (hs : Keeps s₀ s) :
    Keeps s₀ (serveRead core m s x) := .ite hs hs.fresh.upd

theorem Keeps.execPortCommandStart {core bank : Nat} (hs : Keeps s₀ s) :
    Keeps.Out s₀ (execPortCommandStart core bank s) := by
  unfold Machine.execPortCommandStart
  extract_lets k
  split
  · exact hs
  · extract_lets start s₁ z s₂ s₃
    have h₁ : Keeps s₀ s₁ := hs.setCore
    have h₂ : Keeps s₀ s₂ := h₁.foldl Keeps.chargeAt
    have h₃ : Keeps s₀ s₃ := h₂.foldl Keeps.serveRead
    exact Keeps.Out.ite hs (.ite h₁.killGroup (.ite (Keeps.ite h₃.setTile h₃) h₂.setTile))

theorem Keeps.execPortCommandComplete {core bank : Nat} (hs : Keeps s₀ s) :
    Keeps.Out s₀ (execPortCommandComplete core bank s) := by
  unfold Machine.execPortCommandComplete
  extract_lets
  split
  · exact hs
  · exact hs.setCore

/-! ## The dispatcher: launches and runs -/

theorem Keeps.setLaunch {l : Launch} (hs : Keeps s₀ s) : Keeps s₀ (State.setLaunch s l) := hs.upd

theorem Keeps.remoteBytes {n : Nat} (hs : Keeps s₀ s) : Keeps s₀ (remoteBytes s n).2 := hs.upd

theorem Keeps.dispAccess {asid : Nat} {pkr va : W64} {n : Nat} {rd wr atom : Bool} (hs : Keeps s₀ s) :
    Keeps s₀ (dispAccess s asid pkr va n rd wr atom).1 := by
  unfold Machine.dispAccess
  refine Keeps.iteFst hs ?_
  extract_lets
  split
  · exact hs.translate.snd ‹_›
  · next e =>
    have h₁ := hs.translate.snd e
    extract_lets
    split
    · exact h₁.routeAt.snd ‹_›
    · next e =>
      have h₂ := h₁.routeAt.snd e
      refine Keeps.iteFst h₂ (Keeps.iteFst h₂ (Keeps.iteFst h₂ ?_))
      split
      · exact Keeps.iteFst h₂ h₂
      · exact h₂
      · exact h₂
      · exact h₂

theorem Keeps.dispRead {asid : Nat} {pkr va : W64} {n : Nat} (hs : Keeps s₀ s) :
    Keeps s₀ (dispRead s asid pkr va n).1 := by
  unfold Machine.dispRead
  split
  · exact hs.dispAccess.fst ‹_›
  · exact (hs.dispAccess.fst ‹_›).remoteBytes
  · exact hs.dispAccess.fst ‹_›

theorem Keeps.dispTrack {part asid : Nat} {va : W64} {st : Stage} {bytes : List Byte} {kind : PostKind}
    (hs : Keeps s₀ s) : Keeps s₀ (dispTrack s part asid va st bytes kind).2 := by
  unfold Machine.dispTrack
  split
  · exact hs.arriveAt
  · extract_lets
    split
    next e =>
    have h₁ := hs.fresh.snd e
    split
    · exact h₁.upd.sendPeer
    · exact h₁.upd.sendPeer
    · exact h₁.upd

theorem Keeps.dispSend {part asid : Nat} {va : W64} {st : Stage} {bytes : List Byte} {kind : PostKind}
    (hs : Keeps s₀ s) :
    Keeps s₀ (dispSend s part asid va st bytes kind) := hs.dispTrack

theorem Keeps.dispWrite {part asid : Nat} {va : W64} {st : Stage} {bytes : List Byte} {kind : PostKind}
    (hs : Keeps s₀ s) : Keeps s₀ (dispWrite s part asid va st bytes kind).2 := by
  unfold Machine.dispWrite
  dsimp only
  exact hs.dispTrack.modPart

theorem Keeps.readContext {part pa : Nat} (hs : Keeps s₀ s) : Keeps s₀ (readContext s part pa).2 :=
  Keeps.ite hs.upd hs.upd.upd

theorem Keeps.flushCluster {cl : Nat} (hs : Keeps s₀ s) : Keeps s₀ (flushCluster s cl) :=
  hs.foldl fun ht => (ht.foldl Keeps.postWriteback).setCore

theorem Keeps.switchFused {cl : Nat} {fuse : Bool} (hs : Keeps s₀ s) : Keeps s₀ (switchFused s cl fuse) :=
  .ite hs hs.flushCluster.upd

theorem Keeps.seatTeam {core h0 : Nat} {l : Launch} {t : Team} {groups : List GroupSlot} {tiles : SMap Tile}
    (hs : Keeps s₀ s) (ht : LocalMemoryOk s₀ → SMap.wf (0 : Byte) t.mem = true) :
    Keeps s₀ (seatTeam s core h0 l t groups tiles).2 := by
  unfold Machine.seatTeam
  extract_lets s₁ k ti bank banks put t'
  have h₁ : Keeps s₀ s₁ := .ite hs.switchFused hs
  exact h₁.putCore fun hl x hx => (SMap.mem_set hx).elim (fun e => e ▸ ht hl) (h₁.core hl x)

theorem Keeps.setMember {part handle gang pos core ti : Nat} (hs : Keeps s₀ s) :
    Keeps s₀ (setMember s part handle gang pos core ti) := by
  unfold Machine.setMember
  extract_lets mine old one
  have hone (t : Team) : (one t).mem = t.mem := by
    dsimp only [one]
    split <;> rfl
  refine hs.mapCores fun k hk x hx => ?_
  obtain ⟨y, hy, rfl⟩ := List.mem_map.1 hx
  rw [hone]
  exact hk y hy

theorem Keeps.placeTeam {l : Launch} {gang pos core : Nat} (hs : Keeps s₀ s) :
    Keeps.Opt s₀ (placeTeam s l gang pos core) := by
  unfold Machine.placeTeam
  split
  · extract_lets idx gs
    split
    have h₁ := (hs.seatTeam fun _ => rfl).snd (by assumption)
    exact h₁.setMember.setLaunch
  · trivial

theorem Keeps.placeGangAt {l : Launch} {gang c0 : Nat} (hs : Keeps s₀ s) :
    Keeps.Opt s₀ (placeGangAt s l gang c0) := Keeps.Opt.foldl hs fun ho => ho.bind Keeps.placeTeam

theorem Keeps.placeGang {l : Launch} {gang : Nat} {only : Option Nat} (hs : Keeps s₀ s) :
    Keeps.Opt s₀ (placeGang s l gang only) := Keeps.Opt.findSome? (hs.placeGangAt)

theorem Keeps.placeAll {l : Launch} {n gang : Nat} (hs : Keeps s₀ s) : Keeps.Opt s₀ (placeAll l n gang s) := by
  induction n generalizing s gang with
  | zero => exact hs
  | succ n ih =>
    rw [Machine.placeAll]
    exact hs.placeGang.bind fun ht => ih ht

theorem Keeps.nextHandle {part : Nat} (hs : Keeps s₀ s) : Keeps s₀ (nextHandle s part).2 := by
  unfold Machine.nextHandle
  dsimp only
  exact hs.modPart

theorem Keeps.judge {part handle : Nat} {ctx : Context} {pkr : W64} {words : List W64} {queue : Option Nat}
    (hs : Keeps s₀ s) : Keeps s₀ (judge s part handle ctx pkr words queue).2.2 := by
  unfold Machine.judge
  extract_lets
  split
  · exact hs
  · split
    split <;> exact hs.dispRead.fst ‹_›

theorem Keeps.enterQueue {l : Launch} (hs : Keeps s₀ s) : Keeps s₀ (enterQueue s l) := hs.setLaunch.modPart

theorem Keeps.disableQueue {part q : Nat} (hs : Keeps s₀ s) : Keeps s₀ (disableQueue s part q) := hs.modPart

theorem Keeps.logRecord {l : Launch} {source : Nat} (hs : Keeps s₀ s) : Keeps s₀ (logRecord s l source) :=
  hs.cmEvent

theorem Keeps.advanceHead {part q : Nat} (hs : Keeps s₀ s) : Keeps s₀ (advanceHead s part q) := hs.modPart

theorem Keeps.acceptEntry {part q : Nat} {ctx : Context} {va : W64} (hs : Keeps s₀ s) :
    Keeps s₀ (acceptEntry s part q ctx va) := by
  unfold Machine.acceptEntry
  split
  · exact (hs.dispRead.fst ‹_›).disableQueue.queueNotice
  · next e =>
    have h₁ := hs.dispRead.fst e
    split
    next e =>
    have h₂ := h₁.nextHandle.snd e
    split
    next e =>
    have h₃ := h₂.judge.snd₂ e
    extract_lets
    split
    · exact ((Keeps.ite h₃.enterQueue.logRecord h₃).dispAccess.fst ‹_›).dispWrite.modPart
    · exact ((Keeps.ite h₃.enterQueue.logRecord h₃).dispAccess.fst ‹_›).advanceHead

theorem Keeps.execRingEntryAccept {part queue : Nat} (hs : Keeps s₀ s) :
    Keeps.Out s₀ (execRingEntryAccept part queue s) := by
  unfold Machine.execRingEntryAccept
  split
  · exact Keeps.ite hs.advanceHead hs
  · exact Keeps.Out.ite hs (.ite hs.readContext hs.readContext.acceptEntry)

theorem Keeps.setRunOf {x : Run} (hs : Keeps s₀ s) : Keeps s₀ (setRunOf s x) := hs.upd

theorem Keeps.fillPair {x : Run} {sid pos h st : Nat} (hs : Keeps s₀ s) :
    Keeps s₀ (fillPair s x sid pos h st) := .ite hs hs.fresh.upd

theorem Keeps.takeHandles {x : Run} {acc : State × List Child} {q : Nat × Nat × W64} (hs : Keeps s₀ acc.1) :
    Keeps s₀ (takeHandles x acc q).1 := by
  unfold Machine.takeHandles
  split
  exact hs.nextHandle.snd ‹_›

theorem Keeps.judgeChild {x : Run} {ch : Child} (hs : Keeps s₀ s) : Keeps s₀ (judgeChild s x ch).2.2 := by
  unfold Machine.judgeChild
  split
  · exact hs.dispRead.fst ‹_›
  · exact (hs.dispRead.fst ‹_›).judge

theorem Keeps.endRun {x : Run} (hs : Keeps s₀ s) : Keeps s₀ (endRun s x) := hs.upd.lowerCounter

theorem Keeps.judgeRun {x : Run} {l : List Child} (hs : Keeps s₀ s) : Keeps s₀ (judgeRun x l s).2 := by
  induction l generalizing s with
  | nil => exact hs
  | cons ch rest ih =>
    rw [Machine.judgeRun]
    exact Keeps.iteSnd hs (Keeps.iteSnd hs.judgeChild.setLaunch.logRecord (ih hs.judgeChild.fillPair))

theorem Keeps.runOn {x : Run} {cs : List Child} (hs : Keeps s₀ s) : Keeps s₀ (runOn s x cs) :=
  .ite hs.judgeRun.endRun hs.judgeRun.setRunOf

theorem Keeps.execLaunchRunArrival {id : Nat} (hs : Keeps s₀ s) : Keeps.Out s₀ (execLaunchRunArrival id s) := by
  unfold Machine.execLaunchRunArrival
  split
  · exact hs
  refine Keeps.Out.ite hs ?_
  split
  next e => exact ((Keeps.foldlFst hs Keeps.takeHandles).fst e).emitTraceAt.runOn

theorem Keeps.execChildQueueEntry {id : Nat} (hs : Keeps s₀ s) : Keeps.Out s₀ (execChildQueueEntry id s) := by
  unfold Machine.execChildQueueEntry
  split
  · exact hs
  · split
    · exact hs.endRun
    · split
      · exact hs.runOn
      · exact Keeps.Out.ite hs hs.enterQueue.fillPair.runOn

end Sys2Proof.Machine
end

section
namespace Sys2Proof.Machine
variable {s₀ s t : State}

/-! ## The dispatcher: placement, pre-emption and retirement -/

theorem Keeps.placeSaved {head : Option Nat} {v : SavedTeam} {core : Nat} (hs : Keeps s₀ s) :
    Keeps.Opt s₀ (placeSaved head s v core) := by
  unfold Machine.placeSaved
  extract_lets t
  split
  · trivial
  split
  · trivial
  split
  next e =>
  have h₁ := (hs.seatTeam (t := movedTeam t) hs.team).snd e
  extract_lets tick step s₂ s₃
  have h₃ : Keeps s₀ s₃ := h₁.setCore.setMember
  exact h₃.eraseCore.upd

theorem Keeps.placeSavedGang {vs : List SavedTeam} {c0 : Nat} (hs : Keeps s₀ s) :
    Keeps.Opt s₀ (placeSavedGang s vs c0) := Keeps.Opt.foldl hs fun ho => ho.bind Keeps.placeSaved

theorem Keeps.placeNext {l : Launch} {only : Option Nat} (hs : Keeps s₀ s) :
    Keeps.Opt s₀ (placeNext s l only) := by
  unfold Machine.placeNext
  extract_lets _ ws back gs left n new
  have hback {s g} (hs : Keeps s₀ s) : Keeps.Opt s₀ (back s g) := Keeps.Opt.findSome? hs.placeSavedGang
  have hnew : Keeps.Opt s₀ new := Keeps.Opt.ite hs.placeAll (Keeps.Opt.ite trivial hs.placeGang)
  clear_value back new gs
  split
  · exact Keeps.Opt.ite (Keeps.Opt.foldl hs fun ho => ho.bind hback) (hback hs)
  · refine hnew.map fun hs => ?_
    split
    · exact hs.setLaunch
    · exact hs

theorem Keeps.leaveQueue {l : Launch} (hs : Keeps s₀ s) : Keeps s₀ (leaveQueue s l) := by
  unfold Machine.leaveQueue
  split
  · exact Keeps.ite hs.modPart hs
  · exact hs

theorem Keeps.reservedPlacement {part : Nat} {l : Launch} (hs : Keeps s₀ s) :
    Keeps.Opt s₀ (reservedPlacement s part l) := by
  unfold Machine.reservedPlacement
  split
  · exact hs.placeNext
  · exact trivial

theorem Keeps.headPlacement {part : Nat} {l : Launch} (hs : Keeps s₀ s) :
    Keeps.Opt s₀ (headPlacement s part l) := hs.reservedPlacement.orElse hs.placeNext

theorem Keeps.commitPlacement {part : Nat} {l : Launch} (hs : Keeps s₀ s) :
    Keeps s₀ (commitPlacement s part l) := hs.leaveQueue.modPart

theorem Keeps.passTurn {part : Nat} {qs : List Nat} (hs : Keeps s₀ s) :
    Keeps s₀ (takeTurn.passTurn s part qs) := by
  unfold Machine.takeTurn.passTurn
  extract_lets
  split
  · exact hs
  · exact hs.setPart

theorem Keeps.takeTurn {part : Nat} {cands : List (Nat × Launch)} (hs : Keeps s₀ s) :
    Keeps s₀ (takeTurn s part cands) := by
  unfold Machine.takeTurn
  extract_lets p qs holder
  split
  · refine Keeps.ite ?_ hs.passTurn
    split
    next e => exact (hs.headPlacement.some e).commitPlacement.modPart
    · exact hs
  · exact hs.passTurn

theorem Keeps.placeSwapped {part rank : Nat} (hs : Keeps s₀ s) : Keeps.Opt s₀ (placeSwapped s part rank) := by
  unfold Machine.placeSwapped
  refine Keeps.Opt.findSome? (?_)
  intros
  split
  · exact Keeps.Opt.ite trivial (Keeps.Opt.findSome? (hs.placeSaved))
  · exact trivial

theorem Keeps.runWaits {part : Nat} (hs : Keeps s₀ s) : Keeps s₀ (runWaits s part) := hs.setPart

theorem Keeps.capIdle {part : Nat} (hs : Keeps s₀ s) : Keeps s₀ (capIdle s part) := hs.modPart

theorem Keeps.decide_ {part : Nat} (hs : Keeps s₀ s) : Keeps s₀ (decide_ s part) := by
  unfold Machine.decide_
  extract_lets heads cands
  split
  next e => exact (Keeps.Opt.findSome? (hs.reservedPlacement.map Keeps.commitPlacement)).some e
  · split
    next e => exact hs.placeSwapped.some e
    · exact Keeps.ite hs hs.takeTurn

theorem Keeps.pushNotice {part c ti : Nat} {t : Track} (hs : Keeps s₀ s) :
    Keeps s₀ (pushNotice s part c ti t) := .ite hs hs.setPart.setTeam.cmEvent.upd

theorem Keeps.writeNotice {part : Nat} {n : Notice} {c ti : Nat} (hs : Keeps s₀ s) :
    Keeps s₀ (writeNotice s part n c ti) := by
  unfold Machine.writeNotice
  refine Keeps.ite hs ?_
  extract_lets
  split
  · exact (hs.dispAccess.fst ‹_›).dispWrite.modPart
  · next e =>
    have h₁ := hs.dispAccess.fst e
    exact Keeps.ite h₁ h₁.logViolation.modPart

theorem Keeps.deliverNotice {part : Nat} (hs : Keeps s₀ s) : Keeps s₀ (deliverNotice s part) := by
  unfold Machine.deliverNotice
  extract_lets
  split
  · split
    · exact hs.pushNotice
    · exact hs.writeNotice
  · exact hs

theorem Keeps.execNoticeDelivery {part : Nat} (hs : Keeps s₀ s) : Keeps.Out s₀ (execNoticeDelivery part s) :=
  Keeps.ite hs hs.deliverNotice

theorem Keeps.execPlacementDecision {part : Nat} (hs : Keeps s₀ s) :
    Keeps.Out s₀ (execPlacementDecision part s) := by
  unfold Machine.execPlacementDecision
  extract_lets p s₁ s₂ s₃
  have h₂ : Keeps s₀ s₂ := .ite hs.runWaits.deliverNotice hs.runWaits
  have h₃ : Keeps s₀ s₃ := by
    dsimp only [s₃]
    split
    · exact h₂
    · exact h₂.modPart
  exact Keeps.Out.ite hs h₃.decide_.capIdle

theorem Keeps.execReservationTake {part queue : Nat} (hs : Keeps s₀ s) :
    Keeps.Out s₀ (execReservationTake part queue s) := by
  unfold Machine.execReservationTake
  dsimp only
  split
  · exact hs
  · refine Keeps.Out.ite hs ?_
    split
    · exact hs.setPart
    · exact hs

theorem Keeps.execPlaceStarved {part queue : Nat} (hs : Keeps s₀ s) :
    Keeps.Out s₀ (execPlaceStarved part queue s) := by
  unfold Machine.execPlaceStarved
  split
  · exact hs
  · exact Keeps.Out.ite hs hs.setPart.queueNotice

theorem Keeps.execTeamStart {core team : Nat} (hs : Keeps s₀ s) : Keeps.Out s₀ (execTeamStart core team s) := by
  unfold Machine.execTeamStart
  split
  · exact hs
  next t e =>
  refine Keeps.Out.ite hs ?_
  extract_lets now l s₁ strands s₂
  have ht := hs.findTeam e
  have h₁ : Keeps s₀ s₁ := hs.putTeam ht
  have h₂ : Keeps s₀ s₂ := hs.putTeam ht
  exact Keeps.Out.ite (h₁.foldl fun ht => .ite ht ht.replayLog) h₂.setCore

theorem Keeps.flushStripe {asid base size : Nat} (hs : Keeps s₀ s) : Keeps s₀ (flushStripe s asid base size) :=
  hs.foldl fun ht => Keeps.ite ht (ht.foldl Keeps.postWriteback).setCore

theorem Keeps.spillCallers {core h : Nat} {f : Frag} (hs : Keeps s₀ s) : Keeps s₀ (spillCallers core h s f) :=
  hs.foldl fun ht => ht.foldl Keeps.spillBlock

theorem Keeps.requeueLaunch {l : Launch} (hs : Keeps s₀ s) : Keeps s₀ (requeueLaunch s l) := hs.modPart

theorem Keeps.settlePreempt {part handle : Nat} (hs : Keeps s₀ s) : Keeps s₀ (settlePreempt s part handle) := by
  unfold Machine.settlePreempt
  split
  · exact hs
  · exact Keeps.ite hs (.ite hs.setLaunch hs.setLaunch.requeueLaunch)

theorem Keeps.freeTeam {core team : Nat} (hs : Keeps s₀ s) : Keeps s₀ (freeTeam s core team) :=
  hs.putCore fun hl t ht => hs.core hl t (SMap.mem_erase ht)

theorem Keeps.chargeTeam {core : Nat} {t : Team} (hs : Keeps s₀ s) : Keeps s₀ (chargeTeam s core t) := by
  unfold Machine.chargeTeam
  split
  · exact hs
  · exact hs.modPart

theorem Keeps.imageBytes {n : Nat} (hs : Keeps s₀ s) : Keeps s₀ (imageBytes s n).2 := hs.upd

theorem Keeps.writeImage {core : Nat} {t : Team} {n : Nat} (hs : Keeps s₀ s) :
    Keeps s₀ (writeImage s core t n) := by
  unfold Machine.writeImage
  refine hs.foldl fun ht => ?_
  extract_lets
  split
  · exact Keeps.ite (ht.translate.snd ‹_›) (ht.translate.snd ‹_›).imageBytes.engineWrite
  · exact ht.translate.snd ‹_›

theorem Keeps.saveTeam {core team : Nat} {t : Team} (hs : Keeps s₀ s)
    (ht : LocalMemoryOk s₀ → SMap.wf (0 : Byte) t.mem = true) : Keeps s₀ (saveTeam s core team t) := by
  unfold Machine.saveTeam
  extract_lets how l save strands t'
  split
  next e =>
  extract_lets place tiles v s₁ s₂ s₃ s₄
  have h₂ : Keeps s₀ s₂ := (hs.fresh.snd e).chargeTeam.freeTeam
  have h₃ : Keeps s₀ (s₂.setTeam place 0 t') := h₂.putTeam ht
  exact h₃.writeImage.setMember.upd.settlePreempt

theorem Keeps.execPreemptSave {core team : Nat} (hs : Keeps s₀ s) :
    Keeps.Out s₀ (execPreemptSave core team s) := by
  unfold Machine.execPreemptSave
  split
  · exact hs
  next t e =>
  refine Keeps.Out.ite hs ?_
  split
  split
  · exact (hs.foldl fun hu => hu.foldl Keeps.spillCallers).setTeam
  · exact hs.flushStripe.setTeam
  · exact Keeps.Out.ite hs (hs.saveTeam (hs.findTeam e))

theorem Keeps.startPreempt {core team : Nat} (hs : Keeps s₀ s) : Keeps s₀ (startPreempt s core team) :=
  hs.modTeam fun t => by split <;> rfl

theorem Keeps.preemptLaunch {l : Launch} {how : Nat} (hs : Keeps s₀ s) : Keeps s₀ (preemptLaunch s l how) :=
  hs.setLaunch.upd.modPart.foldl Keeps.startPreempt

theorem Keeps.preemptAs {l : Launch} {how : Nat} (hs : Keeps s₀ s) : Keeps s₀ (preemptAs s l how) :=
  .ite hs.preemptLaunch hs.setLaunch.upd

theorem Keeps.execDpcmdResume {part core hslot : Nat} (hs : Keeps s₀ s) :
    Keeps.Out s₀ (execDpcmdResume part core hslot s) := by
  unfold Machine.execDpcmdResume
  refine Keeps.Out.ite ?_ ?_
  · split
    · exact Keeps.ite hs.endStop.settleMerge hs.endStop
    · exact hs
  · split
    · exact hs
    · exact hs.upd

theorem Keeps.killSaved {v : SavedTeam} {gid hslot : Nat} (hs : Keeps s₀ s) :
    Keeps s₀ (killSaved s v gid hslot) := (Keeps.ite hs hs.postTo).setCore.killGroup.setCore.upd

theorem Keeps.execDpcmdKill {part core hslot : Nat} (hs : Keeps s₀ s) :
    Keeps.Out s₀ (execDpcmdKill part core hslot s) := by
  unfold Machine.execDpcmdKill
  refine Keeps.Out.ite (Keeps.ite hs hs.killGroup) ?_
  split
  · exact hs.killSaved
  · exact hs

theorem Keeps.execDpcmdSwapOut {part core hslot : Nat} (hs : Keeps s₀ s) :
    Keeps.Out s₀ (execDpcmdSwapOut part core hslot s) := Keeps.ite hs.startPreempt hs

theorem Keeps.execDpcmdPreemptHold {part handle : Nat} (hs : Keeps s₀ s) :
    Keeps.Out s₀ (execDpcmdPreemptHold part handle s) := by
  unfold Machine.execDpcmdPreemptHold
  split
  · exact hs
  · exact Keeps.ite hs hs.preemptAs

theorem Keeps.execDpcmdPreemptRequeue {part handle : Nat} (hs : Keeps s₀ s) :
    Keeps.Out s₀ (execDpcmdPreemptRequeue part handle s) := by
  unfold Machine.execDpcmdPreemptRequeue
  split
  · exact hs
  · exact Keeps.ite hs hs.preemptAs

theorem Keeps.execDpcmdRelease {part handle : Nat} (hs : Keeps s₀ s) :
    Keeps.Out s₀ (execDpcmdRelease part handle s) := by
  unfold Machine.execDpcmdRelease
  split
  · exact hs
  · exact Keeps.ite hs.setLaunch.requeueLaunch hs

theorem Keeps.execAutoSwapOut {core team : Nat} (hs : Keeps s₀ s) :
    Keeps.Out s₀ (execAutoSwapOut core team s) := by
  unfold Machine.execAutoSwapOut
  split
  · exact hs
  · exact Keeps.Out.ite (Keeps.ite hs.startPreempt hs) hs

/-- A place kept through erasures of places was one before them. -/
theorem mem_of_mem_foldl_erase {l : List (Nat × Nat)} {m : SMap Core} {p : Nat × Core}
    (hp : p ∈ l.foldl (fun m q => if 192 ≤ q.1 then m.erase q.1 else m) m) : p ∈ m := by
  induction l generalizing m with
  | nil => exact hp
  | cons q l ih =>
    have h := ih hp
    dsimp only at h
    split at h
    · exact SMap.mem_erase h
    · exact h

theorem Keeps.keepMember {core team : Nat} {t : Team} (hs : Keeps s₀ s)
    (ht : LocalMemoryOk s₀ → SMap.wf (0 : Byte) t.mem = true) : Keeps s₀ (keepMember s core team t) := by
  unfold Machine.keepMember
  extract_lets live
  split
  · split
    next s₁ e =>
    have h₁ : Keeps s₀ s₁ := hs.fresh.snd e
    extract_lets s₂
    have h₂ : Keeps s₀ s₂ := h₁.putTeam ht
    exact h₂.setMember
  · exact hs.putCores fun hl p hp => hs.loc hl p (mem_of_mem_foldl_erase hp)

theorem Keeps.execTeamRetire {core team : Nat} (hs : Keeps s₀ s) :
    Keeps.Out s₀ (execTeamRetire core team s) := by
  unfold Machine.execTeamRetire
  split
  · exact hs
  next t e =>
  extract_lets held mark s₁
  refine Keeps.Out.ite hs ?_
  have h₁ : Keeps s₀ s₁ := hs.chargeTeam.freeTeam.keepMember (hs.findTeam e)
  split
  · exact h₁
  · exact h₁.setLaunch.settlePreempt

theorem Keeps.completionAdd {l : Launch} (hs : Keeps s₀ s) : Keeps s₀ (completionAdd s l) := by
  unfold Machine.completionAdd
  refine Keeps.ite hs (.ite hs.logViolation ?_)
  split
  · exact (hs.dispAccess.fst ‹_›).dispWrite
  · exact (hs.dispAccess.fst ‹_›).logViolation

theorem Keeps.execLaunchRetire {part handle : Nat} (hs : Keeps s₀ s) :
    Keeps.Out s₀ (execLaunchRetire part handle s) := by
  unfold Machine.execLaunchRetire
  split
  · exact hs
  · refine Keeps.Out.ite hs ?_
    split
    · exact (hs.foldl Keeps.flushStripe).setLaunch
    · exact Keeps.Out.ite hs hs.completionAdd.upd

theorem Keeps.drainOut {part cl : Nat} (hs : Keeps s₀ s) : Keeps s₀ (drainOut s part cl) := by
  unfold Machine.drainOut
  refine hs.foldl fun ht => ?_
  split
  · exact Keeps.ite (.ite ht.preemptLaunch ht) ht.startPreempt
  · exact ht.startPreempt

theorem Keeps.execSelfTestDrain {part : Nat} (hs : Keeps s₀ s) : Keeps.Out s₀ (execSelfTestDrain part s) := by
  unfold Machine.execSelfTestDrain
  extract_lets
  split
  · exact hs.drainOut
  · refine Keeps.Out.ite hs ?_
    split <;> exact hs.setPart

/-! ## The governor -/

theorem Keeps.setDomain {j : Nat} {d : Domain} (hs : Keeps s₀ s) : Keeps s₀ (State.setDomain s j d) := hs.upd

theorem Keeps.judgeStep {j cap : Nat} {v : StepView} (hs : Keeps s₀ s) : Keeps s₀ (judgeStep j cap s v) :=
  .ite hs.setGroup (.ite hs.setGroup hs.setGroup.setDomain)

theorem Keeps.execControlTick {domain : Nat} {temps : List Nat} {watts : Nat} (hs : Keeps s₀ s) :
    Keeps.Out s₀ (execControlTick domain temps watts s) := by
  unfold Machine.execControlTick
  extract_lets d n put top gov s₁ clusters hot d' cap base views best floor want target decided s₂ s₃
  refine Keeps.Out.ite hs ?_
  have h₃ : Keeps s₀ s₃ := hs.upd.setDomain.foldl Keeps.judgeStep
  refine h₃.mapCores fun k hk => ?_
  split <;> exact hk

theorem Keeps.execVfTransitionDone {domain : Nat} (hs : Keeps s₀ s) :
    Keeps.Out s₀ (execVfTransitionDone domain s) := by
  unfold Machine.execVfTransitionDone
  extract_lets
  split
  · exact hs.setDomain
  · exact hs

theorem Keeps.noticeHold {asid part : Nat} (hs : Keeps s₀ s) : Keeps s₀ (noticeHold s asid part) :=
  .ite hs hs.upd.queueNotice

theorem Keeps.renewGroup {c h : Nat} (hs : Keeps s₀ s) : Keeps s₀ (renewGroup s c h) :=
  hs.modGroup.foldl Keeps.settleAt

theorem Keeps.endHold {asid : Nat} (hs : Keeps s₀ s) : Keeps s₀ (endHold s asid) :=
  .ite hs (hs.upd.foldl fun ht => ht.foldl Keeps.renewGroup)

theorem Keeps.execQuotaPeriodStart {asid : Nat} (hs : Keeps s₀ s) :
    Keeps.Out s₀ (execQuotaPeriodStart asid s) :=
  .ite hs (Keeps.ite hs.upd.endHold (Keeps.ite hs.upd hs.upd.upd).noticeHold)

theorem Keeps.reportCarats {asid n : Nat} (hs : Keeps s₀ s) : Keeps s₀ (reportCarats s asid n) := by
  unfold Machine.reportCarats
  extract_lets
  split
  · exact hs.upd
  · exact Keeps.ite hs.upd (Keeps.ite hs.upd hs.upd.upd).noticeHold

theorem Keeps.execQuotaReport {cluster : Nat} (hs : Keeps s₀ s) : Keeps.Out s₀ (execQuotaReport cluster s) :=
  .ite hs (hs.upd.foldl Keeps.reportCarats)

theorem Keeps.execDroopDetect {cluster : Nat} (hs : Keeps s₀ s) : Keeps.Out s₀ (execDroopDetect cluster s) :=
  (hs.foldl Keeps.setCore).upd

theorem Keeps.restEmpty (hs : Keeps s₀ s) : Keeps s₀ (restEmpty s) :=
  hs.foldl fun ht => Keeps.ite ht.setDomain ht

theorem Keeps.execGvswWrite {v : W64} (hs : Keeps s₀ s) : Keeps.Out s₀ (execGvswWrite v s) :=
  .ite hs hs.upd.restEmpty

/-! ## The Porsen link -/

theorem Keeps.answerHost {m : OutMsg} (hs : Keeps s₀ s) : Keeps s₀ (answerHost s m) := hs.upd

theorem Keeps.refuseHost {d kind x : Nat} (hs : Keeps s₀ s) : Keeps s₀ (refuseHost s d kind x) :=
  (Keeps.ite hs.logViolation hs).answerHost

theorem Keeps.hostWaits {i : Instr} (hs : Keeps s₀ s) : Keeps s₀ (hostWaits s i) := hs.upd

theorem Keeps.hostReadData {x len : Nat} (hs : Keeps s₀ s) : Keeps s₀ (hostReadData x len s) := by
  unfold Machine.hostReadData
  split
  · exact hs.refuseHost
  · exact Keeps.ite hs.answerHost (.ite hs.hostWaits hs.answerHost)

theorem Keeps.hostPut {pa : Nat} {bytes : List Byte} (hs : Keeps s₀ s) : Keeps s₀ (hostPut s pa bytes) :=
  hs.foldl fun ht => ht.arriveAfter.upd

theorem Keeps.logHostWrite {d pa : Nat} {bytes : List Byte} (hs : Keeps s₀ s) :
    Keeps s₀ (logHostWrite s d pa bytes) := hs.cmEvent

theorem Keeps.hostWriteData {x : Nat} {bytes : List Byte} (hs : Keeps s₀ s) :
    Keeps s₀ (hostWriteData x bytes s) := by
  unfold Machine.hostWriteData
  split
  · exact hs.refuseHost
  · exact Keeps.ite hs.answerHost (.ite hs.refuseHost (.ite hs.hostWaits hs.hostPut.logHostWrite))

theorem Keeps.homeAtomic {op : Nat} {signed h2 : Bool} {pa n operand : Nat} (hs : Keeps s₀ s) :
    Keeps s₀ (homeAtomic s op signed h2 pa n operand).2 := hs.arriveAt

theorem Keeps.outsideEvent {pl who n : Nat} (hs : Keeps s₀ s) : Keeps s₀ (outsideEvent s pl who n) := hs.cmEvent

theorem Keeps.hostAtomicData {op : HostOp} {x : Nat} {wide : Bool} {operand compare : W64} (hs : Keeps s₀ s) :
    Keeps s₀ (hostAtomicData op x wide operand compare s) := by
  unfold Machine.hostAtomicData
  extract_lets
  split
  · exact hs.refuseHost
  · extract_lets
    split
    · exact Keeps.ite hs.answerHost
        (.ite hs.refuseHost (.ite hs.refuseHost (.ite hs.hostWaits hs.outsideEvent.homeAtomic.answerHost)))
    · exact Keeps.ite hs.refuseHost hs.answerHost

theorem Keeps.dropFetch {id : Nat} (hs : Keeps s₀ s) : Keeps s₀ (dropFetch s id) := hs.upd

theorem Keeps.dropPosted {id : Nat} (hs : Keeps s₀ s) : Keeps s₀ (dropPosted s id) := hs.upd

theorem Keeps.freeTags (hs : Keeps s₀ s) : Keeps s₀ (freeTags s).2 := hs.upd

theorem Keeps.fetchServed {f : Fetch} {bytes : List Byte} (hs : Keeps s₀ s) :
    Keeps s₀ (fetchServed s f bytes) :=
  .ite hs
    (.ite hs.engAnswer
      (.ite (.ite hs.dropFetch hs.dropFetch.bufferLine) (hs.freeTags.dropFetch.foldl Keeps.serveAcc)))

theorem Keeps.atomicServed {p : Posted} {old status : Nat} (hs : Keeps s₀ s) :
    Keeps s₀ (atomicServed s p old status) := by
  unfold Machine.atomicServed
  split
  · exact hs.dropPosted
  · split
    · exact hs.dropPosted.dequeResult
    · exact hs.dropPosted.dequeResult
    · exact hs.dropPosted.dequeResult
    · exact hs.dropPosted.atomicResult

theorem Keeps.execHostResponse {id : Nat} {bytes : List Byte} (hs : Keeps s₀ s) :
    Keeps.Out s₀ (execHostResponse id bytes s) := by
  unfold Machine.execHostResponse
  refine Keeps.Out.ite hs ?_
  split
  · exact hs.fetchServed
  · split
    · exact hs
    · exact Keeps.Out.ite
        (Keeps.ite hs.atomicServed (.ite hs hs.dequeFinish))
        (Keeps.ite hs (.ite hs.dequeFinish hs.dropPosted))

theorem Keeps.logGone {d source who addr asid : Nat} (hs : Keeps s₀ s) :
    Keeps s₀ (logGone s d source who addr asid) := hs.logViolation

theorem Keeps.logLost {core asid other : Nat} {accs : List Acc} (hs : Keeps s₀ s) :
    Keeps s₀ (logLost s core asid other accs) := .ite hs.logGone (hs.foldl Keeps.logGone)

theorem Keeps.goneFetch {f : Fetch} (hs : Keeps s₀ s) : Keeps s₀ (goneFetch s f) := by
  unfold Machine.goneFetch
  split
  · exact hs.logGone.engLost
  · exact hs.logLost.dropFetch.logAll

theorem Keeps.goneBeat {p : Posted} {due : Nat} (hs : Keeps s₀ s) : Keeps s₀ (goneBeat s p due) := by
  unfold Machine.goneBeat
  extract_lets
  split
  · exact hs.dropPosted
  · extract_lets
    split
    · exact Keeps.ite hs.dropPosted.logGone.upd hs.dropPosted.logGone.upd.stopRun
    · exact hs.dropPosted.logGone.upd.stopRun

theorem Keeps.gonePosted {p : Posted} (hs : Keeps s₀ s) : Keeps s₀ (gonePosted s p) := by
  unfold Machine.gonePosted
  split
  · exact hs.goneBeat
  · exact Keeps.ite hs.dropPosted.logGone.answerAtomic hs.dropPosted.logGone
  · extract_lets s₁
    have h₁ : Keeps s₀ s₁ := hs.dropPosted
    split
    · exact h₁.logGone
    · exact h₁.logGone.killGroup
    · exact (Keeps.ite h₁.logGone (.ite h₁.logGone h₁.logLost)).logAll

theorem Keeps.execHostLinkTimeout {id : Nat} (hs : Keeps s₀ s) : Keeps.Out s₀ (execHostLinkTimeout id s) := by
  unfold Machine.execHostLinkTimeout
  refine Keeps.Out.ite hs ?_
  split
  · exact hs.goneFetch
  · split
    · exact hs.gonePosted
    · exact hs

/-! ## Messages from peers, and the state of links -/

theorem Keeps.deliver {i : Instr} {m seq clk d : Nat} {pending : Bool} {k : State → Nat → State}
    (hs : Keeps s₀ s) (hk : ∀ {s n}, Keeps s₀ s → Keeps s₀ (k s n)) :
    Keeps s₀ (deliver s i m seq clk d pending k) := by
  unfold Machine.deliver
  refine Keeps.ite hs ?_
  split
  · exact hs.sendAck
  · exact Keeps.ite hs.upd.putOut hs.upd
  · exact hk hs.recvPort.setConn.cmEvent

theorem Keeps.homeReceives {d clk : Nat} (hs : Keeps s₀ s) : Keeps s₀ (homeReceives s d clk) := hs.modDie

theorem Keeps.refusePeer {m seq kind addr : Nat} {log : Bool} {resp : Nat} (hs : Keeps s₀ s) :
    Keeps s₀ (refusePeer s m seq kind addr log resp) := (Keeps.ite hs.logViolation hs).sendPeer

theorem Keeps.atPeerHome {m seq addr n clk : Nat} {resp : Nat} {k : State → State} (hs : Keeps s₀ s)
    (hk : ∀ {s}, Keeps s₀ s → Keeps s₀ (k s)) :
    Keeps s₀ (atPeerHome s m seq addr n clk resp k) :=
  .ite hs.refusePeer (.ite hs.refusePeer (hk hs.homeReceives))

theorem Keeps.execChainRead {peer seq clk addr len : Nat} (hs : Keeps s₀ s) :
    Keeps.Out s₀ (execChainRead peer seq clk addr len s) := hs.deliver fun ht => ht.atPeerHome Keeps.sendPeer

theorem Keeps.chainPut {m seq addr : Nat} {bytes : List Byte} (hs : Keeps s₀ s) :
    Keeps s₀ (chainPut s m seq addr bytes) := hs.foldl fun ht => ht.arriveAfter.setConn

theorem Keeps.execChainWrite {peer seq clk addr : Nat} {bytes : List Byte} (hs : Keeps s₀ s) :
    Keeps.Out s₀ (execChainWrite peer seq clk addr bytes s) := hs.deliver fun ht => ht.atPeerHome Keeps.chainPut

theorem Keeps.peerDeque {m seq : Nat} {o : PeerOp} {addr data : Nat} (hs : Keeps s₀ s) :
    Keeps s₀ (peerDeque s m seq o addr data) := by
  unfold Machine.peerDeque
  extract_lets
  split
  · exact hs.answerAtomic
  · extract_lets
    split
    · exact (hs.dequeElement.snd ‹_›).answerAtomic
    · exact (hs.dequeElement.snd ‹_›).dequeLocal.arriveAt.answerAtomic
    · next e =>
      have h₁ := hs.dequeElement.snd e
      split
      next e =>
      have h₂ := h₁.fresh.snd e
      split
      · exact Keeps.ite h₂.upd.sendPeer h₂.upd.sendRead
      · exact h₂.upd

theorem Keeps.execChainAtomic {peer seq clk : Nat} {o : PeerOp} {addr : Nat} {signed h2 wide : Bool}
    {operand compare : W64} (hs : Keeps s₀ s) :
    Keeps.Out s₀ (execChainAtomic peer seq clk o addr signed h2 wide operand compare s) :=
  hs.deliver fun ht =>
    ht.atPeerHome fun hu =>
      Keeps.ite hu.refusePeer (.ite hu.outsideEvent.peerDeque hu.outsideEvent.homeAtomic.answerAtomic)

theorem Keeps.reduceOne {m seq addr : Nat} {float : Bool} {q : W32 × Nat} (hs : Keeps s₀ s) :
    Keeps s₀ (reduceOne m seq addr float s q) := hs.outsideEvent.arriveAfter.setConn

theorem Keeps.reduceAt {m seq addr : Nat} {float : Bool} {elems : List W32} (hs : Keeps s₀ s) :
    Keeps s₀ (reduceAt s m seq addr float elems) := hs.foldl Keeps.reduceOne

theorem Keeps.execChainReduce {peer seq clk addr : Nat} {float : Bool} {elems : List W32} (hs : Keeps s₀ s) :
    Keeps.Out s₀ (execChainReduce peer seq clk addr float elems s) :=
  hs.deliver fun ht => ht.atPeerHome fun hu => Keeps.ite hu.refusePeer hu.reduceAt

theorem Keeps.answered {m id : Nat} (hs : Keeps s₀ s) : Keeps s₀ (answered s m id) := hs.setConn.sendWaiting

theorem Keeps.readAnswered {m id status : Nat} {bytes : List Byte} (hs : Keeps s₀ s) :
    Keeps s₀ (readAnswered s m id status bytes) := by
  unfold Machine.readAnswered
  extract_lets
  split
  · exact Keeps.ite hs.answered.sendAck.fetchServed hs.answered.sendAck.goneFetch
  · split
    · exact Keeps.ite hs.answered.sendAck.dequeFinish hs.answered.sendAck.gonePosted
    · exact hs.answered.sendAck

theorem Keeps.execChainReadResponse {x : Response} {clk : Nat} {bytes : List Byte} (hs : Keeps s₀ s) :
    Keeps.Out s₀ (execChainReadResponse x clk bytes s) := hs.deliver Keeps.readAnswered

theorem Keeps.atomicAnswered {m clk id status : Nat} {old : W64} (hs : Keeps s₀ s) :
    Keeps s₀ (atomicAnswered s m clk id status old) := by
  unfold Machine.atomicAnswered
  extract_lets s₁
  have h₁ : Keeps s₀ s₁ := hs.answered.sendAck
  split
  · exact h₁
  split
  · exact .ite h₁.dropPosted h₁.gonePosted
  · extract_lets s₂
    have h₂ : Keeps s₀ s₂ := h₁.receiveClock
    exact .ite h₂.atomicServed (.ite h₂.gonePosted h₂.dropPosted.logAccess)

theorem Keeps.execChainAtomicResponse {x : Response} {clk : Nat} {old : W64} (hs : Keeps s₀ s) :
    Keeps.Out s₀ (execChainAtomicResponse x clk old s) := hs.deliver Keeps.atomicAnswered

theorem Keeps.settleAcked {m : Nat} (hs : Keeps s₀ s) : Keeps s₀ (settleAcked s m) :=
  hs.foldl fun ht => Keeps.ite ht.dequeFinish ht.dropPosted

theorem Keeps.execChainAck {peer ack : Nat} (hs : Keeps s₀ s) : Keeps.Out s₀ (execChainAck peer ack s) :=
  .ite hs (hs.setConn.settleAcked.foldl Keeps.sendWaiting)

theorem Keeps.resend {m : Nat} (hs : Keeps s₀ s) : Keeps s₀ (resend s m) := hs.setConn.putOut

theorem Keeps.execChainNak {peer : Nat} (hs : Keeps s₀ s) : Keeps.Out s₀ (execChainNak peer s) :=
  Keeps.ite hs.resend hs

theorem Keeps.execChainRetransmitTimeout {peer : Nat} (hs : Keeps s₀ s) :
    Keeps.Out s₀ (execChainRetransmitTimeout peer s) := Keeps.ite hs hs.resend

theorem Keeps.dropWindows {m d : Nat} (hs : Keeps s₀ s) : Keeps s₀ (dropWindows s m d) := .ite hs hs.setDie

theorem Keeps.execPeerLinkDown {module : Nat} (hs : Keeps s₀ s) : Keeps.Out s₀ (execPeerLinkDown module s) :=
  ((hs.upd.foldl Keeps.dropWindows).setConn.upd.foldl Keeps.goneFetch).foldl Keeps.gonePosted

theorem Keeps.execPeerLost {peer : Nat} (hs : Keeps s₀ s) : Keeps.Out s₀ (execPeerLost peer s) :=
  .ite hs hs.execPeerLinkDown

theorem Keeps.downPort {q : Nat} (hs : Keeps s₀ s) : Keeps s₀ (downPort s q) := hs.upd.setPort.upd

theorem Keeps.execLinkDown {port : Nat} (hs : Keeps s₀ s) : Keeps.Out s₀ (execLinkDown port s) :=
  Keeps.ite hs.downPort hs

theorem Keeps.execLinkUp {port lanes : Nat} (hs : Keeps s₀ s) : Keeps.Out s₀ (execLinkUp port lanes s) := by
  unfold Machine.execLinkUp
  split
  · exact hs
  · exact Keeps.Out.ite hs hs.setPort.upd

theorem Keeps.resendPort {q : Nat} (hs : Keeps s₀ s) : Keeps s₀ (resendPort s q) := hs.foldl Keeps.resend

theorem Keeps.execLaneShed {port healthy : Nat} (hs : Keeps s₀ s) :
    Keeps.Out s₀ (execLaneShed port healthy s) := .ite hs (.ite hs.downPort hs.setPort.resendPort)

theorem Keeps.execLaneRestore {port lanes : Nat} (hs : Keeps s₀ s) :
    Keeps.Out s₀ (execLaneRestore port lanes s) := .ite hs hs.setPort.resendPort

end Sys2Proof.Machine
end

section
namespace Sys2Proof.Machine
variable {s₀ s t : State}

/-! ## Power, boot and reports -/

/-- A reset leaves nothing in memory and no team. -/
theorem Keeps.resetKeeping {b : Bool} : Keeps s₀ (resetKeeping s b) :=
  ⟨fun _ => Memory.wf_empty, fun _ _ hk => by cases hk⟩

theorem Keeps.execPowerOnReset : Keeps.Out s₀ (execPowerOnReset s) := Keeps.resetKeeping.upd

theorem Keeps.execPowerOff : Keeps.Out s₀ (execPowerOff s) := Keeps.resetKeeping

theorem Keeps.execBootVerify {signed : Bool} {found : List Byte} (hs : Keeps s₀ s) :
    Keeps.Out s₀ (execBootVerify signed found s) := .ite hs (.ite hs.upd hs.upd)

theorem Keeps.execLkcmdReport {v : W64} (hs : Keeps s₀ s) : Keeps.Out s₀ (execLkcmdReport v s) :=
  Keeps.ite hs.upd hs

theorem Keeps.execReportComplete (hs : Keeps s₀ s) : Keeps.Out s₀ (execReportComplete s) := by
  unfold Machine.execReportComplete
  split
  · exact hs
  · exact (Keeps.ite (hs.foldl Keeps.engineWrite) hs).upd

/-! ## Management registers -/

theorem Keeps.setLq {part q off : Nat} {v : W64} (hs : Keeps s₀ s) : Keeps s₀ (setLq s part q off v) :=
  hs.modPart

theorem Keeps.execLqtailWrite {part queue : Nat} {v : W64} (hs : Keeps s₀ s) :
    Keeps.Out s₀ (execLqtailWrite part queue v s) := Keeps.ite hs hs.setLq

theorem Keeps.execLqctlWrite {part queue : Nat} {v : W64} (hs : Keeps s₀ s) :
    Keeps.Out s₀ (execLqctlWrite part queue v s) := .ite hs (Keeps.ite hs.setLq hs.setLq.disableQueue)

theorem Keeps.execLqctxWrite {part queue : Nat} {v : W64} (hs : Keeps s₀ s) :
    Keeps.Out s₀ (execLqctxWrite part queue v s) := Keeps.ite hs hs.setLq

theorem Keeps.execDpcfgWrite {part : Nat} {v : W64} (hs : Keeps s₀ s) :
    Keeps.Out s₀ (execDpcfgWrite part v s) := Keeps.ite hs hs.modPart

theorem Keeps.execDtbaseWrite {die : Nat} {v : W64} (hs : Keeps s₀ s) :
    Keeps.Out s₀ (execDtbaseWrite die v s) := Keeps.ite hs hs.modDie

theorem Keeps.dpcmdWrite {part : Nat} {v : W64} (hs : Keeps s₀ s) : Keeps.Out s₀ (dpcmdWrite s part v) := by
  unfold Machine.dpcmdWrite
  split
  · exact hs.execDpcmdResume
  · exact hs.execDpcmdKill
  · exact hs.execDpcmdSwapOut
  · exact hs.execDpcmdPreemptHold
  · exact hs.execDpcmdPreemptRequeue
  · exact hs.execDpcmdRelease
  · exact hs

theorem Keeps.dieWrite {d off : Nat} {v : W64} (hs : Keeps s₀ s) : Keeps s₀ (dieWrite s d off v) :=
  .ite hs.modDie.modDie (.ite hs.modDie.modDie hs.modDie)

theorem Keeps.dispatcherWrite {p off : Nat} {v : W64} (hs : Keeps s₀ s) :
    Keeps.Out s₀ (dispatcherWrite s p off v) :=
  .ite
    hs.execDpcfgWrite
    (.ite hs.dpcmdWrite (.ite hs.execLqctlWrite (.ite hs.execLqctxWrite (.ite hs.execLqtailWrite hs.modPart))))

theorem Keeps.chainWriteReg {q off : Nat} {v : W64} (hs : Keeps s₀ s) : Keeps s₀ (chainWriteReg s q off v) :=
  .ite (Keeps.ite hs.downPort hs).setPort hs.setPort

theorem Keeps.execRegisterWrite {offset : Nat} {v : W64} (hs : Keeps s₀ s) :
    Keeps.Out s₀ (execRegisterWrite offset v s) := by
  unfold Machine.execRegisterWrite
  refine Keeps.Out.ite hs (.ite hs.answerHost (.ite hs ?_))
  split
  · exact Keeps.Out.ite hs.execLkcmdReport (.ite hs hs.upd)
  · exact Keeps.Out.ite hs.execDtbaseWrite (Keeps.ite hs hs.dieWrite)
  · exact Keeps.Out.ite hs.execGvswWrite (Keeps.ite hs hs.upd)
  · exact Keeps.Out.ite hs hs.dispatcherWrite
  · exact Keeps.ite hs hs.chainWriteReg
  · exact Keeps.ite hs hs.setCore
  · exact hs

theorem Keeps.execHostRead {x : HostAddr} {len : Nat} (hs : Keeps s₀ s) :
    Keeps.Out s₀ (execHostRead x len s) := by
  unfold Machine.execHostRead
  refine Keeps.Out.ite hs ?_
  split
  · exact hs.hostReadData
  · exact Keeps.ite hs.hostWaits hs.answerHost

theorem Keeps.execHostWrite {x : HostAddr} {bytes : List Byte} (hs : Keeps s₀ s) :
    Keeps.Out s₀ (execHostWrite x bytes s) := by
  unfold Machine.execHostWrite
  refine Keeps.Out.ite hs ?_
  split
  · exact hs.hostWriteData
  · exact Keeps.Out.ite hs.hostWaits (.ite hs.execRegisterWrite hs.answerHost)

theorem Keeps.execHostAtomic {op : HostOp} {x : HostAddr} {wide : Bool} {operand compare : W64}
    (hs : Keeps s₀ s) : Keeps.Out s₀ (execHostAtomic op x wide operand compare s) := by
  unfold Machine.execHostAtomic
  refine Keeps.Out.ite hs ?_
  split
  · exact hs.hostAtomicData
  · exact Keeps.ite hs.hostWaits hs.answerHost

/-! ## Samples, replay and errors -/

theorem Keeps.execSampleLatch {die : Nat} (hs : Keeps s₀ s) : Keeps.Out s₀ (execSampleLatch die s) :=
  .ite hs (hs.foldl Keeps.engineWrite).modDie

theorem Keeps.execCameoHoldTimeout {die : Nat} (hs : Keeps s₀ s) : Keeps.Out s₀ (execCameoHoldTimeout die s) :=
  Keeps.ite (Keeps.ite hs hs.modDie).cmDiverge.modDie (.ite hs hs.modDie)

theorem Keeps.replayRecord {q handle : Nat} {bytes : List Byte} (hs : Keeps s₀ s) :
    Keeps s₀ (replayRecord s q handle bytes) :=
  .ite hs.readContext.judge.modPart.enterQueue hs.readContext.judge.modPart

theorem Keeps.execCameoReplay {die : Nat} (hs : Keeps s₀ s) : Keeps.Out s₀ (execCameoReplay die s) := by
  unfold Machine.execCameoReplay
  refine Keeps.Out.ite hs ?_
  split
  · exact hs.cmDiverge
  · exact hs.cmConsume.hostPut
  · exact Keeps.Out.ite hs hs.cmConsume.replayRecord
  · exact hs

theorem Keeps.poisonAt {unit_ who addr : Nat} {at_ : List Nat} (hs : Keeps s₀ s) :
    Keeps s₀ (poisonAt s unit_ who addr at_) := by
  unfold Machine.poisonAt
  split
  · exact hs.setVreg
  · exact hs.setKreg
  · exact hs.modTeam fun t => by split <;> rfl
  · exact hs.setCore
  · exact hs.modDie
  · exact .ite hs hs.upd
  · exact .ite hs hs.upd
  · exact hs.setTile
  · exact hs

theorem Keeps.execErrorDetected {die unit_ who addr : Nat} {at_ : List Nat} {corrected : Bool} (hs : Keeps s₀ s) :
    Keeps.Out s₀ (execErrorDetected die unit_ who addr at_ corrected s) :=
  .ite hs (.ite hs.bumpDie.logError hs.logError.poisonAt)

theorem Keeps.execKnownAnswerInjection {core : Nat} {mismatch : Bool} (hs : Keeps s₀ s) :
    Keeps.Out s₀ (execKnownAnswerInjection core mismatch s) := .ite hs hs.setCore

theorem Keeps.clearCluster {cl : Nat} (hs : Keeps s₀ s) : Keeps s₀ (clearCluster s cl) := hs.foldl Keeps.setCore

theorem Keeps.execScanSelfTest {part : Nat} {fail : Bool} (hs : Keeps s₀ s) :
    Keeps.Out s₀ (execScanSelfTest part fail s) := by
  unfold Machine.execScanSelfTest
  extract_lets p
  split
  · exact hs
  · extract_lets s₁ d a s₂ s₃
    have h₃ : Keeps s₀ s₃ := hs.flushCluster.clearCluster.modDie.modPart
    exact Keeps.ite h₃.logError.queueNotice h₃

/-! ## TREE -/

theorem Keeps.commitPath {r : FragRef} {slot : Nat} {p : Path} (hs : Keeps s₀ s) :
    Keeps s₀ (commitPath s r slot p) :=
  (((hs.tickLane.foldl Keeps.popQueue).foldl Keeps.putVs).setTeam.foldl Keeps.produce).orFlags.chargeAt.tickLane

theorem Keeps.treeBody {i : Instr} {t : Tree} {r : FragRef} {slot : Nat} (hs : Keeps s₀ s) :
    Keeps.Res s₀ (treeBody i t r s slot) := by
  unfold Machine.treeBody
  extract_lets start walk s₁
  have h₁ : Keeps s₀ s₁ := by
    dsimp only [s₁]
    split
    · exact hs.awaitRegs.foldl Keeps.awaitK
    · exact hs
  clear_value s₁
  split
  · exact h₁
  split
  · exact h₁
  · exact (Keeps.ite h₁ h₁.switchRegion).commitPath.setSucc

theorem Keeps.execTree {t : Tree} (hs : Keeps s₀ s) : Keeps.Out s₀ (execTree t s) :=
  hs.strandPass Keeps.treeBody Keeps.splitEnd

end Sys2Proof.Machine
end

section
namespace Sys2Proof.Machine
variable {s₀ s t : State}

theorem Keeps.exec {i : Instr} (hs : Keeps s₀ s) : Keeps.Out s₀ (exec i s) := by
  cases i with
  | nop => exact hs.execNop
  | mov => exact hs.execMov
  | add => exact hs.execAdd
  | sub => exact hs.execSub
  | mul => exact hs.execMul
  | mulh => exact hs.execMulh
  | mad => exact hs.execMad
  | addc => exact hs.execAddc
  | subb => exact hs.execSubb
  | min => exact hs.execMin
  | max => exact hs.execMax
  | abs => exact hs.execAbs
  | neg => exact hs.execNeg
  | and => exact hs.execAnd
  | or => exact hs.execOr
  | xor => exact hs.execXor
  | andn => exact hs.execAndn
  | shl => exact hs.execShl
  | shr => exact hs.execShr
  | sar => exact hs.execSar
  | rot => exact hs.execRot
  | bfx => exact hs.execBfx
  | bfi => exact hs.execBfi
  | popc => exact hs.execPopc
  | clz => exact hs.execClz
  | ctz => exact hs.execCtz
  | fnsb => exact hs.execFnsb
  | brev => exact hs.execBrev
  | sel => exact hs.execSel
  | cmp => exact hs.execCmp
  | plog => exact hs.execPlog
  | pmov => exact hs.execPmov
  | fadd => exact hs.execFadd
  | fsub => exact hs.execFsub
  | fmul => exact hs.execFmul
  | ffma => exact hs.execFfma
  | fmin => exact hs.execFmin
  | fmax => exact hs.execFmax
  | fcmp => exact hs.execFcmp
  | fcls => exact hs.execFcls
  | rcp => exact hs.execRcp
  | rsq => exact hs.execRsq
  | sqrt => exact hs.execSqrt
  | ex2 => exact hs.execEx2
  | lg2 => exact hs.execLg2
  | sinp => exact hs.execSinp
  | cosp => exact hs.execCosp
  | tanh => exact hs.execTanh
  | cvt => exact hs.execCvt
  | cvtef => exact hs.execCvtef
  | qblk => exact hs.execQblk
  | pack => exact hs.execPack
  | unpk => exact hs.execUnpk
  | dot4 => exact hs.execDot4
  | fdot2 => exact hs.execFdot2
  | blut => exact hs.execBlut
  | mfs => exact hs.execMfs
  | mts => exact hs.execMts
  | tree => exact hs.execTree
  | br => exact hs.execBr
  | bru => exact hs.execBru
  | jmpi => exact hs.execJmpi
  | call => exact hs.execCall
  | calli => exact hs.execCalli
  | ret => exact hs.execRet
  | rjn => exact hs.execRjn
  | rjnRelease => exact hs.execRjnRelease
  | regroup => exact hs.execRegroup
  | regroupRelease => exact hs.execRegroupRelease
  | exit => exact hs.execExit
  | region => exact hs.execRegion
  | trap => exact hs.execTrap
  | iret => exact hs.execIret
  | bkpt => exact hs.execBkpt
  | sigchk => exact hs.execSigchk
  | sigrst => exact hs.execSigrst
  | xchg => exact hs.execXchg
  | xshf => exact hs.execXshf
  | scan => exact hs.execScan
  | red => exact hs.execRed
  | vote => exact hs.execVote
  | bcst => exact hs.execBcst
  | rbal => exact hs.execRbal
  | shfx => exact hs.execShfx
  | stepRel => exact hs.execStepRel
  | stepAbs => exact hs.execStepAbs
  | stepEnd => exact hs.execStepEnd
  | launch => exact hs.execLaunch
  | trc => exact hs.execTrc
  | lclk => exact hs.execLclk
  | lclkMrg => exact hs.execLclkMrg
  | haltbTeam => exact hs.execHaltbTeam
  | haltbTrel => exact hs.execHaltbTrel
  | haltbCtx => exact hs.execHaltbCtx
  | haltbCrel => exact hs.execHaltbCrel
  | inspKreg => exact hs.execInspKreg
  | inspVreg => exact hs.execInspVreg
  | inspGrp => exact hs.execInspGrp
  | inspFrag => exact hs.execInspFrag
  | inspLmem => exact hs.execInspLmem
  | inspLfe => exact hs.execInspLfe
  | inspBar => exact hs.execInspBar
  | inspQueue => exact hs.execInspQueue
  | cmntInst => exact hs.execCmntInst
  | cmntIpkg => exact hs.execCmntIpkg
  | cmntWb => exact hs.execCmntWb
  | atlbiPage => exact hs.execAtlbiPage
  | atlbiAsid => exact hs.execAtlbiAsid
  | atlbiAll => exact hs.execAtlbiAll
  | ld => exact hs.execLd
  | st => exact hs.execSt
  | ldline => exact hs.execLdline
  | stline => exact hs.execStline
  | ldf => exact hs.execLdf
  | stf => exact hs.execStf
  | pref => exact hs.execPref
  | tagst => exact hs.execTagst
  | tagld => exact hs.execTagld
  | aadd => exact hs.execAadd
  | amin => exact hs.execAmin
  | amax => exact hs.execAmax
  | aand => exact hs.execAand
  | aor => exact hs.execAor
  | axor => exact hs.execAxor
  | aswp => exact hs.execAswp
  | acas => exact hs.execAcas
  | afadd => exact hs.execAfadd
  | ainc => exact hs.execAinc
  | dqpush => exact hs.execDqpush
  | dqpop => exact hs.execDqpop
  | dqsteal => exact hs.execDqsteal
  | fence => exact hs.execFence
  | waitc => exact hs.execWaitc
  | bar => exact hs.execBar
  | bara => exact hs.execBara
  | barw => exact hs.execBarw
  | clinit => exact hs.execClinit
  | clarr => exact hs.execClarr
  | clwait => exact hs.execClwait
  | cltry => exact hs.execCltry
  | qtry => exact hs.execQtry
  | cpy => exact hs.execCpy
  | cpyp => exact hs.execCpyp
  | cpyg => exact hs.execCpyg
  | cpys => exact hs.execCpys
  | cpyr => exact hs.execCpyr
  | mma => exact hs.execMma
  | mmas => exact hs.execMmas
  | msca => exact hs.execMsca
  | acz => exact hs.execAcz
  | acrd => exact hs.execAcrd
  | acwr => exact hs.execAcwr
  | registerFill => exact hs.execRegisterFill
  | issueCycle => exact hs.execIssueCycle
  | urgentPromotion => exact hs.execUrgentPromotion
  | spillRotation => exact hs.execSpillRotation
  | handlerEntry => exact hs.execHandlerEntry
  | homeFetch => exact hs.execHomeFetch
  | postedArrival => exact hs.execPostedArrival
  | storeVisible => exact hs.execStoreVisible
  | atomicArrival => exact hs.execAtomicArrival
  | dequeAtHome => exact hs.execDequeAtHome
  | leaseExpiry => exact hs.execLeaseExpiry
  | privateSectorArrival => exact hs.execPrivateSectorArrival
  | mscWriteback => exact hs.execMscWriteback
  | atlbFill => exact hs.execAtlbFill
  | translationWalk => exact hs.execTranslationWalk
  | peerLinkDown => exact hs.execPeerLinkDown
  | copyEngineStart => exact hs.execCopyEngineStart
  | copySourceArrival => exact hs.execCopySourceArrival
  | copyBeatDelivery => exact hs.execCopyBeatDelivery
  | claspRemoteDecrement => exact hs.execClaspRemoteDecrement
  | copyComplete => exact hs.execCopyComplete
  | arrayFillStart => exact hs.execArrayFillStart
  | matrixCommandComplete => exact hs.execMatrixCommandComplete
  | portCommandStart => exact hs.execPortCommandStart
  | matrixSlotBoundary => exact hs.execMatrixSlotBoundary
  | knownAnswerInjection => exact hs.execKnownAnswerInjection
  | placementDecision => exact hs.execPlacementDecision
  | teamStart => exact hs.execTeamStart
  | ringEntryAccept => exact hs.execRingEntryAccept
  | launchRunArrival => exact hs.execLaunchRunArrival
  | childQueueEntry => exact hs.execChildQueueEntry
  | reservationTake => exact hs.execReservationTake
  | placeStarved => exact hs.execPlaceStarved
  | teamRetire => exact hs.execTeamRetire
  | launchRetire => exact hs.execLaunchRetire
  | noticeDelivery => exact hs.execNoticeDelivery
  | dpcmdResume => exact hs.execDpcmdResume
  | dpcmdKill => exact hs.execDpcmdKill
  | dpcmdSwapOut => exact hs.execDpcmdSwapOut
  | dpcmdPreemptHold => exact hs.execDpcmdPreemptHold
  | dpcmdPreemptRequeue => exact hs.execDpcmdPreemptRequeue
  | dpcmdRelease => exact hs.execDpcmdRelease
  | preemptSave => exact hs.execPreemptSave
  | autoSwapOut => exact hs.execAutoSwapOut
  | selfTestDrain => exact hs.execSelfTestDrain
  | scanSelfTest => exact hs.execScanSelfTest
  | lqtailWrite => exact hs.execLqtailWrite
  | lqctlWrite => exact hs.execLqctlWrite
  | lqctxWrite => exact hs.execLqctxWrite
  | dpcfgWrite => exact hs.execDpcfgWrite
  | dtbaseWrite => exact hs.execDtbaseWrite
  | gvswWrite => exact hs.execGvswWrite
  | registerWrite => exact hs.execRegisterWrite
  | controlTick => exact hs.execControlTick
  | vfTransitionDone => exact hs.execVfTransitionDone
  | quotaPeriodStart => exact hs.execQuotaPeriodStart
  | quotaReport => exact hs.execQuotaReport
  | droopDetect => exact hs.execDroopDetect
  | sampleLatch => exact hs.execSampleLatch
  | cameoHoldTimeout => exact hs.execCameoHoldTimeout
  | errorDetected => exact hs.execErrorDetected
  | hostRead => exact hs.execHostRead
  | hostWrite => exact hs.execHostWrite
  | hostAtomic => exact hs.execHostAtomic
  | hostLinkTimeout => exact hs.execHostLinkTimeout
  | chainRead => exact hs.execChainRead
  | chainReadResponse => exact hs.execChainReadResponse
  | chainWrite => exact hs.execChainWrite
  | chainAtomic => exact hs.execChainAtomic
  | chainAtomicResponse => exact hs.execChainAtomicResponse
  | chainAck => exact hs.execChainAck
  | chainNak => exact hs.execChainNak
  | chainReduce => exact hs.execChainReduce
  | chainRetransmitTimeout => exact hs.execChainRetransmitTimeout
  | peerLost => exact hs.execPeerLost
  | laneShed => exact hs.execLaneShed
  | laneRestore => exact hs.execLaneRestore
  | linkDown => exact hs.execLinkDown
  | linkUp => exact hs.execLinkUp
  | powerOnReset => exact Keeps.execPowerOnReset
  | bootVerify => exact hs.execBootVerify
  | powerOff => exact Keeps.execPowerOff
  | lkcmdReport => exact hs.execLkcmdReport
  | reportComplete => exact hs.execReportComplete
  | hostResponse => exact hs.execHostResponse
  | portCommandComplete => exact hs.execPortCommandComplete
  | cameoReplay => exact hs.execCameoReplay

theorem Keeps.firstMove {l : List Instr} {rest : Host.Outcome State Fault Refusal} (hs : Keeps s₀ s)
    (hr : Keeps.Out s₀ rest) : Keeps.Out s₀ (firstMove s l rest) := by
  unfold Machine.firstMove
  split
  · exact hs.exec
  · exact hr

theorem Keeps.serveInbox {k : Nat} (hs : Keeps s₀ s) : Keeps.Out s₀ (serveInbox s k) := by
  unfold Machine.serveInbox
  have h : Keeps.Out s₀
      (Machine.exec (s.inbox.getD k .matrixSlotBoundary) { s with inbox := s.inbox.take k }) := hs.upd.exec
  split
  next e => exact (h.next e).upd
  · exact h

theorem Keeps.idleStep (hs : Keeps s₀ s) : Keeps.Out s₀ (idleStep s) := by
  refine hs.firstMove ?_
  split
  · exact hs.serveInbox
  · exact hs.firstMove hs.exec

theorem Keeps.step (hs : Keeps s₀ s) : Keeps.Out s₀ (step s) := by
  unfold Machine.step
  split
  · exact Keeps.Out.ite hs.upd (.ite hs.upd hs.upd.exec)
  · refine Keeps.Out.ite trivial ?_
    split
    · split
      next e => exact (hs.fetchCurrent.snd e).exec
      next e => exact hs.fetchCurrent.snd e
    · split
      · exact hs.upd
      · exact hs.idleStep

/-- Settles O7: nothing is stored and no team is placed. -/
theorem resetMemoryOk : Obligations.ResetMemoryOk := by
  unfold Obligations.ResetMemoryOk
  exact ⟨Memory.wf_empty, fun _ h => by cases h⟩

/-- Settles O8: every function from which a step is made keeps both forms. -/
theorem stepKeepsMemoryForm : Obligations.StepKeepsMemoryForm := by
  unfold Obligations.StepKeepsMemoryForm
  have keeps {s t : State} (e : Machine.step s = .next t) : Keeps s t := (Keeps.refl s).step.next e
  exact ⟨fun _ _ hm e => (keeps e).mem hm, fun _ _ hl e => (keeps e).loc hl⟩

end Sys2Proof.Machine
end

section
/-! PROOF. Words and their fields: a word laid out from fields is cut into the same fields again. -/

namespace Sys2Proof

/-! ## Fields of a number -/

/-- Cutting what was laid out gives each field as far as its width reaches. -/
theorem unpackFields_packFields (l : List (Nat × Nat)) :
    unpackFields (l.map Prod.fst) (packFields l) = l.map (fun p => p.2 % 2 ^ p.1) := by
  induction l with
  | nil => rfl
  | cons p r ih =>
    obtain ⟨w, v⟩ := p
    have hpos : 0 < 2 ^ w := Nat.two_pow_pos w
    have hlow : (v % 2 ^ w + 2 ^ w * packFields r) % 2 ^ w = v % 2 ^ w := by simp
    have hhigh : (v % 2 ^ w + 2 ^ w * packFields r) / 2 ^ w = packFields r := by
      rw [Nat.add_mul_div_left _ _ hpos, Nat.div_eq_of_lt (Nat.mod_lt _ hpos), Nat.zero_add]
    simp [packFields, unpackFields, hlow, hhigh, ih]

theorem packFields_lt (l : List (Nat × Nat)) : packFields l < 2 ^ (l.map Prod.fst).sum := by
  induction l with
  | nil => simp [packFields]
  | cons p r ih =>
    obtain ⟨w, v⟩ := p
    have hv : v % 2 ^ w < 2 ^ w := Nat.mod_lt _ (Nat.two_pow_pos w)
    have hr : 2 ^ w * (packFields r + 1) ≤ 2 ^ w * 2 ^ (r.map Prod.fst).sum := Nat.mul_le_mul_left _ ih
    simp only [packFields, List.map_cons, List.sum_cons, Nat.pow_add]
    rw [Nat.mul_add] at hr
    omega

/-- What stands above the first fields is the rest. -/
theorem packFields_append_div (l r : List (Nat × Nat)) :
    packFields (l ++ r) / 2 ^ (l.map Prod.fst).sum = packFields r := by
  induction l with
  | nil => simp
  | cons p l ih =>
    obtain ⟨w, v⟩ := p
    have hpos : 0 < 2 ^ w := Nat.two_pow_pos w
    simp only [List.cons_append, packFields, List.map_cons, List.sum_cons, Nat.pow_add]
    rw [← Nat.div_div_eq_div_mul, Nat.add_mul_div_left _ _ hpos, Nat.div_eq_of_lt (Nat.mod_lt _ hpos), Nat.zero_add, ih]

/-- A word whose fields fill 64 bits is cut into them again. -/
theorem unpackFields_word {l : List (Nat × Nat)} {ws : List Nat} (hl : l.map Prod.fst = ws) (h : ws.sum = 64) :
    unpackFields ws (BitVec.ofNat 64 (packFields l)).toNat = l.map (fun p => p.2 % 2 ^ p.1) := by
  subst hl
  rw [BitVec.toNat_ofNat, Nat.mod_eq_of_lt (h ▸ packFields_lt l), unpackFields_packFields]

/-- The opcode, the last of the fields, is the byte that names the instruction (R25). -/
theorem opByte_word {l : List (Nat × Nat)} {op : Nat} (h : (l.map Prod.fst).sum = 64)
    (hl : l.getLast? = some (8, op)) (hop : op < 256) : opByte (.ofNat 64 (packFields l)) = op := by
  obtain ⟨r, rfl⟩ := List.getLast?_eq_some_iff.mp hl
  have h56 : (r.map Prod.fst).sum = 56 := by simpa using h
  rw [opByte, BitVec.toNat_ofNat, Nat.mod_eq_of_lt (h ▸ packFields_lt _), ← h56, packFields_append_div]
  simp [packFields, Nat.mod_eq_of_lt hop]

@[simp] theorem bit01_mod_two (b : Bool) : bit01 b % 2 = bit01 b := by cases b <;> rfl
/-- Bit 7 is the second field where a word begins with the reserved bits of Format A (R28). -/
theorem bit7_word {b : Bool} {r : List (Nat × Nat)} (h : (r.map Prod.fst).sum = 56) :
    (BitVec.ofNat 64 (packFields ((7, 0) :: (1, bit01 b) :: r))).toNat / 128 % 2 = bit01 b := by
  have hlt : packFields ((7, 0) :: (1, bit01 b) :: r) < 2 ^ 64 := by
    simpa [h] using packFields_lt ((7, 0) :: (1, bit01 b) :: r)
  rw [BitVec.toNat_ofNat, Nat.mod_eq_of_lt hlt]
  simp only [packFields]
  have hb : bit01 b ≤ 1 := by cases b <;> decide
  omega

@[simp] theorem bit01_beq_one (b : Bool) : (bit01 b == 1) = b := by cases b <;> rfl
@[simp] theorem bit01_eq_one_iff (b : Bool) : bit01 b = 1 ↔ b = true := by cases b <;> simp [bit01]

/-! ## Codes -/

@[simp] theorem Ty.ofCode_code (t : Ty) : Ty.ofCode t.code = some t := by cases t <;> rfl
@[simp] theorem Mode.ofCode_code (m : Mode) : Mode.ofCode m.code = some m := by cases m <;> rfl
@[simp] theorem Space.ofCode_code (x : Space) : Space.ofCode x.code = some x := by cases x <;> rfl
@[simp] theorem Cond.ofCode_code (c : Cond) : Cond.ofCode c.code = some c := by cases c <;> rfl
@[simp] theorem TestKind.ofCode_code (k : TestKind) : TestKind.ofCode k.code = some k := by cases k <;> rfl
@[simp] theorem LeafKind.ofCode_code (k : LeafKind) : LeafKind.ofCode k.code = k := by cases k <;> rfl
@[simp] theorem SReg.ofCode_code (r : SReg) : SReg.ofCode r.code = some r := by cases r <;> rfl
@[simp] theorem AluOp.ofCode_code (o : AluOp) : AluOp.ofCode o.code = some o := by cases o <;> rfl

theorem Ty.code_lt (t : Ty) : t.code < 32 := by cases t <;> decide
theorem Mode.code_lt (m : Mode) : m.code < 8 := by cases m <;> decide
theorem Space.code_lt (x : Space) : x.code < 8 := by cases x <;> decide
theorem Cond.code_lt (c : Cond) : c.code < 16 := by cases c <;> decide
theorem TestKind.code_lt (k : TestKind) : k.code < 16 := by cases k <;> decide
theorem LeafKind.code_lt (k : LeafKind) : k.code < 4 := by cases k <;> decide
theorem SReg.code_lt (r : SReg) : r.code < 4096 := by cases r <;> decide
theorem AluOp.code_le (o : AluOp) : o.code ≤ 0x37 := by cases o <;> decide

@[simp] theorem Ty.code_mod (t : Ty) : t.code % 2 ^ 5 = t.code := Nat.mod_eq_of_lt t.code_lt
@[simp] theorem Mode.code_mod (m : Mode) : m.code % 2 ^ 3 = m.code := Nat.mod_eq_of_lt m.code_lt
@[simp] theorem Space.code_mod (x : Space) : x.code % 2 ^ 3 = x.code := Nat.mod_eq_of_lt x.code_lt
@[simp] theorem Cond.code_mod (c : Cond) : c.code % 2 ^ 4 = c.code := Nat.mod_eq_of_lt c.code_lt
@[simp] theorem TestKind.code_mod (k : TestKind) : k.code % 2 ^ 4 = k.code := Nat.mod_eq_of_lt k.code_lt
@[simp] theorem SReg.code_mod (r : SReg) : r.code % 2 ^ 12 = r.code := Nat.mod_eq_of_lt r.code_lt

/-! ## Formats M, B, S and E, and the test word -/

theorem opByte_wordM {op : Nat} (h : op < 256) (f : FmtM) : opByte (wordM op f) = op := by
  rw [wordM, opByte_word rfl rfl h]

theorem fieldsM_wordM (op : Nat) (f : FmtM) : fieldsM (wordM op f) = some f := by
  have hna : bit01 f.na % 2 ^ 2 = bit01 f.na := by cases f.na <;> rfl
  have hle : bit01 f.na ≤ 1 := by cases f.na <;> decide
  rw [fieldsM, wordM, unpackFields_word (ws := widthsM) rfl rfl]
  simp [-Nat.reducePow, hna, hle]

theorem opByte_wordB {op : Nat} (h : op < 256) (f : FmtB) : opByte (wordB op f) = op := by
  rw [wordB, opByte_word rfl rfl h]

theorem fieldsB_wordB (op : Nat) (f : FmtB) : fieldsB (wordB op f) = some f := by
  rw [fieldsB, wordB, unpackFields_word (ws := widthsB) rfl rfl]
  simp [-Nat.reducePow]

theorem opByte_wordS {op : Nat} (h : op < 256) (f : FmtS) : opByte (wordS op f) = op := by
  rw [wordS, opByte_word rfl rfl h]

theorem fieldsS_wordS (op : Nat) (f : FmtS) : fieldsS (wordS op f) = some f := by
  rw [fieldsS, wordS, unpackFields_word (ws := widthsS) rfl rfl]
  simp [-Nat.reducePow]

theorem opByte_wordE {op : Nat} (h : op < 256) (f : FmtE) : opByte (wordE op f) = op := by
  rw [wordE, opByte_word rfl rfl h]

theorem fieldsE_wordE (op : Nat) (f : FmtE) : fieldsE (wordE op f) = some f := by
  rw [fieldsE, wordE, unpackFields_word (ws := widthsE) rfl rfl]
  simp [-Nat.reducePow]

theorem fieldsTest_wordTest (n : TestNode) : fieldsTest (wordTest n) = some n := by
  rw [fieldsTest, wordTest, unpackFields_word (ws := widthsTest) rfl rfl]
  simp [-Nat.reducePow]

/-! ## Format A -/

theorem opByte_wordA {op : Nat} (h : op < 256) (f : FmtA) (t : Byte) : opByte (wordA op f t) = op :=
  opByte_word (by simp) (by simp) h

/-- Bit 7, the long bit, says whether a literal follows (R25, R28). -/
theorem longBit_wordA (op : Nat) (f : FmtA) (t : Byte) :
    (wordA op f t).toNat / 128 % 2 = bit01 f.lit.isSome :=
  bit7_word (by simp)

/-- The byte of BLUT or WAITC stands where other rows have type and mode; those two rows have the type and the mode of
code 0 (R105, R220). -/
def FmtA.byteOk (f : FmtA) (op : Nat) (t : Byte) : Prop :=
  if byteOp op then f.ty = .i8 ∧ f.mode = .rne else t = 0

theorem fieldsA_wordA {op : Nat} (h : op < 256) {f : FmtA} {t : Byte} (ht : f.byteOk op t) :
    fieldsA (wordA op f t) = some ({ f with lit := none }, t, f.lit.isSome) := by
  rw [fieldsA, wordA, unpackFields_word (ws := widthsA) rfl rfl]
  unfold FmtA.byteOk at ht
  have hop : op % 2 ^ 8 = op := Nat.mod_eq_of_lt h
  split at ht
  · next hb =>
    obtain ⟨hty, hm⟩ := ht
    have h1 : t.toNat / 8 % 2 ^ 5 = t.toNat / 8 := by omega
    have h2 : t.toNat % 8 % 2 ^ 3 = t.toNat % 8 := by omega
    have h3 : t.toNat % 8 + 8 * (t.toNat / 8) = t.toNat := by omega
    simp [-Nat.reducePow, hb, hop, h1, h2, h3, hty, hm, Ty.ofCode, Mode.ofCode]
  · next hb =>
    simp [-Nat.reducePow, hb, hop, ht]

end Sys2Proof
end

section
/-! PROOF. The form of an instruction: which table of chapter 3 lays out its words. -/

namespace Sys2Proof

/-! ## What a row of Format A accepts -/

section Row

variable {r : RowA} {f : FmtA}

theorem legalRow_mem (h : legalRow r f = true) : f.ty ∈ r.tys ∧ f.mode ∈ r.modes ∧ f.fn.toNat ∈ r.fns := by
  simp only [legalRow, Bool.and_eq_true, List.contains_iff_mem] at h
  obtain ⟨⟨⟨⟨-, hty⟩, hmode⟩, hfn⟩, -⟩ := h
  exact ⟨hty, hmode, hfn⟩

theorem legalRow_long {l : W64} (h : legalRow r f = true) (hl : f.lit = some l) : r.long = true := by
  simp only [legalRow, hl, Bool.and_eq_true] at h
  obtain ⟨⟨⟨⟨⟨⟨-, hlong⟩, -⟩, -⟩, -⟩, -⟩, -⟩ := h
  exact hlong.1.1.1.1

/-- Zero is a literal of every type (R29), so a row that accepts a long form accepts it with zero. -/
theorem legalRow_zero {l : W64} (h : legalRow r f = true) (hl : f.lit = some l) :
    legalRow r { f with lit := some 0 } = true := by
  have h0 : legalLit f.ty 0 = true := by simp [legalLit]
  simp only [legalRow, hl, Bool.and_eq_true] at h
  obtain ⟨⟨⟨⟨⟨⟨hda, hb, -⟩, hc⟩, hty⟩, hmode⟩, hfn⟩, hguard⟩ := h
  simp only [legalRow, Bool.and_eq_true]
  exact ⟨⟨⟨⟨⟨⟨hda, hb, h0⟩, hc⟩, hty⟩, hmode⟩, hfn⟩, hguard⟩

variable {x : Bool}

/-- A row without a long form takes no literal. -/
theorem lit_of_row (h : (legalRow r f && x) = true) (hr : r.long = false) : f.lit = none := by
  rw [Bool.and_eq_true] at h
  cases hl : f.lit with
  | none => rfl
  | some l => rw [legalRow_long h.1 hl] at hr; cases hr

/-- A row with one function code has that code. -/
theorem fn_of_row {n : Nat} (h : (legalRow r f && x) = true) (hr : r.fns = [n]) : f.fn.toNat = n := by
  rw [Bool.and_eq_true] at h
  simpa [hr] using (legalRow_mem h.1).2.2

theorem row_zero {y : Bool} {l : W64} (h : (legalRow r f && x) = true) (hl : f.lit = some l) (hy : y = true) :
    (legalRow r { f with lit := some 0 } && y) = true := by
  rw [Bool.and_eq_true] at h ⊢
  exact ⟨legalRow_zero h.1 hl, hy⟩

theorem rowTop_zero {l : W64} (hl : f.lit = some l) : rowTop r { f with lit := some 0 } = rowTop r f := by
  simp [rowTop, hl]

end Row

/-! ## The byte of BLUT and WAITC -/

theorem FmtA.byteOk_zero {f : FmtA} {op : Nat} (h : byteOp op = false) : f.byteOk op 0 := by
  simp [FmtA.byteOk, h]

/-- The two rows with a byte have type code 0 and mode code 0. -/
theorem FmtA.byteOk_of_row {r : RowA} {f : FmtA} {x : Bool} {op : Nat} {t : Byte} (h : (legalRow r f && x) = true)
    (hop : byteOp op = true) (hty : r.tys = [.i8]) (hm : r.modes = [.rne]) : f.byteOk op t := by
  rw [Bool.and_eq_true] at h
  obtain ⟨h1, h2, -⟩ := legalRow_mem h.1
  rw [hty, List.mem_singleton] at h1
  rw [hm, List.mem_singleton] at h2
  simp [FmtA.byteOk, hop, h1, h2]

/-! ## Forms -/

/-- The row of a control instruction accepts it with the literal 0 where it accepts it with another. -/
def ZeroLit (op : Nat) (f : FmtA) (t : Byte) (i : Instr) : Prop :=
  ∀ l, f.lit = some l → ∃ j, ctlInstr op { f with lit := some 0 } t = some j ∧ legal j = true ∧ j.vTop = i.vTop

/-- How the words of an instruction are laid out: the format, the opcode and the fields, from which the row is found again
(R26 to R38). -/
inductive Form : Instr → Prop
  | arith {i : Instr} {op : AluOp} {f : FmtA} {t : Byte} (alu : i.alu? = some (op, f, t)) (row : aluInstr op f t = i)
      (byte : op ≠ .blut → t = 0) (len : i.len = if f.lit.isSome then 2 else 1) : Form i
  | control {i : Instr} {op : Nat} {f : FmtA} {t : Byte} (enc : encode i = encA op f t) (row : ctlInstr op f t = some i)
      (fmt : fmtOf op = some .control) (byte : f.byteOk op t) (len : i.len = if f.lit.isSome then 2 else 1)
      (zero : ZeroLit op f t i) : Form i
  | mfs (f : FmtS) : Form (.mfs f)
  | mts (f : FmtS) : Form (.mts f)
  | tree (t : Tree) : Form (.tree t)
  | br (f : FmtB) : Form (.br f)
  | bru (f : FmtB) : Form (.bru f)
  | call (f : FmtB) : Form (.call f)
  | region (k : BitVec 56) (v : W64) : Form (.region k v)
  | mem {i : Instr} {op : Nat} {f : FmtM} (enc : encode i = [wordM op f]) (row : memInstr op f = some i)
      (fmt : fmtOf op = some .mem) (len : i.len = 1) : Form i
  | engine {i : Instr} {op : Nat} {f : FmtE} (enc : encode i = [wordE op f]) (row : engInstr op f = some i)
      (fmt : fmtOf op = some .engine) (len : i.len = 1) : Form i

/-- A control row without a long form. -/
theorem Form.short {i : Instr} {op : Nat} {f : FmtA} {t : Byte} (enc : encode i = encA op f t)
    (row : ctlInstr op f t = some i) (fmt : fmtOf op = some .control) (byte : f.byteOk op t) (lit : f.lit = none)
    (len : i.len = 1) : Form i :=
  .control enc row fmt byte (by simp [len, lit]) (fun l hl => by simp [lit] at hl)

theorem form_of_legal {i : Instr} (h : legal i = true) (he : i.isEvent = false) : Form i := by
  cases i with
  | nop f | mov f | add f | sub f | mul f | mulh f | mad f | addc f | subb f | min f | max f | abs f | neg f | and f
  | or f | xor f | andn f | shl f | shr f | sar f | rot f | bfx f | bfi f | popc f | clz f | ctz f | fnsb f | brev f
  | sel f | cmp f | plog f | pmov f | fadd f | fsub f | fmul f | ffma f | fmin f | fmax f | fcmp f | fcls f | rcp f
  | rsq f | sqrt f | ex2 f | lg2 f | sinp f | cosp f | tanh f | cvt f | cvtef f | qblk f | pack f | unpk f | dot4 f
  | fdot2 f => exact .arith rfl rfl (fun _ => rfl) rfl
  | blut f t => exact .arith rfl rfl (fun hb => absurd rfl hb) rfl
  | mfs f => exact .mfs f
  | mts f => exact .mts f
  | tree t => exact .tree t
  | br f => exact .br f
  | bru f => exact .bru f
  | call f => exact .call f
  | region k v => exact .region k v
  | jmpi f | calli f | ret f | rjn f | regroup f | exit f | trap f | iret f | bkpt f | scan f | red f | vote f | rbal f
  | shfx f | launch f | trc f | bar f | bara f | barw f | qtry f =>
    exact .short rfl rfl rfl (FmtA.byteOk_zero rfl) (lit_of_row h rfl) rfl
  | waitc f t => exact .short rfl rfl rfl (FmtA.byteOk_of_row h rfl rfl rfl) (lit_of_row h rfl) rfl
  | stepRel f | stepAbs f | stepEnd f | lclk f | lclkMrg f | haltbTeam f | haltbTrel f | haltbCtx f | haltbCrel f
  | inspKreg f | inspVreg f | inspGrp f | inspFrag f | inspLmem f | inspLfe f | inspBar f | inspQueue f | cmntInst f
  | cmntIpkg f | cmntWb f | atlbiPage f | atlbiAsid f | atlbiAll f =>
    refine .short rfl ?_ rfl (FmtA.byteOk_zero rfl) (lit_of_row h rfl) rfl
    simp only [ctlInstr, fn_of_row h rfl]
  | xchg f | xshf f | bcst f =>
    exact .control rfl rfl rfl (FmtA.byteOk_zero rfl) rfl fun l hl => ⟨_, rfl, row_zero h hl rfl, rowTop_zero hl⟩
  | sigchk f =>
    exact .control rfl rfl rfl (FmtA.byteOk_zero rfl) rfl fun l hl => ⟨_, rfl, row_zero h hl rfl, rfl⟩
  | sigrst f =>
    refine .control rfl rfl rfl (FmtA.byteOk_zero rfl) rfl fun l hl => ⟨_, rfl, ?_, rfl⟩
    cases f
    cases hl
    exact row_zero h rfl rfl
  | ld f | st f | ldline f | stline f | ldf f | stf f | pref f | tagst f | tagld f | aadd f | amin f | amax f | aand f
  | aor f | axor f | aswp f | acas f | afadd f | ainc f | dqpush f | dqpop f | dqsteal f | fence f | clinit f | clarr f
  | clwait f | cltry f => exact .mem rfl rfl rfl rfl
  | cpy f | cpyp f | cpyg f | cpys f | cpyr f | mma f | mmas f | msca f | acz f | acrd f | acwr f =>
    exact .engine rfl rfl rfl rfl
  | _ => cases he

end Sys2Proof
end

section
/-! PROOF. The decoder, format by format: what it answers for a word of each format. -/

namespace Sys2Proof

/-! ## The decoder by the format of the opcode (R26) -/

section Decode

variable {win : Nat} {w : W64} {ws : List W64}

theorem fmtOf_lt {op : Nat} {k : Fmt} (h : fmtOf op = some k) : op < 256 := by
  refine Nat.lt_of_not_le fun hge => ?_
  simp only [fmtOf, Bool.and_eq_true, Bool.or_eq_true, decide_eq_true_eq] at h
  simp (disch := omega) only [if_neg] at h
  cases h

theorem decode_illop (h : fmtOf (opByte w) = none) : decode win (w :: ws) = .error (.illop 0) := by
  simp [decode, h]

theorem decode_arith (h : fmtOf (opByte w) = some .alu) :
    decode win (w :: ws) = decodeA win w ws (fun f t => (AluOp.ofCode (opByte w)).map (fun o => aluInstr o f t)) := by
  simp [decode, h]

theorem decode_control (h : fmtOf (opByte w) = some .control) :
    decode win (w :: ws) = decodeA win w ws (ctlInstr (opByte w)) := by
  simp [decode, h]

theorem decode_special (h : fmtOf (opByte w) = some .special) :
    decode win (w :: ws) = accept win ((fieldsS w).map (fun f => if opByte w = 0x38 then .mfs f else .mts f)) := by
  simp [decode, h]

theorem decode_tree (h : fmtOf (opByte w) = some .tree) : decode win (w :: ws) = decodeTree win w ws := by
  simp [decode, h]

theorem decode_branch (h : fmtOf (opByte w) = some .branch) :
    decode win (w :: ws) = accept win ((fieldsB w).map
      (fun f => if opByte w = 0x41 then .br f else if opByte w = 0x42 then .bru f else .call f)) := by
  simp [decode, h]

theorem decode_region {k : BitVec 56} {v : W64} (h : fmtOf (opByte w) = some .region) (hk : BitVec.ofNat 56 w.toNat = k)
    (hw : windowOk win (.region k v) = true) : decode win (w :: v :: ws) = .ok (.region k v) := by
  subst hk
  simp only [decode, h, hw, if_true]

theorem decode_mem (h : fmtOf (opByte w) = some .mem) :
    decode win (w :: ws) = accept win ((fieldsM w).bind (memInstr (opByte w))) := by
  simp [decode, h]

theorem decode_engine (h : fmtOf (opByte w) = some .engine) :
    decode win (w :: ws) = accept win ((fieldsE w).bind (engInstr (opByte w))) := by
  simp [decode, h]

theorem accept_some {i : Instr} (hi : legal i = true) (hw : windowOk win i = true) : accept win (some i) = .ok i := by
  simp [accept, hi, hw]

end Decode

/-! ## Format A -/

theorem encA_eq (op : Nat) (f : FmtA) (t : Byte) : encA op f t = wordA op f t :: f.lit.toList := by
  cases h : f.lit <;> simp [encA, h]

theorem length_encA (op : Nat) (f : FmtA) (t : Byte) : (encA op f t).length = if f.lit.isSome then 2 else 1 := by
  cases h : f.lit <;> simp [encA_eq, h]

/-- A long form is checked with the literal 0 first, so that the fault of a literal names word 1; both checks accept. -/
theorem decodeA_wordA {win op : Nat} {f : FmtA} {t : Byte} {mk : FmtA → Byte → Option Instr} {i : Instr}
    {rest : List W64} (hop : op < 256) (ht : f.byteOk op t) (hmk : mk f t = some i) (hi : legal i = true)
    (hw : windowOk win i = true)
    (hz : ∀ l, f.lit = some l →
      ∃ j, mk { f with lit := some 0 } t = some j ∧ legal j = true ∧ windowOk win j = true) :
    decodeA win (wordA op f t) (f.lit.toList ++ rest) mk = .ok i := by
  cases hl : f.lit with
  | none =>
    have hf : { f with lit := none } = f := by rw [← hl]
    simp [decodeA, fieldsA_wordA hop ht, hl, hf, hmk, accept_some hi hw]
  | some l =>
    obtain ⟨j, hj, hjl, hjw⟩ := hz l hl
    have hf : { f with lit := some l } = f := by rw [← hl]
    simp only [decodeA, fieldsA_wordA hop ht, hl, Option.isSome_some, hj, accept_some hjl hjw, Option.toList_some,
      List.singleton_append, hf, hmk, hi, if_true]

/-- R28: reserved bits of Format A that are not all 0. -/
theorem decodeA_reserved {win : Nat} {w : W64} {ws : List W64} {mk : FmtA → Byte → Option Instr}
    (h : w.toNat % 128 ≠ 0) : decodeA win w ws mk = .error (.illenc 0) := by
  have hf : fieldsA w = none := by simp [fieldsA, widthsA, unpackFields, h]
  simp [decodeA, hf]

/-! ### Arithmetic -/

section Arith

variable {i : Instr} {op : AluOp} {f : FmtA} {t : Byte}

theorem legal_of_alu (h : i.alu? = some (op, f, t)) : legal i = legalAlu op f := by
  simp [legal, h]

theorem windowOk_of_alu {win : Nat} (h : i.alu? = some (op, f, t)) : windowOk win i = decide (aluTop op f ≤ win) := by
  simp [windowOk, Instr.vTop, h]

theorem encode_of_alu (h : i.alu? = some (op, f, t)) : encode i = encA op.code f t := by
  simp [encode, h]

theorem alu?_aluInstr (op : AluOp) (f : FmtA) (t : Byte) :
    (aluInstr op f t).alu? = some (op, f, if op = .blut then t else 0) := by
  cases op <;> rfl

theorem fmtOf_aluCode (op : AluOp) : fmtOf op.code = some .alu := by simp [fmtOf, op.code_le]

theorem byteOp_aluCode (op : AluOp) : byteOp op.code = true ↔ op = .blut := by cases op <;> decide

/-- The fields of an arithmetic row that a literal does not change. -/
theorem aluRow_lit (op : AluOp) (f : FmtA) (x : Option W64) : aluRow op { f with lit := x } = aluRow op f := rfl

theorem aluExtra_lit (op : AluOp) (f : FmtA) (x : Option W64) : aluExtra op { f with lit := x } = aluExtra op f := rfl

theorem legalAlu_zero {l : W64} (h : legalAlu op f = true) (hl : f.lit = some l) :
    legalAlu op { f with lit := some 0 } = true := by
  rw [legalAlu, aluRow_lit, aluExtra_lit]
  have hx : aluExtra op f = true := ((Bool.and_eq_true _ _).mp h).2
  exact row_zero h hl hx

theorem aluTop_zero {l : W64} (hl : f.lit = some l) : aluTop op { f with lit := some 0 } = aluTop op f := by
  simp only [aluTop, aluRow_lit, rowTop_zero hl]

theorem byteOk_arith (h : legalAlu op f = true) (ht : op ≠ .blut → t = 0) : f.byteOk op.code t := by
  by_cases hb : op = .blut
  · subst hb
    exact FmtA.byteOk_of_row h rfl rfl rfl
  · rw [ht hb]
    exact FmtA.byteOk_zero (by rw [Bool.eq_false_iff, ne_eq, byteOp_aluCode]; exact hb)

end Arith

/-! ## Each form is decoded from its words -/

section Forms

variable {win : Nat} {i : Instr}

theorem decode_encode_arith {op : AluOp} {f : FmtA} {t : Byte} (alu : i.alu? = some (op, f, t))
    (row : aluInstr op f t = i) (byte : op ≠ .blut → t = 0) (hi : legal i = true) (hw : windowOk win i = true)
    (rest : List W64) : decode win (encode i ++ rest) = .ok i := by
  have hlt : op.code < 256 := fmtOf_lt (fmtOf_aluCode op)
  have hop := opByte_wordA hlt f t
  rw [encode_of_alu alu, encA_eq, List.cons_append, decode_arith (by rw [hop, fmtOf_aluCode])]
  have hf : legalAlu op f = true := legal_of_alu alu ▸ hi
  refine decodeA_wordA hlt (byteOk_arith hf byte) (by simp [hop, row]) hi hw fun l hl =>
    ⟨_, by rw [hop, AluOp.ofCode_code]; rfl, ?_, ?_⟩
  · rw [legal_of_alu (alu?_aluInstr ..), legalAlu_zero hf hl]
  · rw [windowOk_of_alu alu] at hw
    rw [windowOk_of_alu (alu?_aluInstr ..), aluTop_zero hl, hw]

theorem decode_encode_control {op : Nat} {f : FmtA} {t : Byte} (enc : encode i = encA op f t)
    (row : ctlInstr op f t = some i) (fmt : fmtOf op = some .control) (byte : f.byteOk op t) (zero : ZeroLit op f t i)
    (hi : legal i = true) (hw : windowOk win i = true) (rest : List W64) : decode win (encode i ++ rest) = .ok i := by
  have hop := opByte_wordA (fmtOf_lt fmt) f t
  rw [enc, encA_eq, List.cons_append, decode_control (by rw [hop, fmt]), hop]
  refine decodeA_wordA (fmtOf_lt fmt) byte row hi hw fun l hl => ?_
  obtain ⟨j, hj, hjl, htop⟩ := zero l hl
  exact ⟨j, hj, hjl, by rw [windowOk, htop]; exact hw⟩

theorem decode_encode_mem {op : Nat} {f : FmtM} (enc : encode i = [wordM op f]) (row : memInstr op f = some i)
    (fmt : fmtOf op = some .mem) (hi : legal i = true) (hw : windowOk win i = true) (rest : List W64) :
    decode win (encode i ++ rest) = .ok i := by
  have hop := opByte_wordM (fmtOf_lt fmt) f
  rw [enc, List.singleton_append, decode_mem (by rw [hop, fmt]), fieldsM_wordM, hop, Option.bind_some, row,
    accept_some hi hw]

theorem decode_encode_engine {op : Nat} {f : FmtE} (enc : encode i = [wordE op f]) (row : engInstr op f = some i)
    (fmt : fmtOf op = some .engine) (hi : legal i = true) (hw : windowOk win i = true) (rest : List W64) :
    decode win (encode i ++ rest) = .ok i := by
  have hop := opByte_wordE (fmtOf_lt fmt) f
  rw [enc, List.singleton_append, decode_engine (by rw [hop, fmt]), fieldsE_wordE, hop, Option.bind_some, row,
    accept_some hi hw]

/-- BR, BRU and CALL share Format B. -/
theorem decode_encode_branch {op : Nat} {f : FmtB} (enc : encode i = [wordB op f])
    (row : (if op = 0x41 then .br f else if op = 0x42 then .bru f else .call f) = i) (fmt : fmtOf op = some .branch)
    (hi : legal i = true) (hw : windowOk win i = true) (rest : List W64) : decode win (encode i ++ rest) = .ok i := by
  have hop := opByte_wordB (fmtOf_lt fmt) f
  rw [enc, List.singleton_append, decode_branch (by rw [hop, fmt]), fieldsB_wordB, hop, Option.map_some, row,
    accept_some hi hw]

/-- MFS and MTS share Format S. -/
theorem decode_encode_special {op : Nat} {f : FmtS} (enc : encode i = [wordS op f])
    (row : (if op = 0x38 then .mfs f else .mts f) = i) (fmt : fmtOf op = some .special)
    (hi : legal i = true) (hw : windowOk win i = true) (rest : List W64) : decode win (encode i ++ rest) = .ok i := by
  have hop := opByte_wordS (fmtOf_lt fmt) f
  rw [enc, List.singleton_append, decode_special (by rw [hop, fmt]), fieldsS_wordS, hop, Option.map_some, row,
    accept_some hi hw]

theorem opByte_regionWord (k : BitVec 56) : opByte (.ofNat 64 (packFields [(56, k.toNat), (8, 0x4A)])) = 0x4A :=
  opByte_word rfl rfl (by decide)

theorem decode_encode_region {k : BitVec 56} {v : W64} (hw : windowOk win (.region k v) = true) (rest : List W64) :
    decode win (encode (.region k v) ++ rest) = .ok (.region k v) := by
  have hk : BitVec.ofNat 56 (BitVec.ofNat 64 (packFields [(56, k.toNat), (8, 0x4A)])).toNat = k := by
    apply BitVec.eq_of_toNat_eq
    simp only [packFields, BitVec.toNat_ofNat]
    omega
  exact decode_region (by rw [opByte_regionWord]; rfl) hk hw

end Forms

end Sys2Proof
end

section
/-! PROOF. Trees: the header, the tests, the leaves and the arc operations of a TREE are read back (R38 to R42). -/

namespace Sys2Proof

/-! ## The parts of a well-formed tree -/

section Parts

variable {t : Tree}

/-- The lengths that the header's fields have. -/
theorem Tree.headerOk_lengths (h : t.headerOk = true) : t.present.length = 7 ∧ t.counts.length = 14 := by
  simp only [Tree.headerOk, Bool.and_eq_true, beq_iff_eq] at h
  obtain ⟨⟨⟨⟨hp, hc⟩, -⟩, -⟩, -⟩ := h
  exact ⟨hp, hc⟩

/-- A well-formed tree, part by part (R41, R42). -/
structure Tree.Ok (t : Tree) : Prop where
  header : t.headerOk = true
  nTests : t.tests.length = t.nodes
  nLeaves : t.leaves.length = t.nodes + 1
  nOps : t.ops.length = (t.counts.map BitVec.toNat).sum
  tests : ∀ n ∈ t.tests, legalTest n = true
  leaves : ∀ l ∈ t.leaves, legalLeaf t.len l = true
  ops : ∀ o ∈ t.ops, legalArc o = true

theorem Tree.ok_of_legal (h : legalTree t = true) : t.Ok := by
  simp only [legalTree, Bool.and_eq_true, beq_iff_eq, List.all_eq_true] at h
  obtain ⟨⟨⟨⟨⟨⟨h1, h2⟩, h3⟩, h4⟩, h5⟩, h6⟩, h7⟩ := h
  exact ⟨h1, h2, h3, h4, h5, h6, h7⟩

/-- The header alone gives the number of words (R25). -/
theorem Tree.Ok.len_eq (h : t.Ok) :
    t.len = 1 + t.nodes + (t.nodes + 2) / 2 + (t.counts.map BitVec.toNat).sum := by
  rw [Tree.len, h.nTests, h.nLeaves, h.nOps]

end Parts

/-! ## The window of a tree's registers (R53) -/

theorem foldl_max_le {l : List Nat} {a n : Nat} : l.foldl Nat.max a ≤ n ↔ a ≤ n ∧ ∀ x ∈ l, x ≤ n := by
  induction l generalizing a with
  | nil => simp
  | cons x l ih =>
    have hmax : Nat.max a x ≤ n ↔ a ≤ n ∧ x ≤ n := Nat.max_le
    simp only [List.foldl_cons, ih, hmax, List.forall_mem_cons, and_assoc]

theorem windowOk_tree {win : Nat} {t : Tree} (h : windowOk win (.tree t) = true) :
    (∀ n ∈ t.tests, testTop n ≤ win) ∧ ∀ o ∈ t.ops, aluTop o.op o.f ≤ win := by
  have htop : Nat.max ((t.tests.map testTop).foldl Nat.max 0)
      ((t.ops.map (fun o => aluTop o.op o.f)).foldl Nat.max 0) ≤ win := of_decide_eq_true h
  obtain ⟨h1, h2⟩ := Nat.max_le.mp htop
  exact ⟨List.forall_mem_map.mp (foldl_max_le.mp h1).2, List.forall_mem_map.mp (foldl_max_le.mp h2).2⟩

/-! ## The header -/

theorem opByte_wordTreeHead {t : Tree} (h : t.headerOk = true) : opByte (wordTreeHead t) = 0x40 := by
  obtain ⟨hp, hc⟩ := Tree.headerOk_lengths h
  refine opByte_word ?_ (List.getLast?_concat ..) (by decide)
  simp [List.map_map, Function.comp_def, List.map_const', hp, hc]

theorem fieldsT_wordTreeHead {t : Tree} (h : t.headerOk = true) :
    fieldsT (wordTreeHead t) = some { t with tests := [], leaves := [], ops := [] } := by
  obtain ⟨hp, hc⟩ := Tree.headerOk_lengths h
  have hcounts : t.counts.map (fun c => BitVec.ofNat 2 c.toNat) = t.counts := by simp
  have hpresent : t.present.map (fun p => bit01 p == 1) = t.present := by simp
  rw [fieldsT, wordTreeHead, unpackFields_word (ws := widthsT)
    (by simp [List.map_map, Function.comp_def, List.map_const', hp, hc, widthsT]) rfl]
  simp [-Nat.reducePow, Function.comp_def, hp, hc]

/-! ## Tests -/

theorem decodeTests_words {win : Nat} {ts : List TestNode} (hl : ∀ n ∈ ts, legalTest n = true)
    (hw : ∀ n ∈ ts, testTop n ≤ win) (i : Nat) (rest : List W64) :
    decodeTests win ts.length i (ts.map wordTest ++ rest) = .ok (ts, rest) := by
  induction ts generalizing i with
  | nil => rfl
  | cons n ts ih =>
    rw [List.forall_mem_cons] at hl hw
    simp [decodeTests, fieldsTest_wordTest, hl.1, hw.1, ih hl.2 hw.2]

/-! ## Leaves -/

theorem leafNat_lt (l : Leaf) : leafNat l < 2 ^ 32 := by
  have hk := l.kind.code_lt
  simp only [leafNat]
  omega

theorem fieldsLeaf_leafNat (l : Leaf) : fieldsLeaf (leafNat l) = l := by
  have hk := l.kind.code_lt
  have h1 : leafNat l / 2 ^ 30 % 4 = l.kind.code := by simp only [leafNat]; omega
  have h2 : BitVec.ofNat 30 (leafNat l) = l.offset := by
    apply BitVec.eq_of_toNat_eq
    simp only [leafNat, BitVec.toNat_ofNat]
    omega
  rw [fieldsLeaf, h1, h2, LeafKind.ofCode_code]

/-- Two leaves stand in the halves of their word. -/
theorem leafWord_halves (l : Leaf) {low : Nat} (hlow : low < 2 ^ 32) :
    fieldsLeaf ((BitVec.ofNat 64 (leafNat l * 2 ^ 32 + low)).toNat / 2 ^ 32) = l
      ∧ (BitVec.ofNat 64 (leafNat l * 2 ^ 32 + low)).toNat % 2 ^ 32 = low := by
  have hl := leafNat_lt l
  have hn : (BitVec.ofNat 64 (leafNat l * 2 ^ 32 + low)).toNat = leafNat l * 2 ^ 32 + low := by
    rw [BitVec.toNat_ofNat]
    omega
  have hdiv : (leafNat l * 2 ^ 32 + low) / 2 ^ 32 = leafNat l := by omega
  rw [hn, hdiv, fieldsLeaf_leafNat]
  exact ⟨rfl, by omega⟩

theorem decodeLeaves_words {len : Nat} (ls : List Leaf) (hl : ∀ l ∈ ls, legalLeaf len l = true) (i : Nat)
    (rest : List W64) :
    decodeLeaves len ls.length i (wordsLeaves ls ++ rest) = .ok (ls, rest) := by
  induction ls using wordsLeaves.induct generalizing i with
  | case1 => rfl
  | case2 l =>
    obtain ⟨h1, h2⟩ := leafWord_halves l (low := 0) (by decide)
    rw [Nat.add_zero] at h1 h2
    simp only [List.forall_mem_singleton] at hl
    simp only [List.length_singleton, decodeLeaves, wordsLeaves, List.singleton_append, h1, h2, hl, beq_self_eq_true,
      Bool.and_self, if_true]
  | case3 l r ls ih =>
    obtain ⟨h1, h2⟩ := leafWord_halves l (leafNat_lt r)
    simp only [List.forall_mem_cons] at hl
    obtain ⟨hl1, hl2, hls⟩ := hl
    simp only [List.length_cons, decodeLeaves, wordsLeaves, List.cons_append, h1, h2, fieldsLeaf_leafNat,
      hl1, hl2, ih hls, Bool.and_self, if_true]

theorem length_wordsLeaves (ls : List Leaf) : (wordsLeaves ls).length = (ls.length + 1) / 2 := by
  induction ls using wordsLeaves.induct with
  | case1 => rfl
  | case2 l => simp [wordsLeaves]
  | case3 l r ls ih =>
    simp only [wordsLeaves, List.length_cons, ih]
    omega

/-! ## Arc operations -/

/-- What an arc operation may be (R42): a short form, with a byte for BLUT alone. -/
theorem legalArc_parts {o : ArcOp} (h : legalArc o = true) :
    legalAlu o.op o.f = true ∧ o.f.lit = none ∧ (o.op ≠ .blut → o.table = 0) := by
  simp only [legalArc, Bool.and_eq_true, Option.isNone_iff_eq_none] at h
  obtain ⟨⟨⟨⟨hl, -⟩, hlit⟩, -⟩, ht⟩ := h
  refine ⟨hl, hlit, fun hb => ?_⟩
  obtain ⟨op, f, table⟩ := o
  cases op with
  | blut => exact absurd rfl hb
  | rcp | rsq | sqrt | ex2 | lg2 | sinp | cosp | tanh | cvtef | qblk => cases ht
  | _ => exact eq_of_beq ht

theorem decodeArc_word {win : Nat} {o : ArcOp} (h : legalArc o = true) (hw : aluTop o.op o.f ≤ win) (i : Nat) :
    decodeArc win i (wordA o.op.code o.f o.table) = .ok o := by
  obtain ⟨hl, hlit, ht⟩ := legalArc_parts h
  have hlt : o.op.code < 256 := fmtOf_lt (fmtOf_aluCode o.op)
  have hf : { o.f with lit := none } = o.f := by rw [← hlit]
  simp [decodeArc, opByte_wordA hlt, fmtOf_aluCode, fieldsA_wordA hlt (byteOk_arith hl ht), hlit, hf, h, hw]

theorem decodeArcs_words {win : Nat} {os : List ArcOp} (hl : ∀ o ∈ os, legalArc o = true)
    (hw : ∀ o ∈ os, aluTop o.op o.f ≤ win) (i : Nat) (rest : List W64) :
    decodeArcs win os.length i (os.map (fun o => wordA o.op.code o.f o.table) ++ rest) = .ok os := by
  induction os generalizing i with
  | nil => rfl
  | cons o os ih =>
    rw [List.forall_mem_cons] at hl hw
    simp [decodeArcs, decodeArc_word hl.1 hw.1, ih hl.2 hw.2]

/-! ## The tree -/

theorem decode_encode_tree {win : Nat} {t : Tree} (hi : legal (.tree t) = true) (hw : windowOk win (.tree t) = true)
    (rest : List W64) : decode win (encode (.tree t) ++ rest) = .ok (.tree t) := by
  have h : t.Ok := Tree.ok_of_legal hi
  obtain ⟨hwt, hwo⟩ := windowOk_tree hw
  have henc : encode (.tree t) ++ rest = wordTreeHead t :: (t.tests.map wordTest ++ (wordsLeaves t.leaves
      ++ (t.ops.map (fun o => wordA o.op.code o.f o.table) ++ rest))) := by
    simp [encode, Instr.alu?]
  rw [henc, decode_tree (by rw [opByte_wordTreeHead h.header]; rfl)]
  have hhead : ({ t with tests := [], leaves := [], ops := [] } : Tree).headerOk = true := h.header
  have hnodes : ({ t with tests := [], leaves := [], ops := [] } : Tree).nodes = t.tests.length := h.nTests.symm
  have hlen : 1 + t.tests.length + (t.tests.length + 2) / 2 + t.ops.length = t.len := by rw [h.len_eq, h.nTests, h.nOps]
  have hnl : t.tests.length + 1 = t.leaves.length := by rw [h.nTests, h.nLeaves]
  simp only [decodeTree, fieldsT_wordTreeHead h.header, hhead, hnodes, ← h.nOps, hlen, hnl, decodeTests_words h.tests hwt,
    decodeLeaves_words _ h.leaves, decodeArcs_words h.ops hwo, Bool.not_true, Bool.false_eq_true, if_false]

theorem decode_encode {win : Nat} {i : Instr} (hi : legal i = true) (hw : windowOk win i = true) (he : i.isEvent = false)
    (rest : List W64) : decode win (encode i ++ rest) = .ok i := by
  cases form_of_legal hi he with
  | arith alu row byte => exact decode_encode_arith alu row byte hi hw rest
  | control enc row fmt byte _ zero => exact decode_encode_control enc row fmt byte zero hi hw rest
  | mfs f => exact decode_encode_special (op := 0x38) rfl rfl rfl hi hw rest
  | mts f => exact decode_encode_special (op := 0x39) rfl rfl rfl hi hw rest
  | tree t => exact decode_encode_tree hi hw rest
  | br f => exact decode_encode_branch (op := 0x41) rfl rfl rfl hi hw rest
  | bru f => exact decode_encode_branch (op := 0x42) rfl rfl rfl hi hw rest
  | call f => exact decode_encode_branch (op := 0x44) rfl rfl rfl hi hw rest
  | region k v => exact decode_encode_region hw rest
  | mem enc row fmt => exact decode_encode_mem enc row fmt hi hw rest
  | engine enc row fmt => exact decode_encode_engine enc row fmt hi hw rest

/-- Settles O2: each form is decoded from its words. -/
theorem decodeEncode : Obligations.DecodeEncode := by
  unfold Obligations.DecodeEncode
  exact fun _ rest hi hw he => decode_encode hi hw he rest

end Sys2Proof
end

section
/-! PROOF. Lengths (R25), unassigned opcodes (R27, R44) and the reserved bits of Format A (R28); words of the spec's
chapters. -/

namespace Sys2Proof

open Machine

/-! ## Lengths (R25) -/

section Lengths

variable {w : W64}

/-- The formats of one word. -/
def Fmt.oneWord : Fmt → Bool
  | .special | .branch | .mem | .engine => true
  | .alu | .control | .region | .tree => false

theorem headLen_one {k : Fmt} (h : fmtOf (opByte w) = some k) (hk : k.oneWord = true) : headLen w = 1 := by
  cases k with
  | special | branch | mem | engine => simp [headLen, h]
  | alu | control | region | tree => cases hk

theorem headLen_wordA {op : Nat} (h : fmtOf op = some .alu ∨ fmtOf op = some .control) (f : FmtA) (t : Byte) :
    headLen (wordA op f t) = if f.lit.isSome then 2 else 1 := by
  have hop : op < 256 := h.elim fmtOf_lt fmtOf_lt
  obtain h | h := h <;> simp [headLen, opByte_wordA hop, h, longBit_wordA]

theorem headLen_wordTreeHead {t : Tree} (h : t.Ok) : headLen (wordTreeHead t) = t.len := by
  have hfmt : fmtOf (opByte (wordTreeHead t)) = some .tree := by rw [opByte_wordTreeHead h.header]; rfl
  simp only [headLen, hfmt, fieldsT_wordTreeHead h.header, h.len_eq]
  rfl

/-- The words of Format A with their length. -/
theorem lengths_encA {i : Instr} {op : Nat} {f : FmtA} {t : Byte} (enc : encode i = encA op f t)
    (fmt : fmtOf op = some .alu ∨ fmtOf op = some .control) (len : i.len = if f.lit.isSome then 2 else 1) :
    (encode i).length = i.len ∧ headLen (word0 i) = i.len := by
  rw [word0, enc, length_encA, encA_eq, List.headD_cons, headLen_wordA fmt, len]
  exact ⟨rfl, rfl⟩

/-- An instruction of one word. -/
theorem lengths_one {i : Instr} {op : Nat} {k : Fmt} (enc : encode i = [w]) (len : i.len = 1) (hop : opByte w = op)
    (fmt : fmtOf op = some k) (hk : k.oneWord = true) : (encode i).length = i.len ∧ headLen (word0 i) = i.len := by
  rw [word0, enc, List.headD_cons, headLen_one (hop ▸ fmt) hk, len]
  exact ⟨rfl, rfl⟩

theorem lengths_tree {t : Tree} (h : t.Ok) :
    (encode (.tree t)).length = t.len ∧ headLen (word0 (.tree t)) = t.len := by
  refine ⟨?_, headLen_wordTreeHead h⟩
  simp only [encode, Instr.alu?, List.length_append, List.length_cons, List.length_map, length_wordsLeaves, Tree.len]
  omega

theorem lengths_region (k : BitVec 56) (v : W64) :
    (encode (.region k v)).length = 2 ∧ headLen (word0 (.region k v)) = 2 := by
  have hfmt : fmtOf (opByte (word0 (.region k v))) = some .region := congrArg fmtOf (opByte_regionWord k)
  exact ⟨rfl, by rw [headLen, hfmt]⟩

theorem lengths_encode {i : Instr} (hi : legal i = true) (he : i.isEvent = false) :
    (encode i).length = i.len ∧ headLen (word0 i) = i.len := by
  cases form_of_legal hi he with
  | arith alu row byte len => exact lengths_encA (encode_of_alu alu) (.inl (fmtOf_aluCode _)) len
  | control enc row fmt byte len => exact lengths_encA enc (.inr fmt) len
  | mfs f => exact lengths_one rfl rfl (opByte_wordS (by decide) f) rfl rfl
  | mts f => exact lengths_one rfl rfl (opByte_wordS (by decide) f) rfl rfl
  | tree t => exact lengths_tree (Tree.ok_of_legal hi)
  | br f => exact lengths_one rfl rfl (opByte_wordB (by decide) f) rfl rfl
  | bru f => exact lengths_one rfl rfl (opByte_wordB (by decide) f) rfl rfl
  | call f => exact lengths_one rfl rfl (opByte_wordB (by decide) f) rfl rfl
  | region k v => exact lengths_region k v
  | mem enc row fmt len => exact lengths_one enc len (opByte_wordM (fmtOf_lt fmt) _) fmt rfl
  | engine enc row fmt len => exact lengths_one enc len (opByte_wordE (fmtOf_lt fmt) _) fmt rfl

end Lengths

/-! ## Opcodes (R27) -/

/-- The opcodes that no row of the table has. -/
theorem fmtOf_unassigned {op : Nat} (h : (0x3A ≤ op ∧ op ≤ 0x3F) ∨ (0x60 ≤ op ∧ op ≤ 0x7F) ∨ (0x89 ≤ op ∧ op ≤ 0x8F)
    ∨ (0x9D ≤ op ∧ op ≤ 0x9F) ∨ (0xAA ≤ op ∧ op ≤ 0xBF) ∨ (0xC5 ≤ op ∧ op ≤ 0xC7) ∨ 0xCE ≤ op) :
    fmtOf op = none := by
  simp only [fmtOf, Bool.and_eq_true, Bool.or_eq_true, decide_eq_true_eq]
  simp (disch := omega) only [if_neg]

/-- The opcodes of Format A. -/
theorem fmtOf_formatA {op : Nat} (h : op ≤ 0x37 ∨ op = 0x43 ∨ (0x45 ≤ op ∧ op ≤ 0x49)
    ∨ (0x4B ≤ op ∧ op ≤ 0x5F) ∨ (0xA1 ≤ op ∧ op ≤ 0xA4) ∨ op = 0xA9) :
    fmtOf op = some .alu ∨ fmtOf op = some .control := by
  by_cases hop : op ≤ 0x37
  · exact .inl (by rw [fmtOf, if_pos hop])
  · right
    simp only [fmtOf, Bool.and_eq_true, Bool.or_eq_true, decide_eq_true_eq]
    by_cases hlow : op ≤ 0x5F <;> simp (disch := omega) only [if_neg, if_pos]

/-- Settles O3: the lengths form by form, then the two kinds of words that no instruction has. -/
theorem encodingRules : Obligations.EncodingRules := by
  unfold Obligations.EncodingRules
  refine ⟨fun i hi he => lengths_encode hi he, fun win w ws h => decode_illop (fmtOf_unassigned h),
    fun win w ws h hres => ?_⟩
  obtain hfmt | hfmt := fmtOf_formatA h
  · rw [decode_arith hfmt, decodeA_reserved hres]
  · rw [decode_control hfmt, decodeA_reserved hres]

/-! ## Words of the spec's chapters -/

/-- Settles O1: each word is evaluated by the decoder. -/
theorem exampleWordsDecode : Obligations.ExampleWordsDecode := by
  unfold Obligations.ExampleWordsDecode
  decide +kernel

end Sys2Proof
end

section
/-! PROOF. Fetch: where a word comes from and its faults (R43, R45, R195), and the step that runs what has been fetched
(R43 to R45, R49, R168, R324). -/

namespace Sys2Proof.Machine

/-! ## What the operations of a fetch leave -/

@[simp] theorem postWriteback_mem (s : State) (c : Nat) (l : CacheLine) : (postWriteback s c l).mem = s.mem := by
  unfold postWriteback
  split <;> rfl

@[simp] theorem setL1_mem (s : State) (c : Nat) (l : CacheLine) : (setL1 s c l).mem = s.mem := by
  unfold setL1
  split
  split
  · exact postWriteback_mem ..
  · rfl

@[simp] theorem bufferWord_mem (s : State) (c asid va : Nat) (w : W64) : (bufferWord s c asid va w).mem = s.mem := rfl

@[simp] theorem bufferedWord_bufferWord (s : State) (c asid va : Nat) (w : W64) :
    bufferedWord (bufferWord s c asid va w) c asid va = some w := by
  simp [bufferedWord, bufferWord, State.modCore_eq]

@[simp] theorem askLine_mem (s : State) (c asid va : Nat) (pc : W64) : (askLine s c asid va pc).mem = s.mem := by
  unfold askLine
  extract_lets
  split <;> rfl

/-- The line is asked for, now or before. -/
theorem askLine_asked (s : State) (c asid va : Nat) (pc : W64) :
    ∃ q ∈ (askLine s c asid va pc).fetches, q.inst = true ∧ q.core = c ∧ q.asid = asid ∧ q.line = va / 256 := by
  unfold askLine
  extract_lets line
  split
  · next h => simpa [and_assoc] using List.any_eq_true.mp h
  · exact ⟨_, List.mem_append_right _ (List.mem_singleton_self _), rfl, rfl, rfl, rfl⟩

/-! ## The fetch of one word -/

section Word

variable {s t : State} {c asid k va shown : Nat} {pc : W64} {e : SliceEntry}

/-- R45: beyond the address space. -/
theorem fetchWord_beyond (h : 2 ^ 61 ≤ pc.toNat ∨ 2 ^ 57 ≤ pc.toNat % 2 ^ 57 + 8 * k) :
    fetchWord s c asid pc k = (.fault 4, s) := by
  simp only [fetchWord, Bool.or_eq_true, decide_eq_true_eq, if_pos h]

/-- The address of the word at offset `k` from a PC, as it is translated and as it is shown, lies in the address space. -/
structure WordAddr (pc : W64) (k va shown : Nat) : Prop where
  pc_lt : pc.toNat < 2 ^ 61
  va_eq : pc.toNat % 2 ^ 57 + 8 * k = va
  va_lt : va < 2 ^ 57
  shown_eq : pc.toNat / 2 ^ 57 * 2 ^ 57 + va = shown

/-- R45: the page of a word is not present. -/
theorem fetchWord_absent (h : WordAddr pc k va shown) (ht : translate s (dieOf c) asid va c shown = (none, t)) :
    fetchWord s c asid pc k = (.fault 11, t) := by
  obtain ⟨hpc, rfl, hlt, rfl⟩ := h
  have hin : ¬ (2 ^ 61 ≤ pc.toNat ∨ 2 ^ 57 ≤ pc.toNat % 2 ^ 57 + 8 * k) := by omega
  simp only [fetchWord, Bool.or_eq_true, decide_eq_true_eq, if_neg hin, ht]

/-- R45: the page of a word may not be executed. -/
theorem fetchWord_noExec (h : WordAddr pc k va shown) (ht : translate s (dieOf c) asid va c shown = (some e, t))
    (hx : e.leaf.x = false) : fetchWord s c asid pc k = (.fault 6, t) := by
  obtain ⟨hpc, rfl, hlt, rfl⟩ := h
  have hin : ¬ (2 ^ 61 ≤ pc.toNat ∨ 2 ^ 57 ≤ pc.toNat % 2 ^ 57 + 8 * k) := by omega
  simp only [fetchWord, Bool.or_eq_true, decide_eq_true_eq, if_neg hin, ht, hx, Bool.not_false, if_true]

/-- A word of an executable page that the device's memory holds. -/
theorem fetchWord_local (h : WordAddr pc k va shown) (ht : translate s (dieOf c) asid va c shown = (some e, t))
    (hx : e.leaf.x = true) (hattr : e.leaf.attr = 0) :
    fetchWord s c asid pc k = localWord t c asid va (leafAddr e.bits va e.leaf) pc := by
  obtain ⟨hpc, rfl, hlt, rfl⟩ := h
  have hin : ¬ (2 ^ 61 ≤ pc.toNat ∨ 2 ^ 57 ≤ pc.toNat % 2 ^ 57 + 8 * k) := by omega
  simp only [fetchWord, Bool.or_eq_true, decide_eq_true_eq, if_neg hin, ht, hx, hattr, Bool.not_true, Bool.false_eq_true,
    if_false, ne_eq, not_true_eq_false]

end Word

/-! ## A word of a local page (R45, R195) -/

section LocalWord

variable {s : State} {c asid va pa : Nat} {pc w : W64}

/-- The copy of a line in an L1 from which a word may be taken: global data under its lease (R223). -/
def codeHeld (s : State) (c asid va : Nat) : Option CacheLine :=
  (findLine (s.core (l1Core s c (va / 256))).l1 asid (va / 256)).filter
    (fun l => !l.lane && decide (s.gt < l.expiry) && l.sectors.getLsbD (va % 256 / 64))

theorem codeCopy_held {l : CacheLine} (h : codeHeld s c asid va = some l) :
    codeCopy s c asid va = (some l, setL1 s (l1Core s c (va / 256)) l) := by
  unfold codeHeld at h
  simp only [codeCopy, h]

theorem codeCopy_none (h : codeHeld s c asid va = none) (hl2 : findLine (s.die (dieOf c)).l2 asid (va / 256) = none) :
    codeCopy s c asid va = (none, s) := by
  unfold codeHeld at h
  simp only [codeCopy, h, hl2, Option.filter_none]

theorem localWord_buffered (hb : bufferedWord s c asid va = some w) (hw : w = .ofNat 64 (Memory.word s.mem pa 8)) :
    localWord s c asid va pa pc = (.word w, s) := by
  simp only [localWord, hb, ← hw, beq_self_eq_true, if_true]

theorem localWord_copy {l : CacheLine} (hb : bufferedWord s c asid va = none) (hl : codeHeld s c asid va = some l)
    (hp : l.poison.getLsbD (va % 256 / 32) = false) (hw : w = .ofNat 64 (bytesVal ((l.bytes.drop (va % 256)).take 8))) :
    localWord s c asid va pa pc = (.word w, bufferWord (setL1 s (l1Core s c (va / 256)) l) c asid va w) := by
  simp only [localWord, hb, codeCopy_held hl, hp, ← hw, Bool.false_eq_true, if_false]

theorem localWord_wait (hb : bufferedWord s c asid va = none) (hl : codeHeld s c asid va = none)
    (hl2 : findLine (s.die (dieOf c)).l2 asid (va / 256) = none) :
    localWord s c asid va pa pc = (.wait asid (va / 256), askLine s c asid va pc) := by
  simp only [localWord, hb, codeCopy_none hl hl2]

end LocalWord

/-! ## The fetch of an instruction -/

section Instruction

variable {s t : State} {c asid win n : Nat} {pc w : W64} {i : Instr}

theorem fetchFrom_run (hf : fetchWord s c asid pc 0 = (.word w, t)) (hd : decode win [w] = .ok i) :
    fetchFrom c asid win pc (n + 1) [] s = (.run i, t) := by
  simp only [fetchFrom, List.length_nil, hf, List.nil_append, hd]

theorem fetchFrom_wait {a l : Nat} (hf : fetchWord s c asid pc 0 = (.wait a l, t)) :
    fetchFrom c asid win pc (n + 1) [] s = (.wait a l, t) := by
  simp only [fetchFrom, List.length_nil, hf]

end Instruction

/-- Settles O5: the fetch of a local page by what holds the word, then the three faults by the check that fails. -/
theorem fetchRules : Obligations.FetchRules := by
  unfold Obligations.FetchRules
  refine ⟨fun s s1 c asid win n pc w e i hpc ht hx hattr => ?_, fun s c asid k pc => ⟨?_, ?_, ?_⟩⟩
  · have ha : WordAddr pc 0 pc.toNat pc.toNat := ⟨by omega, by omega, hpc, by omega⟩
    have hf := fetchWord_local ha ht hx hattr
    refine ⟨fun hb hw hd => ?_, fun l hb hl hp hw hd => ?_, fun hb hl hl2 => ?_⟩
    · exact fetchFrom_run (hf.trans (localWord_buffered hb hw)) hd
    · exact ⟨_, fetchFrom_run (hf.trans (localWord_copy hb hl hp hw)) hd, by simp, by simp⟩
    · exact ⟨_, fetchFrom_wait (hf.trans (localWord_wait hb hl hl2)), askLine_mem .., askLine_asked ..⟩
  · intro h
    rw [fetchWord_beyond h]
  · intro hpc hva ht
    rw [fetchWord_absent ⟨hpc, rfl, hva, rfl⟩ (Prod.ext ht rfl)]
  · intro e hpc hva ht hx
    rw [fetchWord_noExec ⟨hpc, rfl, hva, rfl⟩ (Prod.ext ht rfl) hx]

/-! ## The step -/

section Step

variable {s s1 s2 : State} {r : FragRef} {i : Instr} {fol : Option (BitVec 56 × W64)}

/-- What is left to do when the words of a pass at its start decode: the REGION that follows, then the comparators. -/
theorem fetchCurrent_run (hmid : (s.frag r).mid = false)
    (hrun : fetchFrom r.core (s.teamOf r.core r.hslot).ctx.asid
      (windowOf (s.teamOf r.core r.hslot) (s.group r.core r.hslot).role) (s.frag r).pc maxWords [] s = (.run i, s1))
    (hfol : if needsRegion i then fol.isSome = true ∧
        fetchFollow { s1 with cur := none } r (s.teamOf r.core r.hslot).ctx.asid i = (fol, s2)
      else fol = none ∧ s2 = s1)
    (hcmp : (s.frag r).skip.isSome = true ∨ bareIret (s.group r.core r.hslot) r.entry i = true ∨
      comparatorHit { s2 with follow := fol, cur := some r } r = none) :
    fetchCurrent s r =
      (some i, { s2 with follow := fol, cur := some r }.modFrag r (fun f => { f with instr := some i, follow := fol })) := by
  unfold State.teamOf at hrun hfol
  have hpair : (if needsRegion i = true then
      fetchFollow { s1 with cur := none } r (s.team r.core (s.group r.core r.hslot).team).ctx.asid i
      else (none, s1)) = (fol, s2) := by
    split at hfol
    · next h => rw [if_pos h, hfol.2]
    · next h => rw [if_neg h, hfol.1, hfol.2]
  have hgo : (needsRegion i && fol.isNone) = false := by
    split at hfol
    · next h => simpa [h] using hfol.1
    · next h => simp [h]
  have hask : (if (false || (s.frag r).skip.isSome || bareIret (s.group r.core r.hslot) r.entry i) = true then none
      else comparatorHit { s2 with follow := fol, cur := some r } r) = none := by
    obtain h | h | h := hcmp <;> simp [h]
  simp only [fetchCurrent, hmid, Bool.false_eq_true, if_false, hrun, hpair, hgo, hask]

theorem step_of_fetchCurrent (hag : s.agenda = []) (hpow : s.powered = true) (hcur : s.cur = some r)
    (hf : fetchCurrent s r = (some i, s1)) : step s = exec i s1 := by
  simp only [step, hag, hpow, hcur, hf, Bool.not_true, Bool.false_eq_true, if_false]

end Step

/-- Settles O4: the fetch ends with the instruction, which the step performs. -/
theorem stepRunsTheDecodedInstruction : Obligations.StepRunsTheDecodedInstruction := by
  unfold Obligations.StepRunsTheDecodedInstruction
  intro s s1 s2 r i fol hag hpow hcur hmid hrun hfol hcmp
  exact step_of_fetchCurrent hag hpow hcur (fetchCurrent_run hmid hrun hfol hcmp)

end Sys2Proof.Machine
end
